-- ==== Sys2Proof/Word.lean ====
section
/-! DEFINITION. The word types of the machine (R2, R7): bytes, 32-bit registers, 64-bit pairs and lane masks. -/

namespace Sys2Proof

/-- One byte of memory (R2). -/
abbrev Byte := BitVec 8
/-- A 32-bit register, or one lane of a vector register (R7). -/
abbrev Word := BitVec 32
/-- A 64-bit value: a register pair (R7), an atomic of `.d` (R189). -/
abbrev DWord := BitVec 64
/-- One bit for each of the 64 lanes of a warp; bit l is lane l (R1). -/
abbrev LaneMask := BitVec 64

end Sys2Proof
end

