-- ==== Sys2Proof/Config.lean ====
section
/-! DEFINITION. What the part fixes (counts and figures of 00, 01 and the level table R102), and the free values: what
the manual leaves open, as constants without a body. -/

namespace Sys2Proof.Config

/-- Lanes of a warp, `%width` on this part (R1). -/
def width : Nat := 64
/-- Dies of a device, bays and quads and cores of a die (R102). -/
def dies : Nat := 8
def baysPerDie : Nat := 8
def quadsPerDie : Nat := 32
def coresPerDie : Nat := 128
def bays : Nat := 64
def quads : Nat := 256
def cores : Nat := 1024
/-- Warp slots and vector registers of a core (R101). -/
def warpSlots : Nat := 32
def coreRegs : Nat := 1024
/-- Scratchpad bytes of a quad (R171). -/
def scratch : Nat := 2 ^ 21
/-- Weight-store bytes of a die (R174). -/
def wsBytes : Nat := 2 ^ 30
/-- Virtual functions (00). -/
def vfs : Nat := 192
/-- Lease lengths of a load and of `ld.poll`, in cycles (R170). -/
def lease : Nat := 16384
def leasePoll : Nat := 512
/-- Shared entries of a core's fragment table (R257). -/
def sharedFrags : Nat := 128
/-- Entries of a BTE channel (R204) and of the QME's table (R216). -/
def chanEntries : Nat := 64
def qmeEntries : Nat := 32
/-- Largest code object, in bytes (R10). -/
def maxCode : Nat := 8388600
/-- GDDR-7 devices of a die (00). -/
def gddrPerDie : Nat := 12
/-- Posts a device-side queue holds (R158). -/
def devPosts : Nat := 64
/-- Posted receives (R330), send slots (R339) and header slots (R332) of a device's Wharf. -/
def postEntries : Nat := 4096
def sendSlots : Nat := 2048
def headerSlots : Nat := 8192
/-- Cycles without a path before a peer request is given up (R319). -/
def pathTimeout : Nat := 2 ^ 24

/-- FREE VALUE. What the special function `fn` (the minor of R96) returns for an argument and FTZ, where it lies inside the
bound of R96: one fixed function of both (R98). DESIGN CHOICE: log entry 17. -/
opaque sfuGuess : Nat → BitVec 32 → Bool → BitVec 32
/-- FREE VALUE. What `vfsin` (false) and `vfcos` (true) return above 65,536 in magnitude (R96). DESIGN CHOICE: log entry 18. -/
opaque sfuFar : Bool → BitVec 32 → Bool → BitVec 32
/-- FREE VALUE. The GDDR-7 devices of a die that hold the bytes of a page, by die, die-local base and size (R310 leaves
the interleave open). DESIGN CHOICE: log entry 19. -/
opaque leafDevices : Nat → Nat → Nat → BitVec 12
/-- FREE VALUE. Whether a load may take a leased copy at its n-th chance (R170: "may use"). DESIGN CHOICE: log entry 20. -/
opaque useCopy : Nat → Bool
/-- FREE VALUE. The free GDDR-7 of a die in GiB, as counted at the n-th read of DCAP (R313). DESIGN CHOICE: log entry 94. -/
opaque dieCapacity : Nat → Nat → BitVec 16
/-- FREE VALUE. A byte read under a key that did not write it (R317), by its address and the key. DESIGN CHOICE: log entry 21. -/
opaque unrelated : Nat → Nat → BitVec 8
/-- FREE VALUE. Which translation a full TLB gives up (R276 leaves the replacement open). DESIGN CHOICE: log entry 22. -/
opaque tlbVictim : Nat → Nat
/-- FREE VALUE. What a sensor reads at its n-th reading, in 24 bits (R356). DESIGN CHOICE: log entry 23. -/
opaque sensor : Nat → Nat → BitVec 24
/-- FREE VALUE. The Towpath's time in microseconds at its n-th log entry (R357). DESIGN CHOICE: log entry 23. -/
opaque towpathTime : Nat → BitVec 64
/-- FREE VALUE. Voltage-droop events of a die between two readings, at its n-th reading (R356). DESIGN CHOICE: log entry 23. -/
opaque newDroops : Nat → Nat → BitVec 24
/-- FREE VALUE. Whether a die authenticates at the reset that ends a level-2 alarm (R304, R361), by the counter and the die.
DESIGN CHOICE: log entry 64. -/
opaque authentic : Nat → Nat → Bool

end Sys2Proof.Config
end

