-- ==== Sys2Proof/Syntax.lean ====
section
/-! DEFINITION. The instruction set as syntax: one constructor for each row of spec/opcode_table.json. Register
numbers and immediates are natural numbers as the fields of the word hold them; `la` is the lookahead field (R16).
Events (the rows without a word) carry what names the thing they act on. -/

namespace Sys2Proof

/-- Conditions of SCMP and VCMP, in the order of their minors (R63). -/
inductive Cond where
  | eq | ne | lt | le | gt | ge | ltu | leu | gtu | geu
  deriving DecidableEq, Repr

/-- Conditions of VFCMP, in the order of MIN[2:0] (R93). -/
inductive FCond where
  | eq | ne | lt | le | gt | ge | uno | ord
  deriving DecidableEq, Repr

/-- Access sizes, in the order of SZ: 1, 2, 4, 8 and 16 bytes (R79). -/
inductive Size where
  | b | h | w | d | q
  deriving DecidableEq, Repr

/-- Integer atomic operations, in the order of OP (R189). -/
inductive AtomOp where
  | add | min | max | minu | maxu | and | or | xor | exch
  deriving DecidableEq, Repr

/-- Floating-point atomic operations, in the order of OP (R190). -/
inductive AtomFOp where
  | faddF32 | faddBf16x2 | fminF32 | fmaxF32
  deriving DecidableEq, Repr

/-- Operations of the reduction and scan steps, in the order of XOP (R150). -/
inductive StepOp where
  | addO32 | minI32 | maxI32 | addF32
  deriving DecidableEq, Repr

/-- Classes of a kill, with their codes 0x1 to 0x9 (R24). -/
inductive KillClass where
  | unassigned | reserved | regrange | bundle | lookahead | vote | fetch | repeated | priv
  deriving DecidableEq, Repr

/-- The two planes' shared header of a control flit, with the body as 16 bytes and AUX (R321). `port` is the port it
arrives on. -/
structure Flit where
  port : Nat
  via : Bool
  relay : Nat
  vf : Nat
  dst : Nat
  src : Nat
  kind : Nat
  xid : Nat
  lseq : Nat
  body : List Byte
  aux : Nat
  deriving DecidableEq, Repr

/-- A data flit (R322): the control flit it belongs to and its valid payload bytes. -/
structure DataFlit where
  port : Nat
  lseq : Nat
  vf : Nat
  src : Nat
  xid : Nat
  payload : List Byte
  deriving DecidableEq, Repr

/-- Every row of the opcode table: the words of R29 to R36, then the device's own steps and its inputs. -/
inductive Instr where
  -- SINT, SINT2, SCMP, SADDI, SLI, SLIK (R61 to R65)
  | sadd (d a b : Nat) | ssub (d a b : Nat) | smul (d a b : Nat) | smulh (d a b : Nat) | smulhu (d a b : Nat)
  | sand (d a b : Nat) | sor (d a b : Nat) | sxor (d a b : Nat) | sshl (d a b : Nat) | sshr (d a b : Nat)
  | ssra (d a b : Nat) | smin (d a b : Nat) | smax (d a b : Nat) | sminu (d a b : Nat) | smaxu (d a b : Nat)
  | smov (d a b : Nat)
  | sclz (d a b : Nat) | spopc (d a b : Nat) | sbrev (d a b : Nat) | sext (d a b : Nat) | sins (d a b : Nat)
  | ssel (d a b : Nat)
  | scmp (cc : Cond) (d a b : Nat)
  | saddi (d a imm : Nat)
  | sli (hi : Bool) (d imm : Nat) | slik (hi : Bool) (d imm : Nat)
  -- VINT, VINT2, VINT3 (R66 to R69); `u` is the uniform-B form (R60)
  | vadd (u : Bool) (d a b : Nat) | vsub (u : Bool) (d a b : Nat) | vmul (u : Bool) (d a b : Nat)
  | vmulh (u : Bool) (d a b : Nat) | vmulhu (u : Bool) (d a b : Nat) | vand (u : Bool) (d a b : Nat)
  | vor (u : Bool) (d a b : Nat) | vxor (u : Bool) (d a b : Nat)
  | vshl (u : Bool) (d a b : Nat) | vshr (u : Bool) (d a b : Nat) | vsra (u : Bool) (d a b : Nat)
  | vmin (u : Bool) (d a b : Nat) | vmax (u : Bool) (d a b : Nat) | vminu (u : Bool) (d a b : Nat)
  | vmaxu (u : Bool) (d a b : Nat) | vaddmin (u : Bool) (d a b : Nat)
  | vmad (u : Bool) (d a b : Nat) | vaddsat (u : Bool) (d a b : Nat) | vsubsat (u : Bool) (d a b : Nat)
  | vabsdiff (u : Bool) (d a b : Nat) | vext (u : Bool) (d a b : Nat) | vins (u : Bool) (d a b : Nat)
  | vmorton (u : Bool) (d a b : Nat) | vcellh (u : Bool) (d a b : Nat)
  -- VUN (R70)
  | vnot (d a : Nat) | vneg (d a : Nat) | vabs (d a : Nat) | vclz (d a : Nat) | vpopc (d a : Nat) | vbrev (d a : Nat)
  | vmov (d a : Nat) | vbcastS (d a : Nat)
  | vcmp (cc : Cond) (d a b : Nat)
  | vaddi (d a imm : Nat)
  | vli (hi : Bool) (d imm : Nat)
  | vsel (u : Bool) (n d a b : Nat)
  -- PLOG (R72)
  | pand (d a b : Nat) | por (d a b : Nat) | pxor (d a b : Nat) | pandn (d a b : Nat) | pnot (d a : Nat)
  | pmov (d a : Nat)
  -- VF, VFD, VFH, VFCMP (R88 to R93); `f` is FP16 in VFH, else BF16
  | vfadd (u : Bool) (d a b : Nat) | vfsub (u : Bool) (d a b : Nat) | vfmul (u : Bool) (d a b : Nat)
  | vffma (u : Bool) (d a b : Nat) | vfmin (u : Bool) (d a b : Nat) | vfmax (u : Bool) (d a b : Nat)
  | vfcpys (u : Bool) (d a b : Nat) | vfabsd (u : Bool) (d a b : Nat)
  | vdadd (d a b : Nat) | vdsub (d a b : Nat) | vdmul (d a b : Nat) | vdfma (d a b : Nat) | vdmin (d a b : Nat)
  | vdmax (d a b : Nat)
  | vhadd2 (f : Bool) (d a b : Nat) | vhsub2 (f : Bool) (d a b : Nat) | vhmul2 (f : Bool) (d a b : Nat)
  | vhfma2 (f : Bool) (d a b : Nat)
  | vfcmp (cc : FCond) (d a b : Nat) | vfcmpF64 (cc : FCond) (d a b : Nat)
  -- VCVT (R94); `rm` is MODE[1:0], `sat` is MODE[2]
  | vcvtF32F64 (d a : Nat) (sat : Bool) (rm : Nat) | vcvtF64F32 (d a : Nat)
  | vcvtF32I32 (d a : Nat) (sat : Bool) (rm : Nat) | vcvtF32O32 (d a : Nat) (sat : Bool) (rm : Nat)
  | vcvtI32F32 (d a rm : Nat) | vcvtO32F32 (d a rm : Nat) | vcvtF64I32 (d a : Nat) | vcvtI32F64 (d a rm : Nat)
  | vcvtF19F32 (d a : Nat) (sat : Bool) (rm : Nat) | vcvtBf16x2F32 (d a : Nat) (sat : Bool) (rm : Nat)
  | vcvtF16x2F32 (d a : Nat) (sat : Bool) (rm : Nat) | vcvtF32x2F16x2 (d a : Nat)
  | vcvtE4m3x4F32 (d a : Nat) (sat : Bool) (rm : Nat) | vcvtE5m2x4F32 (d a : Nat) (sat : Bool) (rm : Nat)
  | vcvtI16x2F32 (d a rm : Nat) | vcvtO8x4F32 (d a rm : Nat)
  -- SFU, HRND (R96 to R99)
  | vfrcp (la d a : Nat) | vfrsq (la d a : Nat) | vfsqrt (la d a : Nat) | vfexp2 (la d a : Nat) | vflog2 (la d a : Nat)
  | vfsin (la d a : Nat) | vfcos (la d a : Nat) | vftanh (la d a : Nat)
  | hrnd (la d ua ub : Nat)
  -- XLANE (R146 to R150); `m` is the member predicate
  | vshflUp (la d ua m : Nat) | vshflDown (la d ua m : Nat) | vshflXor (la d ua m : Nat) | vshflIdx (la d m : Nat)
  | vbcast (la d ua m : Nat) | vvoteAny (la d ps m : Nat) | vvoteAll (la d ps m : Nat) | vballot (la d ps m : Nat)
  | vredStep (la d ua : Nat) (op : StepOp) (m : Nat) | vscanStep (la d ua : Nat) (op : StepOp) (m : Nat)
  -- BR, BV, CTL, SAFE (R74 to R78, R152 to R155, R281); `off` is the 20-bit field
  | br (p off : Nat) | call (p off : Nat) | bvSplit (p off : Nat) | bvAny (p off : Nat) | bvAll (p off : Nat)
  | bvUni (p off : Nat)
  | ret (a : Nat) | brx (a : Nat) | exit | nop | yieldL | bar (n : Nat) | barq (n : Nat) | safe (n : Nat)
  -- format M (R34, R79, R184 to R195); `v` is a vector address register
  | ld (la d a : Nat) (v sx poll : Bool) (sz : Size) | st (la d a : Nat) (v : Bool) (sz : Size)
  | ldt (la d a : Nat) (v : Bool) (sz : Size) (hs : Nat) | stt (la d a : Nat) (v : Bool) (sz : Size) (hs : Nat)
  | lds (la d a : Nat) (v sx : Bool) (sz : Size) | sts (la d a : Nat) (v : Bool) (sz : Size)
  | ldw (la d a : Nat) (v sx : Bool) (sz : Size)
  | atom (la d a : Nat) (v dbl : Bool) (op : AtomOp) | atomf (la d a : Nat) (v : Bool) (op : AtomFOp)
  | cas (la d a : Nat) (v dbl : Bool) | satom (la d a : Nat) (v dbl : Bool) (op : AtomOp)
  | satomCas (la d a : Nat) (v dbl : Bool)
  | prefetch (a : Nat) (v : Bool) | discard (a : Nat) (v : Bool) | writeback (a : Nat) (v : Bool)
  | tdesc (la d a : Nat)
  | binit (la d a : Nat) (sp : Bool) | barrive (la d a : Nat) (sp : Bool) | bwait (la d a : Nat) (sp : Bool)
  | bquery (la d a : Nat) (sp : Bool)
  -- engines (R227 to R241); `k` is the priority class
  | xcopy (la d ua ub : Nat) | cpoll (la d ua : Nat) | csleep (la d ua : Nat) | cpop (la d ua : Nat) | xwp (la d ua : Nat)
  | qfence (ua : Nat) | drain (scope : Nat)
  | mmaAcc (la d ua k : Nat) | mmaZero (la d ua k : Nat) | mout (la d ua k : Nat) | mclear (ua k : Nat)
  | mwait (ua : Nat) | mtest (la d ua : Nat) | mcancel (la d ua : Nat)
  | qpush (la d ua : Nat) | qpop (ua : Nat) | qpopLanes (d ua : Nat) | qstat (la d ua : Nat) | qclose (ua : Nat)
  -- LNCH, REGDIV, WHARF, PFENCE (R156 to R159, R338 to R346); `n` of REGDIV is n / 8 as UA holds it
  | launch (la d ua : Nat) | lwait (ua : Nat) | rgive (n : Nat) | rclaim (n : Nat)
  | wsend (la d ua : Nat) | wpost (la d ua : Nat) | wprobe (la d ua : Nat) | wcancel (la d ua : Nat) | wtest (la d ua : Nat)
  | fencePodRel | fencePodAcq | fencePod
  -- SYS, FRAG, MMU (R290); `v` is MODE[0]
  | trap (n : Nat) | sret | srd (la d idx : Nat) (v : Bool) | swr (d idx : Nat) (v : Bool) | sleep (ua : Nat)
  | wake (ua : Nat)
  | fstat (la d ua : Nat) | fresume (ua : Nat) | fkill (ua : Nat)
  | tlbinv (ua : Nat) | lres (ua : Nat) | wsopen (ua : Nat) | wsclose (ua : Nat)
  -- REP (R18)
  | rep (count mask sd sa sb : Nat)
  -- events of a warp's issue and of its results; `c` is the model's crew key, `x` the warp within it
  | repeatIssue | illegalWord (k : KillClass) | fetchFault
  | resultArrives (c x id : Nat) | storePerformed (c x : Nat) | atomicPerformed (c x : Nat)
  | leaseExpiry (core i : Nat) | wsRefreshWindow (die : Nat) | issueAgePromotion (c x : Nat) | sleepExpiry (c x : Nat)
  -- launching and scheduling; `l` is a launch sequence number, queue 16 is the device-side queue
  | lqTailWrite (fn q v : Nat) | launchAccept (vf q : Nat) | launchWalkStart (l : Nat)
  | tillerEvaluateReach (l die : Nat) | tillerPush (l die : Nat) | launchDone (l : Nat) | labortWrite (fn id : Nat)
  | sluicePlaceCrew (bay : Nat) | saveBundleLimit (c x : Nat) | crewSave (c : Nat) | crewRestore (c core : Nat)
  | timeSliceEnd
  -- engines
  | bteChunk (bay : Nat) | bteCompletion (bay ch : Nat) | qmeGrant (quad : Nat) | qmeCompletion (quad e : Nat)
  | qmeEntryAging (quad e : Nat) | workqRequestServed (die i : Nat) | refillArrival (quad i : Nat)
  | stealEntriesArrive (src : Nat) (es : List (List Byte))
  -- faults and translation
  | faultRecordWrite (vf : Nat) | pageWalkComplete (die i : Nat)
  -- host
  | hostWrite (fn gpa : Nat) (data : List Byte) | hostRead (fn gpa n : Nat)
  | s1rootWrite (fn v : Nat) | faultRingConfigWrite (fn off v : Nat) | fresumeWrite (fn id : Nat) | fkillWrite (fn id : Nat)
  | svcstartWrite (fn v : Nat) | vfEnableWrite (vf : Nat) (en : Bool) | vfQuadsChange (vf quads : Nat)
  -- package
  | drainFinish (die : Nat) | drainSave (die : Nat) | dieDrainComplete (die : Nat) | reset (die : Nat)
  | dieResetComplete (die : Nat) | return_ (die : Nat) | dieAuthenticated (die : Nat) (ok : Bool)
  | deviceReset (genuine : List Bool)
  -- fabric
  | linkStateChange (port : Nat) (up : Bool) | peerPathTimeout (dev : Nat)
  | rdreq (f : Flit) | wrreq (f : Flit) | atomreq (f : Flit) | resp (f : Flit) | inval (f : Flit) | invack (f : Flit)
  | frel (f : Flit) | fack (f : Flit) | whdr (f : Flit) | wpull (f : Flit) | wdone (f : Flit)
  | wharfLandingComplete (i : Nat) | dataFlit (f : DataFlit) | lack (f : Flit) | lnak (f : Flit)
  | invalidFlit (port lseq vf : Nat) | token (f : Flit) | tokenPass | tokenTimeout
  -- Towpath; `sigOk` is the outcome of the signature checks
  | sense | logread | stage (sigOk : Bool) | activate | towpathRestartComplete (ok : Bool) | slots
  | reprovision (sigOk : Bool) | alarmLevel1 (die : Nat) | alarmL1Clear (persisted : Bool) | alarmLevel2
  | registerWrite (fn off v : Nat) | migrationServiceMove (vf addr hdie hbay : Nat) | dieFailsInService (die : Nat)
  deriving DecidableEq, Repr

end Sys2Proof
end

