-- ==== Sys2Proof/Machine/State.lean ====
section
/-! DEFINITION. The state of one SKV-8840 module as plain data, the reasons a step can stop, and the state after
device reset. Registers the manual numbers keep their bits; everything else is named data. -/

namespace Sys2Proof.Machine

/-- Sparse bytes: addresses strictly rising, no entry 0, an unlisted address reads 0 (DESIGN CHOICE, log entry 3). -/
abbrev Memory := List Host.Cell

/-! ### Lanes and warps (R7, R101 to R105) -/

/-- The six lane states (R103). -/
inductive LaneState where
  | run | deferred | waiting | parked | exited | killed
  deriving DecidableEq, Repr

/-- What a WAITING lane waits on (R104). `key` names a barrier object by its place in storage, `d` is the register the
release writes, `n` the `bwait` among those of the warp (R198). -/
inductive Wait where
  | none
  | bar (n : Nat)
  | barq (n : Nat)
  | obj (key : Nat) (token : Nat) (d : Nat) (n : Nat)
  | ring (n : Nat) (d : Nat) (head : Nat)
  | ticket (quad : Nat) (t : Nat)
  | launch (id : Nat)
  | claim (n : Nat)
  deriving DecidableEq, Repr

/-- One lane of a warp: its part of the vector window, its predicates (bit N for pN), its PC. -/
structure Lane where
  st : LaneState := .run
  pc : Word := 0
  v : List Word := []
  p : BitVec 8 := 0
  /-- TS and RPC of `%xpc` (R271). -/
  ts : Bool := false
  rpc : Word := 0
  /-- ABSL of the last XLANE word (R151). -/
  absl : Bool := false
  /-- In the running repeat (R107), and the repeat index carried after a fault (R265). DEDUCED: log entry 49. -/
  inRep : Bool := false
  repk : Option Nat := none
  wait : Wait := .none
  /-- Where the lane goes on release (R105). -/
  resume : Word := 0
  deriving DecidableEq, Repr

/-- The kinds of register (R7). -/
inductive RKind where
  | s | v | p
  deriving DecidableEq, Repr

/-- The target of a lookahead window: `n` registers from `num` (R16, R27). -/
structure Target where
  kind : RKind
  num : Nat
  n : Nat
  deriving DecidableEq, Repr

/-- One register written by a result. -/
inductive RegWrite where
  | v (lane reg : Nat) (x : Word)
  | s (reg : Nat) (x : Word)
  | p (lane reg : Nat) (x : Bool)
  deriving DecidableEq, Repr

/-- A lookahead window and the result it may still wait for (R14, R16). `left` bundles of the window remain; `need`
accesses must still be performed before the result is known; `fp` marks the results that `srd %fpflags` waits for (R42). -/
structure Pend where
  id : Nat
  target : Target
  left : Nat
  need : Nat := 0
  /-- The result waits for an engine or a queue and is not known yet. -/
  open_ : Bool := false
  arrived : Bool := false
  writes : List RegWrite := []
  flags : BitVec 5 := 0
  fp : Bool := false
  /-- The result is that of lanes which wait: it arrives at their release (R198, R228). -/
  waits : Bool := false
  /-- The operation id of an `xcopy` that was not formed when its crew was saved: it holds no bundle and comes at the
  formation (R286). DEDUCED: log entry 44. -/
  kept : Bool := false
  deriving DecidableEq, Repr

/-- Where one byte of an access lies once it is translated; a byte that a peer has served is known by its value. -/
inductive Loc where
  | dev (key : Nat)
  | host (gpa : Nat)
  | sp (quad off : Nat)
  | ws (die off : Nat)
  | peer (x : Byte)
  deriving DecidableEq, Repr

/-- The tag of a line: tensor 0 is the flat space with `a >> 10` (R167). -/
structure Tag where
  vf : Nat
  tensor : Nat
  plane : Nat
  row : Nat
  col : Nat
  deriving DecidableEq, Repr

/-- What an atomic does at its home (R189 to R191). -/
inductive RmwOp where
  | int (op : AtomOp)
  | flt (op : AtomFOp)
  | cas
  deriving DecidableEq, Repr

/-- An access issued and not yet performed (R178, R180): a store of bytes, each with the mask of the bits it writes
(none for the write-backs of R193), or an atomic of `size` bytes at `locs`; with the lines it touches. A read of the weight
store that meets a refresh window waits here too (R175). -/
inductive MemOp where
  | store (id : Nat) (lane : Nat) (tags : List Tag) (bytes : List (Loc × Byte × Byte))
  | rmw (id : Nat) (lane : Nat) (d : Nat) (op : RmwOp) (size : Nat) (locs : List Loc) (tags : List Tag) (x y : Nat)
  | wread (id : Nat) (lane : Nat) (d : Nat) (sz : Size) (sx : Bool) (locs : List Loc) (tags : List Tag)
  deriving DecidableEq, Repr

/-- A hold of the warp's next bundle. -/
inductive Hold where
  | none
  /-- `drain` of a scope (R234): operations numbered below `before`, of the crews that lay in the scope of a core then. -/
  | drain (scope : Nat) (before : Nat) (core : Nat) (crews : List Nat)
  /-- `wsclose` (R302): copies formed before it. -/
  | wsclose (mask : Nat) (before : Nat)
  /-- The pod fences (R346). -/
  | fence (rel acq : Bool) (before : Nat)
  deriving DecidableEq, Repr

/-- A cached leaf (R276): the stage, the page's base and size in the addresses that stage translates, and what the leaf
gives; for stage 2, with the die whose memory it names. -/
structure TlbEnt where
  vf : Nat
  base : Nat
  size : Nat
  gpa : Nat
  r : Bool
  w : Bool
  st2 : Bool := false
  die : Nat := 0
  deriving DecidableEq, Repr

/-- The outcome of a walk (R278): the leaf, or the 8 KiB page that was asked for and the code. -/
inductive XlatRes where
  | hit (leaf : TlbEnt)
  | miss (page : Nat) (code : Nat)
  deriving DecidableEq, Repr

/-- A walk's outcome handed to the lane of a warp, or to the channel of a BTE, that waited for it (R277, R278). -/
structure Xlated where
  lane : Nat
  st2 : Bool
  res : XlatRes
  deriving DecidableEq, Repr

/-- How a stopped warp is saved (R282): the mask of a safe point, or everything. -/
inductive SaveKind where
  | masked (n : Nat)
  | full
  deriving DecidableEq, Repr

structure Warp where
  /-- Warp slot on the core, `%warp`, `%role`. -/
  slot : Nat := 0
  idx : Nat := 0
  role : Nat := 0
  window : Nat := 8
  lanes : List Lane := []
  s : List Word := List.replicate 64 0
  fpmode : Word := 0
  fpflags : Word := 0
  rep : Word := 0
  /-- The last repeat has issued and lanes of the repeat still wait (R107). DEDUCED: log entry 49. -/
  repFin : Bool := false
  /-- `%vote` without ABSL (R151). -/
  vote : Word := 0
  /-- `%xinfo`: V and N (R271). -/
  trapV : Bool := false
  trapN : Nat := 0
  xs0 : Word := 0
  xs1 : Word := 0
  priv : Nat := 0
  pend : List Pend := []
  memq : List MemOp := []
  nextId : Nat := 0
  sleepUntil : Option Nat := none
  token : Bool := false
  hold : Hold := .none
  xlat : List Xlated := []
  lastIssue : Nat := 0
  promoted : Bool := false
  /-- A younger warp of the core has issued since this one did (R144). -/
  passed : Bool := false
  /-- Its last attempt to issue had to wait for a walk, a die, an engine or an access: another ready warp goes first
  (R144, R145). DEDUCED: log entry 95. -/
  held : Bool := false
  sinceReq : Nat := 0
  stopped : Option SaveKind := none
  /-- Peer stores, atomics and sends since the last release, by path: destination device + 16 · relay (R329). -/
  peers : List (Nat × Nat) := []
  deriving DecidableEq, Repr

/-! ### Crews -/

/-- Why a crew is to be saved (R282). -/
inductive SaveCause where
  | preempt | drain | quads | slice
  deriving DecidableEq, Repr

structure Crew where
  /-- The model's key of a crew. -/
  id : Nat := 0
  vf : Nat := 1
  /-- Sequence number of the launch, 0 for a service crew (R311). -/
  launch : Nat := 0
  service : Bool := false
  persistent : Bool := false
  crewIdx : Nat := 0
  tile : List Nat := [0, 0, 0, 0]
  tensor : Nat := 0
  core : Nat := 0
  shareBase : Nat := 0
  shareSize : Nat := 0
  flat : Nat := 0
  code : Nat := 0
  csize : Nat := 0
  err : Word := 0
  pool : Nat := 0
  /-- Queued claims, oldest first: warp, registers and the lanes that wait (R143, R156). -/
  claims : List (Nat × Nat × LaneMask) := []
  warps : List Warp := []
  placedAt : Nat := 0
  saveReq : Option SaveCause := none
  /-- A save that did not begin for want of room: it is asked for again (R284). -/
  saveDue : Option SaveCause := none
  /-- Operations formed per channel by this crew, and slices supplied by each warp (R205). -/
  supplied : List (Nat × Nat × Nat) := []
  deriving DecidableEq, Repr

/-- A PARKED fragment entry (R258). -/
structure Frag where
  core : Nat
  entry : Nat
  gen : Nat
  whole : Bool
  intrap : Bool
  crew : Nat
  warp : Nat
  slot : Nat
  vf : Nat
  repk : Option Nat
  cls : Nat
  code : Nat
  pc : Word
  lanes : LaneMask
  launch : Nat
  addr : Nat
  /-- The failing lanes touched more than one page (R269). -/
  more : Bool := false
  /-- The record is still pending (R262): the entry reads FREE once repaired and is not reused. -/
  freed : Bool := false
  deriving DecidableEq, Repr

/-- A crew created and not placed (R136): its launch, place in the tensor, and the saved image if it was saved.
DESIGN CHOICE: log entry 70. -/
structure QCrew where
  launch : Nat
  vf : Nat
  crewIdx : Nat
  tile : List Nat
  saved : Option Crew := none
  share : Memory := []
  /-- Offsets of the armed objects in the image of the share. -/
  armed : List Nat := []
  frags : List Frag := []
  /-- Pages of the context area that hold the image (R284). DESIGN CHOICE: log entry 70. -/
  ctx : List Nat := []
  deriving DecidableEq, Repr

/-! ### Cores, quads, bays, dies -/

/-- A leased copy of a line (R170): the sectors fetched, byte by byte under their keys, as they stood at the grant, and
its times (R178). DESIGN CHOICE: log entry 8. -/
structure Copy where
  tag : Tag
  wts : Nat
  rts : Nat
  granted : Nat
  bytes : List Host.Cell
  deriving DecidableEq, Repr

/-- DESIGN CHOICE: log entry 4. -/
structure Core where
  /-- Lead of the core's logical time over the cycle count (R178): it advances by at least 1 every cycle. -/
  lead : Nat := 0
  last : Option (Nat × Nat) := none
  copies : List Copy := []
  tlb : List TlbEnt := []
  /-- Allocation counts of the 160 fragment entries (R259), listed where not 0. -/
  gens : List (Nat × Nat) := []
  deriving DecidableEq, Repr

/-- One entry of the QME's reservation table (R217, R220). -/
structure QmeEntry where
  entry : Nat
  seq : Nat
  crew : Nat
  vf : Nat
  cls : Nat
  /-- 0 mma.acc, 1 mma.zero, 2 mout, 3 mclear, 4 a queue fence. -/
  kind : Nat
  record : List Byte
  shareBase : Nat
  slot : Nat
  fp64 : Bool
  pins : List (Nat × Nat)
  launch : Nat := 0
  /-- The A and B panels with their strips, as they stood at the post (R219); for a granted `mout`, in `pa`, the panel it
  will write. DESIGN CHOICE: log entry 72. -/
  pa : List Byte := []
  pb : List Byte := []
  posted : Nat
  /-- Cycle from which a granted operation may complete (R221). -/
  due : Nat := 0
  active : Bool := false
  aged : Bool := false
  op : Nat
  fence : Nat := 0
  deriving DecidableEq, Repr

/-- A refill binding (R225). -/
structure Binding where
  crew : Nat
  vf : Nat
  qid : Nat
  block : Nat
  /-- Base of the crew's share in the scratchpad. -/
  base : Nat
  /-- A store to CONS that the engine has not served. -/
  pending : Bool
  /-- Pops of the binding that wait at the engine. -/
  out : Nat := 0
  /-- Pops of an arrival that are still to be made: their queue lay on a die out of service (R315). -/
  due : Nat := 0
  deriving DecidableEq, Repr

/-- DESIGN CHOICE: log entry 4. -/
structure Quad where
  sp : Memory := []
  /-- Armed objects of this scratchpad (R173), by quad offset. -/
  armed : List Nat := []
  qme : List QmeEntry := []
  qmeSeq : Nat := 0
  /-- Cycle at which the multiply array is next free (R221). -/
  arrayFree : Nat := 0
  acc : List (List Word) := List.replicate 8 (List.replicate 4096 0)
  xreg : List (BitVec 16) := List.replicate 16 0
  bindings : List Binding := []
  /-- Shares of ended crews that operations still write into (R242). -/
  kept : List (Nat × Nat × Nat) := []
  deriving DecidableEq, Repr

/-- A slice of a BTE operation as read when it was supplied (R206): `none` is the EMPTY slice of a finished warp, and
an unreadable descriptor is an empty byte list. -/
structure Slice where
  warp : Nat
  bytes : Option (List Byte)
  /-- The pending result that receives the operation id. -/
  pend : Nat := 0
  deriving DecidableEq, Repr

/-- What an entry of a BTE channel is. -/
inductive ChanKind where
  | copy | send | data | fence
  deriving DecidableEq, Repr

structure ChanEntry where
  kind : ChanKind
  op : Nat
  launch : Nat := 0
  crew : Nat
  vf : Nat
  core : Nat
  shareBase : Nat
  shareSize : Nat
  flat : Nat
  opid : Nat := 0
  formed : Bool := false
  slices : List Slice := []
  /-- The crew's n-th operation on the channel (R205). -/
  nth : Nat := 0
  done : Nat := 0
  started : Bool := false
  /-- Status, fault class, code and address once the operation has ended (R212). -/
  ended : Option (Nat × Nat × Nat × Nat) := none
  /-- The signal has been made: whether it was lost (R214). -/
  sig : Option Bool := none
  /-- Send slot, fence number, or for a copy the operation count when it was formed (R302). -/
  ref : Nat := 0
  deriving DecidableEq, Repr

structure Channel where
  formed : Nat := 0
  entries : List ChanEntry := []
  opn : Nat := 0
  units : Nat := 0
  deriving DecidableEq, Repr

structure Bay where
  queue : List QCrew := []
  ptr : Option Nat := none
  /-- Service crews waiting at the head (R311): VF and descriptor. -/
  service : List (Nat × List Byte) := []
  ch : List Channel := List.replicate 16 {}
  deficit : List Nat := [0, 0, 0, 0]
  lastCh : List Nat := [3, 7, 11, 15]
  cls : Nat := 0
  fresh : Bool := true
  tlb : List TlbEnt := []
  /-- Outcomes of walks handed to the channels of the BTE (R278). -/
  xlat : List Xlated := []
  /-- Copies of lines whose reach names the bay in REPLICAS (R170). -/
  copies : List Copy := []
  /-- BTEQ of R313: quanta of classes 0 to 3 in KiB. -/
  quanta : List Nat := [8, 4, 2, 1]
  deriving DecidableEq, Repr

/-- DSTATE (R313). -/
inductive DieState where
  | active | draining | drained | resetting | fenced
  deriving DecidableEq, Repr

/-- What a request that misses asks for (R278): VF, stage, bits [55:13] of the address, and the core and the bay whose
TLBs take the leaf. -/
structure Want where
  vf : Nat
  st2 : Bool
  page : Nat
  core : Nat
  bay : Nat
  deriving DecidableEq, Repr

/-- A walk in progress (R278), with the requests that wait on it: crew, warp and lane. -/
structure Walk where
  want : Want
  /-- Crew, warp and lane, or 0, bay and channel of a BTE. -/
  waiting : List (Nat × Nat × Nat)
  deriving DecidableEq, Repr

/-- A request to a queue engine (R223). -/
inductive WqKind where
  | push (entry : List Byte) (pend : Nat)
  | pop (landing : Nat)
  /-- A pop of a refill binding (R225). -/
  | refill
  | bind (block : Nat) (pend : Nat)
  | unbind (block : Nat) (pend : Nat)
  | stat (pend : Nat)
  | close
  deriving DecidableEq, Repr

structure WqReq where
  kind : WqKind
  /-- Queue operand word (R238). -/
  word : Nat
  vf : Nat
  crew : Nat
  warp : Nat
  quad : Nat
  shareBase : Nat
  shareSize : Nat
  op : Nat
  launch : Nat := 0
  /-- The queue was empty when the pop arrived: it waits (R223). -/
  waiting : Bool := false
  deriving DecidableEq, Repr

structure Die where
  st : DieState := .active
  /-- Device cycle at which the die's counter read 0 (R292). -/
  epoch : Nat := 0
  ws : Memory := []
  walks : List Walk := []
  /-- Misses that wait for a walker, oldest first (R278). -/
  misses : List (Want × Nat × Nat × Nat) := []
  wq : List WqReq := []
  /-- Cached descriptors: VF, tensor, bytes (none: the entry could not be read) (R161). -/
  descs : List (Nat × Nat × Option (List Byte)) := []
  /-- The die authenticates again before it returns (R314). -/
  auth : Bool := false
  /-- The drain is at its first step, and its crews are to be saved after it (R314). -/
  moving : Option Bool := none
  deriving DecidableEq, Repr

/-! ### Functions (R308, R310, R327) -/

structure LaunchQueue where
  base : Nat := 0
  err : Bool := false
  log2n : Nat := 0
  head : Nat := 0
  tail : Nat := 0
  deriving DecidableEq, Repr

/-- A device-side post that is not yet accepted (R158). `desc` is none where the offset was bad. -/
structure DevPost where
  desc : Option (List Byte)
  crew : Nat
  warp : Nat
  pend : Nat
  deriving DecidableEq, Repr

/-- A fault-ring record that waits (R262), and the entry of the table it describes (core, entry). -/
structure FrRecord where
  kind : Nat
  bytes : List Byte
  frag : Option (Nat × Nat)
  deriving DecidableEq, Repr

structure Vf where
  s1root : Nat := 0
  ttbase : Nat := 0
  qtbase : Nat := 0
  trapcode : Nat := 0
  frbase : Nat := 0
  frlog2n : Nat := 0
  frhead : Nat := 0
  frtail : Nat := 0
  fobj : Nat := 0
  fresume : Nat := 0
  fkill : Nat := 0
  labort : Nat := 0
  /-- FRERR, SVCEND, LQERR, FAULT (R308). -/
  intst : BitVec 4 := 0
  inten : Nat := 0
  svcstart : Nat := 0
  trapsize : Nat := 0
  lq : List LaunchQueue := List.replicate 16 {}
  exbase : Nat := 0
  imbase : Nat := 0
  uqbase : Nat := 0
  uqsize : Nat := 0
  -- the quota block (R310)
  en : Bool := false
  ts : Bool := false
  lqn : Nat := 0
  fragq : Nat := 0
  qfirst : Nat := 0
  qcount : Nat := 0
  fslot : Nat := 0
  wharfq : Nat := 0
  wsbase : Nat := 0
  wssize : Nat := 0
  chan : Nat := 0
  quads : Nat := 0
  ctxbase : Nat := 0
  ctxsize : Nat := 0
  s2root : List Nat := List.replicate 8 0
  /-- The memory key (R317): none, or its generation. -/
  key : Option Nat := none
  posts : List DevPost := []
  /-- Launch status records that wait for a die out of service (R315): address and bytes. -/
  stPend : List (Nat × List Byte) := []
  /-- SVCSTART addresses whose descriptors lie on a die out of service (R311, R315). -/
  svcPend : List Nat := []
  /-- `wsclose` words whose groups are still to be closed: mask, and operations formed before (R302). -/
  closes : List (Nat × Nat) := []
  /-- QUADS as it will stand once the crews on removed quads are saved (R310). -/
  quadsNext : Option Nat := none
  /-- Queue served last by the acceptance rotation (R124). -/
  lastQ : Nat := 16
  frPend : List FrRecord := []
  /-- The ring could not take a record: nothing is tried until a register write or a `tlbinv` (R262). -/
  frBlocked : Bool := false
  /-- Open weight-store windows: die and group (R302). -/
  windows : List (Nat × Nat) := []
  /-- The logical time at which the host wrote memory of the function last: every line of it counts as written then
  (R179). DEDUCED: log entry 59. -/
  hostTime : Nat := 0
  /-- MSI-X vectors raised, newest first (R308, R316). -/
  msix : List Nat := []
  deriving DecidableEq, Repr

/-! ### Launches (R120 to R141) -/

/-- The states of R127, in the order of their codes 1 to 7. -/
inductive LaunchState where
  | pending | walking | draining | faulted | done | failed | aborted
  deriving DecidableEq, Repr

/-- The walk of one die (R133). Records are table indices. -/
structure DieWalk where
  die : Nat
  todo : List Nat := []
  deferred : List Nat := []
  second : Bool := false
  /-- Resume index and cause of a stop (R134). -/
  stop : Option (Nat × Nat) := none
  /-- A stamped reach whose tiles are not all turned into crews or entries: home bay, replicas, GEN, tiles left. -/
  cur : Option (Nat × Nat × Nat × List Nat) := none
  deriving DecidableEq, Repr

structure Launch where
  seq : Nat
  vf : Nat
  st : LaunchState
  status : Nat
  desc : List Byte
  walks : List DieWalk := []
  /-- The driving tensor's grid and placement table, as read when the launch entered WALKING. -/
  grid : List Nat := []
  place : Nat := 0
  /-- The descriptor could not be used: the walk begins again at record 0 (R133). -/
  noDesc : Bool := false
  /-- The walk is complete and the queue is still to be closed (R141, R315). -/
  closing : Bool := false
  /-- The host has ended it, and its engine operations are awaited (R128). -/
  aborting : Bool := false
  deriving DecidableEq, Repr

/-! ### Fabric and Wharf -/

/-- A flit handed to the link layer: a control flit, or a data flit with the device it goes to. -/
inductive OutFlit where
  | ctl (f : Flit)
  | data (f : DataFlit) (dst : Nat)
  deriving DecidableEq, Repr

structure Port where
  up : Bool := true
  txSeq : Nat := 0
  replay : List OutFlit := []
  /-- VFs refused from an LSEQ on (R324). -/
  refused : List (Nat × Nat) := []
  /-- After a CRC error, the LSEQ from which everything is sent again (R324). -/
  await : Option Nat := none
  /-- The newest LSEQ taken, and the LSEQs that came and were not taken, oldest first (R324). -/
  last : Nat := 0
  gaps : List Nat := []
  deriving DecidableEq, Repr

/-- A control flit in a receive slot, its consumer not having taken it: the slot is the pool's or the VF's (R323). -/
structure Held where
  flit : Flit
  pool : Bool
  deriving DecidableEq, Repr
structure HeldData where
  flit : DataFlit
  pool : Bool
  deriving DecidableEq, Repr

/-- A posted receive (R330). DESIGN CHOICE: log entry 51. -/
structure Posted where
  index : Nat
  gen : Nat
  vf : Nat
  desc : List Byte
  /-- Virtual address of the landing's first byte, and the descriptor of its tensor as it was read. -/
  base : Nat
  tdesc : List Byte := []
  deriving DecidableEq, Repr

/-- A message: VF, source, tag, length, ids; `payload` as its data have come (R331), or where an unexpected payload is
stored in the VF's area (R332). -/
structure Msg where
  vf : Nat
  src : Nat
  tag : Nat
  len : Nat
  msgid : Nat
  xid : Nat
  eager : Bool
  payload : List Byte := []
  stored : Option Nat := none
  deriving DecidableEq, Repr

/-- A landing in progress (R334). -/
structure Landing where
  post : Posted
  msg : Msg
  landed : Nat := 0
  since : Nat := 0
  /-- The sender's read failed: bytes sent, class and code (R342). -/
  cut : Option (Nat × Nat × Nat) := none
  /-- WDONE has been sent. -/
  acked : Bool := false
  /-- Status, class, code, address once it has ended. -/
  ended : Option (Nat × Nat × Nat × Nat) := none
  deriving DecidableEq, Repr

/-- A send slot (R342). DESIGN CHOICE: log entry 51. -/
structure Send where
  index : Nat
  gen : Nat
  vf : Nat
  crew : Nat
  warp : Nat
  launch : Nat
  bay : Nat
  desc : List Byte
  op : Nat
  started : Bool := false
  since : Nat := 0
  xid : Nat := 0
  /-- An eager payload as far as it has been read. -/
  buf : List Byte := []
  /-- The read of a rendezvous payload failed: class, code, source address. -/
  cut : Option (Nat × Nat × Nat) := none
  /-- WDONE has come (R342). -/
  acked : Bool := false
  /-- Status, class, code, address, bytes once ended; the completion is then still to be written. -/
  ended : Option (Nat × Nat × Nat × Nat × Nat) := none
  deriving DecidableEq, Repr

/-- Who made a peer request: a lane of a warp, or the BTE operation `op` at byte `at_`. -/
inductive PeerWho where
  | lane (crew warp lane : Nat)
  | bte (op at_ : Nat)
  deriving DecidableEq, Repr

/-- A peer request of this device (R328): 0 read, 1 write, 2 atomic. Its answer, once it has come: 0 done, 1 refused,
2 lost, with the data. -/
structure PeerReq where
  xid : Nat
  dev : Nat
  vf : Nat
  who : PeerWho
  kind : Nat
  since : Nat
  /-- The request as it is sent: AUX, body and data. -/
  aux : Nat
  body : List Byte
  data : List Byte
  /-- A RESP has come and its data flits are awaited. -/
  resp : Bool := false
  answer : Option (Nat × List Byte) := none
  deriving DecidableEq, Repr

/-- A write or atomic of a peer that waits for INVACKs at its home (R328). -/
structure HomeWait where
  flit : Flit
  data : List Byte
  vf : Nat
  va : Nat
  lines : List Nat
  /-- INVACKs awaited: device and line. -/
  acks : List (Nat × Nat)
  deriving DecidableEq, Repr

/-- DESIGN CHOICE: log entry 5. -/
structure Fabric where
  dev : Nat := 0
  pod : Nat := 8
  ports : List Port := List.replicate 15 {}
  /-- Links of other pairs that are down, as far as this device has been told. DEDUCED: log entry 54. -/
  down : List (Nat × Nat) := []
  outbox : List OutFlit := []
  /-- Flits that wait for a path or for room in the replay buffer, with their destination (R319, R324). -/
  sendq : List (Nat × OutFlit) := []
  nextXid : Nat := 0
  reqs : List PeerReq := []
  homeWaits : List HomeWait := []
  /-- Holders of each line of this device, by its place in device memory (R328). -/
  dir : List (Nat × List Nat) := []
  /-- INVACKs awaited for writes of this device to its own lines: device and line (R328). -/
  invals : List (Nat × Nat) := []
  /-- Messages, by source and XID, of which nobody wants the rest, with the bytes still to come (R323, R334). -/
  sinks : List (Nat × Nat × Nat) := []
  /-- Devices to which no path exists, and since when (R319). -/
  lost : List (Nat × Nat) := []
  /-- Copies of peer lines in L2: device, handle, offset and bytes. DEDUCED: log entry 53. -/
  peerCopies : List (Nat × Nat × Nat × List Byte) := []
  /-- Relayed stores not acknowledged: source, destination, XID (R329). -/
  relayed : List (Nat × Nat × Nat) := []
  /-- Where the data flits of a relayed flit go: source, XID, destination, and the bytes still to come. -/
  routes : List (Nat × Nat × Nat × Nat) := []
  /-- FREL answers still due to this device: crew, warp, XID. -/
  rels : List (Nat × Nat × Nat) := []
  /-- FRELs this device has still to answer, with the XIDs of the stores they wait for. -/
  frels : List (Flit × List Nat) := []
  held : List Held := []
  heldData : List HeldData := []
  /-- Export entries that passed their check: VF, index, bytes (R326). DEDUCED: log entry 53. -/
  exports : List (Nat × Nat × List Byte) := []
  deriving DecidableEq, Repr

structure Wharf where
  posted : List Posted := []
  sends : List Send := []
  unexpected : List Msg := []
  landings : List Landing := []
  /-- GEN counts of entries and slots, listed where not 0. -/
  pgens : List (Nat × Nat) := []
  sgens : List (Nat × Nat) := []
  deriving DecidableEq, Repr

/-- The peloton token while the device holds it (R337). -/
structure Token where
  vf : Nat
  loads : List Nat
  reqs : List Bool
  deriving DecidableEq, Repr

structure Pod where
  pelq : Nat := 0
  ship : Nat := 16
  high : Nat := 256
  low : Nat := 8
  token : Option Token := none
  lastToken : Nat := 0
  /-- STEAL entries shipped out, by device. -/
  shipped : List (Nat × List Byte) := []
  deriving DecidableEq, Repr

/-! ### The Towpath (R353 to R361) -/

/-- One target's slots (R358, R359): active slot (true for B), the slot that runs, staged mark, versions and images of A and B,
minimum version. -/
structure FwSlot where
  active : Bool := false
  loaded : Bool := false
  staged : Bool := false
  verA : Nat := 0
  verB : Nat := 0
  imgA : List Byte := []
  imgB : List Byte := []
  minVer : Nat := 0
  deriving DecidableEq, Repr

/-- DESIGN CHOICE: log entry 5. -/
structure Towpath where
  go : Bool := false
  op : Nat := 0
  arg : Nat := 0
  status : Nat := 0
  value : Nat := 0
  buf : Nat := 0
  len : Nat := 0
  l1 : Bool := false
  level2 : Bool := false
  restarting : Bool := false
  /-- Newest first: time in µs, kind, die or target (R357). -/
  log : List (Nat × Nat × Nat) := []
  fw : List FwSlot := List.replicate 9 {}
  /-- Signature refusals since reset (R360). -/
  sigRefusals : Nat := 0
  /-- Voltage-droop events of each die since reset, as last counted (R356). DESIGN CHOICE: log entry 23. -/
  droops : List Nat := List.replicate 8 0
  identityKey : Bool := true
  deriving DecidableEq, Repr

/-- What moves next where the manual leaves the interleaving open (R176, R177). -/
inductive Move where
  | event (e : Instr)
  | issue (core : Nat)
  deriving DecidableEq, Repr

/-- The bundle being issued (R13, R106, R255). DESIGN CHOICE: log entry 2. -/
structure Issue where
  /-- The lanes of Active, and those that failed a check in this issue. -/
  active : LaneMask := 0
  faulted : LaneMask := 0
  pc : Word := 0
  /-- Place of the present word in the bundle and words of the bundle. -/
  pos : Nat := 0
  words : Nat := 1
  /-- The bundle cannot issue yet: nothing took effect. -/
  stall : Bool := false
  /-- The bundle ended without advancing: a kill, a trap or a whole-warp fault. -/
  abort : Bool := false
  rep : Bool := false
  /-- Branch targets of lanes (R74), none for a lane that falls through. -/
  targets : List (Nat × Word) := []
  /-- `%frag` and `%ltime` as read in step 1 of R13 (R292). -/
  frag0 : Word := 0
  ltime0 : Nat := 0
  deriving DecidableEq, Repr

/-- The whole device. -/
structure State where
  /-- Device cycles since reset: the base of `%clock` and of every length of time (R292). -/
  cycle : Nat
  /-- The model's own: the moves chosen for the next steps, the count of steps, the number of the next free value, and
  the count of operations in the order they were formed (DESIGN CHOICE: log entries 1, 6 and 7). -/
  moves : List Move
  steps : Nat
  freeCtr : Nat
  opSeq : Nat
  /-- The issuing crew and warp, and the warp's registers as read in step 1 of R13. -/
  c : Crew
  w : Warp
  old : Warp
  iss : Issue
  crews : List Crew
  frags : List Frag
  nextCrew : Nat
  mem : Memory
  hostMem : Memory
  /-- Logical write time and lease end of a line (R178), listed where not 0; places that are never cached have lines of
  their own (tensor numbers from 2^16). -/
  lines : List (Tag × Nat × Nat)
  /-- Logical time of the engines, the host and the peers: what they have read and written lies before it (R177, R202).
  DESIGN CHOICE: log entry 25. -/
  etime : Nat
  /-- Atomic units that have served an atomic in a cycle, and the source it came from (R180): unit, cycle, source. -/
  units : List (Nat × Nat × Nat)
  /-- Keys of 128-byte sectors whose data are uncorrectable (R275). DEDUCED: log entry 57. -/
  poison : List Nat
  /-- Memory key under which a written 128-byte sector was last written (R317): sector number, key. -/
  owners : List (Nat × Nat)
  /-- Armed barrier objects in device memory, by key, with the L2 slice their line homes in (R173). -/
  armed : List (Nat × Nat)
  cores : List Core
  quads : List Quad
  bays : List Bay
  dies : List Die
  stripe : List Nat
  elect : Nat
  vfs : List Vf
  launches : List Launch
  nextLaunch : Nat
  /-- VF served last by the acceptance rotation (R124), and the running time-sliced VF with its slice start (R312). -/
  lastVf : Nat
  slice : Option (Nat × Nat)
  /-- TSLEN as it was written (R313). -/
  tslen : Nat
  -- the service request register (R313)
  drGo : Bool
  /-- The die whose request runs, of which GO tells. DESIGN CHOICE: log entry 60. -/
  drRun : Option Nat
  drOp : Nat
  drDie : Nat
  /-- DCAP0 to 7 as they were last counted (R313). DESIGN CHOICE: log entry 94. -/
  dcap : List Nat
  fabric : Fabric
  wharf : Wharf
  pod : Pod
  towpath : Towpath
  /-- Number of the next memory key (R317). DEDUCED: log entry 67. -/
  nextKey : Nat
  /-- What the last host read returned (R179); empty where a completer abort answered it (R361). -/
  hostReadback : List Byte
  halted : Bool
  deriving DecidableEq, Repr

/-- Why a step stops. Every exception of the manual is taken as a next state; one state of the device runs nothing. -/
inductive Fault where
  /-- Raised by `step` of a machine that a level-2 alarm has stopped (R361, step 2): safe, nothing runs.
  DESIGN CHOICE: log entry 11. -/
  | halted
  deriving DecidableEq, Repr

/-- Why a step has no meaning. -/
inductive Refusal where
  /-- An instruction whose meaning is not written: safe. -/
  | notModelled (mnemonic : String)
  deriving DecidableEq, Repr

/-- The machine right after device reset with every die authenticated (R304): no crew, no launch, every register at
the value the manual gives, the others as log entries 3 to 6 say (DESIGN CHOICE). DESIGN CHOICE: log entries 4, 5. -/
def State.reset : State where
  cycle := 0
  moves := []
  steps := 0
  freeCtr := 0
  opSeq := 0
  c := {}
  w := {}
  old := {}
  iss := {}
  crews := []
  frags := []
  nextCrew := 1
  mem := []
  hostMem := []
  lines := []
  etime := 0
  units := []
  poison := []
  owners := []
  armed := []
  cores := List.replicate Config.cores {}
  quads := List.replicate Config.quads {}
  bays := List.replicate Config.bays {}
  dies := List.replicate Config.dies {}
  stripe := (List.range 64).map (· % 8)
  elect := 0
  vfs := { key := some 0 } :: List.replicate 192 {}
  launches := []
  nextLaunch := 1
  lastVf := 0
  slice := none
  tslen := 4000000
  drGo := false
  drRun := none
  drOp := 0
  drDie := 0
  dcap := List.replicate 8 0
  fabric := {}
  wharf := {}
  pod := {}
  towpath := {}
  nextKey := 1
  hostReadback := []
  halted := false

end Sys2Proof.Machine
end

