-- ==== Sys2Proof/Machine/Flags.lean ====
section
/-! DEFINITION. Number formats and exact arithmetic with its flags (R38 to R57): decoding to exact values, one rounding
per operation, NaNs, subnormals, overflow, comparisons, conversions, and the integer helpers. -/

namespace Sys2Proof.Machine

/-! ### Integers (R38, R61, R62, R66 to R69) -/

/-- The low 32 bits of a natural number. -/
def w32 (n : Nat) : Word := BitVec.ofNat 32 n

/-- sat(x, lo, hi) (R6). -/
def satI (x lo hi : Int) : Int := if x < lo then lo else if hi < x then hi else x

/-- Shifts by the whole 32-bit count (R61). -/
def shlW (a b : Word) : Word := if 32 ≤ b.toNat then 0 else a <<< b.toNat
def shrW (a b : Word) : Word := if 32 ≤ b.toNat then 0 else a >>> b.toNat
def sraW (a b : Word) : Word := a.sshiftRight (min b.toNat 32)

/-- Minimum and maximum, signed and ordinal (R61). -/
def minS (a b : Word) : Word := if a.slt b then a else b
def maxS (a b : Word) : Word := if a.slt b then b else a
def minU (a b : Word) : Word := if a.ult b then a else b
def maxU (a b : Word) : Word := if a.ult b then b else a

/-- Bits [63:32] of the signed and of the ordinal product (R61). -/
def mulHS (a b : Word) : Word := BitVec.ofInt 32 (a.toInt * b.toInt / 2 ^ 32)
def mulHU (a b : Word) : Word := w32 (a.toNat * b.toNat / 2 ^ 32)

/-- Leading zeros of a 32-bit value, 0 to 32 (R62). -/
def clzW (a : Word) : Word := w32 (if a.toNat = 0 then 32 else 31 - Nat.log2 a.toNat)

/-- Number of 1 bits (R62). -/
def popcW (a : Word) : Word := w32 ((List.range 32).countP fun i => a.getLsbD i)

/-- Bit reversal (R62). -/
def brevW (a : Word) : Word := w32 ((List.range 32).foldl (fun acc i => acc + (if a.getLsbD i then 2 ^ (31 - i) else 0)) 0)

/-- Effective length of a field control word (R62). -/
def fieldLen (c : Word) : Nat := min (c.toNat / 2 ^ 8 % 64) (32 - c.toNat % 32)

/-- extract of R62. -/
def extractW (a c : Word) : Word :=
  let n := fieldLen c
  let f := a.toNat / 2 ^ (c.toNat % 32) % 2 ^ n
  if n = 0 then 0 else if c.getLsbD 16 && decide (2 ^ (n - 1) ≤ f) then w32 (f + 2 ^ 32 - 2 ^ n) else w32 f

/-- insert of R62. -/
def insertW (d a c : Word) : Word :=
  let n := fieldLen c
  let m : Word := w32 ((2 ^ n - 1) * 2 ^ (c.toNat % 32))
  if n = 0 then d else (d &&& ~~~m) ||| ((a <<< (c.toNat % 32)) &&& m)

/-- The conditions of R63. -/
def condW (cc : Cond) (a b : Word) : Bool :=
  match cc with
  | .eq => a == b | .ne => a != b
  | .lt => a.slt b | .le => a.sle b | .gt => b.slt a | .ge => b.sle a
  | .ltu => a.ult b | .leu => a.ule b | .gtu => b.ult a | .geu => b.ule a

/-- A packed cell moved by an offset: the coordinates (R68). -/
def cellXYZ (a b : Word) : Nat × Nat × Nat :=
  ((a.toNat % 1024 + b.toNat % 1024) % 1024,
   (a.toNat / 2 ^ 10 % 1024 + b.toNat / 2 ^ 10 % 1024) % 1024,
   (a.toNat / 2 ^ 20 % 1024 + b.toNat / 2 ^ 20 % 1024) % 1024)

/-- Morton interleave (R68). -/
def mortonW (a b : Word) : Word :=
  let c := cellXYZ a b
  w32 ((List.range 10).foldl (fun m i =>
    m + (c.1 / 2 ^ i % 2) * 2 ^ (3 * i) + (c.2.1 / 2 ^ i % 2) * 2 ^ (3 * i + 1) + (c.2.2 / 2 ^ i % 2) * 2 ^ (3 * i + 2)) 0)

/-- Cell hash (R69). -/
def cellhW (a b : Word) : Word :=
  let c := cellXYZ a b
  let h := w32 (c.1 * 0x9E3779B1) ^^^ w32 (c.2.1 * 0x85EBCA77) ^^^ w32 (c.2.2 * 0xC2B2AE3D)
  h ^^^ (h >>> 15)

/-- vaddmin, vaddsat, vsubsat, vabsdiff, vabs (R66, R67, R70). -/
def addMinW (a b : Word) : Word := BitVec.ofInt 32 (satI (min a.toInt b.toInt + 1) (-2 ^ 31) (2 ^ 31 - 1))
def addSatW (a b : Word) : Word := BitVec.ofInt 32 (satI (a.toInt + b.toInt) (-2 ^ 31) (2 ^ 31 - 1))
def subSatW (a b : Word) : Word := BitVec.ofInt 32 (satI (a.toInt - b.toInt) (-2 ^ 31) (2 ^ 31 - 1))
def absDiffW (a b : Word) : Word := w32 (a.toInt - b.toInt).natAbs
def absW (a : Word) : Word := w32 a.toInt.natAbs

/-- sext(IMM11) (R31). -/
def imm11 (imm : Nat) : Word := if imm % 2048 < 1024 then w32 (imm % 2048) else w32 (imm % 2048 + 2 ^ 32 - 2048)

/-- A 16-bit immediate in half H (R65). -/
def immH (hi : Bool) (imm : Nat) : Word := w32 (imm % 2 ^ 16 * (if hi then 2 ^ 16 else 1))

/-- slik (R65). -/
def likW (hi : Bool) (d : Word) (imm : Nat) : Word :=
  if hi then (d &&& 0x0000FFFF) ||| immH true imm else (d &&& 0xFFFF0000) ||| immH false imm

/-- The hash of R99. -/
def hrndW (id row col : Word) (seed : DWord) : Word :=
  let key : DWord := BitVec.ofNat 64 (id.toNat % 2 ^ 16 * 2 ^ 48 + row.toNat % 2 ^ 24 * 2 ^ 24 + col.toNat % 2 ^ 24)
  let x := key ^^^ seed
  let x := (x ^^^ (x >>> 30)) * 0xBF58476D1CE4E5B9
  let x := (x ^^^ (x >>> 27)) * 0x94D049BB133111EB
  let x := x ^^^ (x >>> 31)
  (x >>> 32).setWidth 32 ^^^ x.setWidth 32

/-! ### Floating-point formats (R43, R47) -/

/-- Exceptions of R41: NV 4, DZ 3, OF 2, UF 1, NX 0. -/
abbrev FpFlags := BitVec 5
def flNV : FpFlags := 16#5
def flDZ : FpFlags := 8#5
def flOF : FpFlags := 4#5
def flUF : FpFlags := 2#5
def flNX : FpFlags := 1#5

/-- What the top of a format's codes means: infinity and NaNs, one NaN code, or only numbers. -/
inductive FmtKind where
  | ieee | nanOnly | finite
  deriving DecidableEq, Repr

/-- A format: exponent bits, fraction bits, bias. -/
structure Fmt where
  eb : Nat
  fb : Nat
  bias : Nat
  kind : FmtKind
  deriving DecidableEq, Repr

def fp64 : Fmt := ⟨11, 52, 1023, .ieee⟩
def fp32 : Fmt := ⟨8, 23, 127, .ieee⟩
def f19 : Fmt := ⟨8, 10, 127, .ieee⟩
def bf16 : Fmt := ⟨8, 7, 127, .ieee⟩
def fp16 : Fmt := ⟨5, 10, 15, .ieee⟩
def e5m2 : Fmt := ⟨5, 2, 15, .ieee⟩
def e4m3 : Fmt := ⟨4, 3, 7, .nanOnly⟩
def e3m4 : Fmt := ⟨3, 4, 3, .nanOnly⟩
def e3m2 : Fmt := ⟨3, 2, 3, .finite⟩
def e2m3 : Fmt := ⟨2, 3, 1, .finite⟩
def e2m1 : Fmt := ⟨2, 1, 1, .finite⟩

/-- Code of the sign, of the largest finite magnitude, of infinity and of the canonical NaN (R44, R47). -/
def Fmt.sign (f : Fmt) (neg : Bool) : Nat := if neg then 2 ^ (f.eb + f.fb) else 0
def Fmt.maxCode (f : Fmt) : Nat :=
  match f.kind with
  | .ieee => (2 ^ f.eb - 1) * 2 ^ f.fb - 1
  | .nanOnly => 2 ^ (f.eb + f.fb) - 2
  | .finite => 2 ^ (f.eb + f.fb) - 1
def Fmt.infCode (f : Fmt) : Nat := (2 ^ f.eb - 1) * 2 ^ f.fb
def Fmt.nanCode (f : Fmt) : Nat :=
  match f.kind with
  | .ieee => (2 ^ f.eb - 1) * 2 ^ f.fb + 2 ^ (f.fb - 1)
  | _ => 2 ^ (f.eb + f.fb) - 1
/-- Exponent of the last place of subnormals. -/
def Fmt.emin (f : Fmt) : Int := 1 - (f.bias : Int) - f.fb

/-- An exact value: a NaN (`sig`: signalling), an infinity, or (-1)^neg × m × 2^e. -/
inductive Num where
  | nan (sig : Bool)
  | inf (neg : Bool)
  | fin (neg : Bool) (m : Nat) (e : Int)
  deriving DecidableEq, Repr

/-- Decoding of a code (R43, R47). -/
def Fmt.decode (f : Fmt) (bits : Nat) : Num :=
  let neg := bits / 2 ^ (f.eb + f.fb) % 2 == 1
  let ef := bits / 2 ^ f.fb % 2 ^ f.eb
  let fr := bits % 2 ^ f.fb
  let top := ef == 2 ^ f.eb - 1
  match f.kind, top with
  | .ieee, true => if fr = 0 then .inf neg else .nan (fr < 2 ^ (f.fb - 1))
  | _, _ =>
    if f.kind = .nanOnly && top && fr == 2 ^ f.fb - 1 then .nan false
    else if ef = 0 then .fin neg fr f.emin else .fin neg (fr + 2 ^ f.fb) (f.emin + ef - 1)

/-- R45: a subnormal input under FTZ reads as zero of its sign. -/
def Fmt.decodeFtz (f : Fmt) (ftz : Bool) (bits : Nat) : Num :=
  if ftz && bits / 2 ^ f.fb % 2 ^ f.eb == 0 then .fin (bits / 2 ^ (f.eb + f.fb) % 2 == 1) 0 0 else f.decode bits

/-- Rounding modes (R40, R54): 0 RNE, 1 RTZ, 2 RUP, 3 RDN. `q` is the kept part, `r` of `2^k` the dropped one. -/
def roundUp (rm : Nat) (neg : Bool) (q r k : Nat) : Bool :=
  match rm with
  | 0 => decide (2 ^ k < 2 * r) || (2 * r == 2 ^ k && q % 2 == 1)
  | 1 => false
  | 2 => !neg && r != 0
  | _ => neg && r != 0

/-- m × 2^e rounded to a multiple of 2^x: the multiple and whether it is inexact. -/
def roundAt (rm : Nat) (neg : Bool) (m : Nat) (e x : Int) : Nat × Bool :=
  if x ≤ e then (m * 2 ^ (e - x).toNat, false)
  else
    let k := (x - e).toNat
    let q := m / 2 ^ k
    let r := m % 2 ^ k
    (if roundUp rm neg q r k then q + 1 else q, r != 0)

/-- Number of bits of a natural number. -/
def bitLen (m : Nat) : Nat := if m = 0 then 0 else Nat.log2 m + 1

/-- One rounding of a non-zero exact value to a format (R45, R46, R95): the magnitude code, which may pass `maxCode`,
whether it is inexact, and whether it is tiny (after rounding with an unbounded exponent). -/
def Fmt.roundMag (f : Fmt) (rm : Nat) (neg : Bool) (m : Nat) (e : Int) : Nat × Bool × Bool :=
  let x0 := (bitLen m : Int) + e - (f.fb + 1)
  let x := max x0 f.emin
  let r := roundAt rm neg m e x
  let t := roundAt rm neg m e x0
  let tiny := decide ((bitLen t.1 : Int) + x0 ≤ f.emin + f.fb)
  ((x - f.emin).toNat * 2 ^ f.fb + r.1, r.2, tiny)

/-- Overflow of a finite result (R46). -/
def Fmt.overflowCode (f : Fmt) (rm : Nat) (neg : Bool) : Nat :=
  let inf := match rm with
    | 0 => true | 1 => false | 2 => !neg | _ => neg
  f.sign neg + (if inf then f.infCode else f.maxCode)

/-- An exact result written in a wide format under RM and FTZ: the code and the flags (R44 to R46). -/
def Fmt.round (f : Fmt) (rm : Nat) (ftz : Bool) : Num → Nat × FpFlags
  | .nan _ => (f.nanCode, 0)
  | .inf neg => (f.sign neg + f.infCode, 0)
  | .fin neg m e =>
    if m = 0 then (f.sign neg, 0)
    else
      let r := f.roundMag rm neg m e
      if f.maxCode < r.1 then (f.overflowCode rm neg, flOF ||| flNX)
      else if ftz && decide (r.1 < 2 ^ f.fb) then (f.sign neg, flUF ||| flNX)
      else (f.sign neg + r.1, (if r.2.1 then flNX else 0) ||| (if r.2.1 && r.2.2 then flUF else 0))

/-- NV of a signalling operand (R44). -/
def Num.sig : Num → FpFlags
  | .nan true => flNV
  | _ => 0
def Num.isNan : Num → Bool
  | .nan _ => true
  | _ => false
def Num.neg : Num → Num
  | .nan s => .nan s
  | .inf n => .inf (!n)
  | .fin n m e => .fin (!n) m e
/-- The signed mantissa. -/
def Num.sm (neg : Bool) (m : Nat) : Int := if neg then -(m : Int) else m

/-- Exact sum (R46: an exact zero sum of opposite signs is −0 under RDN only). -/
def Num.add (rm : Nat) (a b : Num) : Num × FpFlags :=
  match a, b with
  | .nan _, _ | _, .nan _ => (.nan false, a.sig ||| b.sig)
  | .inf n, .inf n' => if n = n' then (.inf n, 0) else (.nan false, flNV)
  | .inf n, _ | _, .inf n => (.inf n, 0)
  | .fin n m e, .fin n' m' e' =>
    let x := min e e'
    let t := Num.sm n (m * 2 ^ (e - x).toNat) + Num.sm n' (m' * 2 ^ (e' - x).toNat)
    if t = 0 then (.fin (if n = n' then n else rm == 3) 0 0, 0) else (.fin (decide (t < 0)) t.natAbs x, 0)

/-- Exact product. -/
def Num.mul (a b : Num) : Num × FpFlags :=
  match a, b with
  | .nan _, _ | _, .nan _ => (.nan false, a.sig ||| b.sig)
  | .inf n, .inf n' => (.inf (n != n'), 0)
  | .inf n, .fin n' m _ | .fin n m _, .inf n' => if m = 0 then (.nan false, flNV) else (.inf (n != n'), 0)
  | .fin n m e, .fin n' m' e' => (.fin (n != n') (m * m') (e + e'), 0)

/-- a × b + c, exact (R88: 0 × ∞ raises NV even beside a quiet NaN). -/
def Num.fma (rm : Nat) (a b c : Num) : Num × FpFlags :=
  let p := a.mul b
  let s := p.1.add rm c
  (s.1, p.2 ||| s.2)

/-- |a|. -/
def Num.abs : Num → Num
  | .nan s => .nan s
  | .inf _ => .inf false
  | .fin _ m e => .fin false m e

/-- Exact order of two numbers that are not NaNs: −1, 0 or 1. -/
def Num.cmp (a b : Num) : Int :=
  match a, b with
  | .inf n, .inf n' => (if n = n' then 0 else if n then -1 else 1)
  | .inf n, _ => if n then -1 else 1
  | _, .inf n => if n then 1 else -1
  | .fin n m e, .fin n' m' e' =>
    let x := min e e'
    let t := Num.sm n (m * 2 ^ (e - x).toNat) - Num.sm n' (m' * 2 ^ (e' - x).toNat)
    if t < 0 then -1 else if t = 0 then 0 else 1
  | _, _ => 0

/-- A zero of the given sign. -/
def Num.zeroNeg : Num → Bool
  | .fin n 0 _ => n
  | _ => false

/-- minimumNumber (`mx` false) and maximumNumber (R89): the code and the flags. −0 is less than +0. -/
def Fmt.minmax (f : Fmt) (mx ftz : Bool) (a b : Nat) : Nat × FpFlags :=
  let x := f.decodeFtz ftz a
  let y := f.decodeFtz ftz b
  let fl := x.sig ||| y.sig
  let code (n : Num) : Nat := (f.round 0 false n).1
  match x.isNan, y.isNan with
  | true, true => (f.nanCode, fl)
  | true, false => (code y, fl)
  | false, true => (code x, fl)
  | false, false =>
    let c := x.cmp y
    let less := decide (c < 0) || (c == 0 && (x.zeroNeg && !y.zeroNeg))
    (code (if less != mx then x else y), fl)

/-- The compares of R93: the truth value and the flags. -/
def Fmt.compare (f : Fmt) (cc : FCond) (ftz : Bool) (a b : Nat) : Bool × FpFlags :=
  let x := f.decodeFtz ftz a
  let y := f.decodeFtz ftz b
  let un := x.isNan || y.isNan
  let c := x.cmp y
  let r := match cc with
    | .eq => !un && c == 0 | .ne => un || c != 0
    | .lt => !un && decide (c < 0) | .le => !un && decide (c ≤ 0)
    | .gt => !un && decide (0 < c) | .ge => !un && decide (0 ≤ c)
    | .uno => un | .ord => !un
  let fl := match cc with
    | .lt | .le | .gt | .ge => if un then flNV else 0
    | _ => x.sig ||| y.sig
  (r, fl)

/-- A two-operand or three-operand operation rounded once. -/
def Fmt.add (f : Fmt) (rm : Nat) (ftz : Bool) (a b : Nat) : Nat × FpFlags :=
  let s := (f.decodeFtz ftz a).add rm (f.decodeFtz ftz b)
  let r := f.round rm ftz s.1
  (r.1, s.2 ||| r.2)
def Fmt.sub (f : Fmt) (rm : Nat) (ftz : Bool) (a b : Nat) : Nat × FpFlags :=
  let s := (f.decodeFtz ftz a).add rm (f.decodeFtz ftz b).neg
  let r := f.round rm ftz s.1
  (r.1, s.2 ||| r.2)
def Fmt.mul (f : Fmt) (rm : Nat) (ftz : Bool) (a b : Nat) : Nat × FpFlags :=
  let s := (f.decodeFtz ftz a).mul (f.decodeFtz ftz b)
  let r := f.round rm ftz s.1
  (r.1, s.2 ||| r.2)
def Fmt.fma (f : Fmt) (rm : Nat) (ftz : Bool) (a b d : Nat) : Nat × FpFlags :=
  let s := (f.decodeFtz ftz a).fma rm (f.decodeFtz ftz b) (f.decodeFtz ftz d)
  let r := f.round rm ftz s.1
  (r.1, s.2 ||| r.2)
def Fmt.absdiff (f : Fmt) (rm : Nat) (ftz : Bool) (a b : Nat) : Nat × FpFlags :=
  let s := (f.decodeFtz ftz a).add rm (f.decodeFtz ftz b).neg
  let r := f.round rm ftz s.1.abs
  (r.1, s.2 ||| r.2)

/-- Conversion to a floating-point target (R54): rounding `rm`, SAT, and FTZ of the result. -/
def Fmt.cvt (f : Fmt) (rm : Nat) (sat ftz : Bool) (x : Num) : Nat × FpFlags :=
  match x with
  | .nan sig => if f.kind = .finite then (0, flNV) else (f.nanCode, if sig then flNV else 0)
  | .inf neg =>
    if f.kind = .ieee then (f.sign neg + f.infCode, 0)
    else if sat || f.kind = .finite then (f.sign neg + f.maxCode, flNV) else (f.nanCode, flNV)
  | .fin neg m e =>
    if m = 0 then (f.sign neg, 0)
    else
      let r := f.roundMag rm neg m e
      if f.maxCode < r.1 then
        (if sat then f.sign neg + f.maxCode
         else
           let inf := match rm with
             | 0 => true | 1 => false | 2 => !neg | _ => neg
           if !inf || f.kind = .finite then f.sign neg + f.maxCode
           else if f.kind = .ieee then f.sign neg + f.infCode else f.nanCode, flOF ||| flNX)
      else if ftz && decide (r.1 < 2 ^ f.fb) then (f.sign neg, flUF ||| flNX)
      else (f.sign neg + r.1, (if r.2.1 then flNX else 0) ||| (if r.2.1 && r.2.2 then flUF else 0))

/-- Conversion to an integer target of range lo to hi (R55). -/
def cvtInt (rm : Nat) (lo hi : Int) (x : Num) : Int × FpFlags :=
  match x with
  | .nan _ => (0, flNV)
  | .inf neg => (if neg then lo else hi, flNV)
  | .fin neg m e =>
    let r := roundAt rm neg m e 0
    let v := Num.sm neg r.1
    if hi < v then (hi, flNV) else if v < lo then (lo, flNV) else (v, if r.2 then flNX else 0)

/-- An integer as an exact value. -/
def intNum (x : Int) : Num := .fin (decide (x < 0)) x.natAbs 0

/-! ### The decade format and E8M0 (R49 to R51) -/

/-- DX8's 127 magnitudes as numerators over 2^6 × 1000, by m (R49): 1000 × 64 × value. -/
def dx8Mag (m : Nat) : Nat :=
  let p := Nat.log2 m
  let n := p
  let f := m - 2 ^ p
  let k := 6 - p
  -- value = 10^E × (1 + 9 f / 2^n); scaled by 64000
  let base := match k with
    | 5 => 64 | 3 => 640 | 1 => 6400 | 0 => 64000 | 2 => 640000 | 4 => 6400000 | _ => 64000000
  base + base * 9 * f / 2 ^ n

/-- A DX8 code as a fraction over 64000: none for the NaN (R49). -/
def dx8Decode (c : Nat) : Option Int :=
  if c % 256 = 0x80 then none
  else if c % 128 = 0 then some 0
  else some (if 128 ≤ c % 256 then -(dx8Mag (c % 128) : Int) else dx8Mag (c % 128))

/-- rne(n / d, FP32) of a positive fraction, by long division with a sticky bit. -/
def ratNum (neg : Bool) (n d : Nat) : Num :=
  if n = 0 then .fin neg 0 0
  else
    let k := 64 + bitLen d
    let q := n * 2 ^ k / d
    .fin neg (2 * q + (if n * 2 ^ k % d = 0 then 0 else 1)) (-(k : Int) - 1)

/-- A DX8 element as the QME reads it (R56): rne(value, FP32), then exact. -/
def dx8Num (c : Nat) : Num :=
  match dx8Decode c with
  | none => .nan false
  | some v => fp32.decode (fp32.round 0 false (ratNum (decide (v < 0)) v.natAbs 64000)).1

/-- R50: encoding into DX8. Ties go to the even fraction. -/
def dx8Encode (sat : Bool) (x : Num) : Nat × FpFlags :=
  match x with
  | .nan _ => (0x80, flNV)
  | .inf neg => if sat then ((if neg then 0x81 else 1), flNV ||| flNX) else (0x80, flNV ||| flNX)
  | .fin neg m e =>
    -- compare 64000 × m × 2^e with the magnitudes, all scaled by 2^(-e) when e < 0
    let up := if 0 ≤ e then 2 ^ e.toNat else 1
    let dn := if 0 ≤ e then 1 else 2 ^ (-e).toNat
    let v := 64000 * m * up
    let s := if neg then 128 else 0
    if v < 32 * dn then (0, if m = 0 then 0 else flNX)
    else if 64000000 * dn < v then (s + 1, flOF ||| flNX)
    else
      let dist (c : Nat) : Nat := let t := dx8Mag c * dn; if t ≤ v then v - t else t - v
      let even (c : Nat) : Bool := (c - 2 ^ Nat.log2 c) % 2 == 0
      let best := (List.range 127).foldl (fun b i =>
        let c := i + 1
        if decide (dist c < dist b) || (dist c == dist b && even c && !even b) then c else b) 1
      (s + best, if dist best = 0 then 0 else flNX)

/-- E8M0 as a value (R51). -/
def e8m0Num (c : Nat) : Num := if c % 256 = 255 then .nan false else .fin false 1 ((c % 256 : Int) - 127)

/-- R51: encoding into E8M0: nearest power of two, a tie to the larger. -/
def e8m0Encode (sat : Bool) (x : Num) : Nat × FpFlags :=
  match x with
  | .nan sig => (255, if sig then flNV else 0)
  | .inf neg => if neg then (255, flNV) else (if sat then 0xFE else 0xFF, flNV)
  | .fin neg m e =>
    if neg || m = 0 then (255, flNV)
    else
      let b := bitLen m - 1
      -- m × 2^e lies in [2^(b+e), 2^(b+e+1)); the middle is 1.5 × 2^(b+e)
      let x := (b : Int) + e + (if 3 * 2 ^ b ≤ 2 * m then 1 else 0)
      let nx := if m = 2 ^ b then (0 : FpFlags) else flNX
      if 127 < x then (if sat then 0xFE else 0xFF, flOF ||| flNX)
      else if x < -127 then (0, flUF ||| flNX)
      else ((x + 127).toNat, nx)

/-! ### Square root and the special functions (R96 to R98) -/

/-- Integer square root of a number below 4^n, bit by bit. -/
def isqrtN : Nat → Nat → Nat
  | 0, _ => 0
  | n + 1, x =>
    let r := 2 * isqrtN n (x / 4)
    if (r + 1) * (r + 1) ≤ x then r + 1 else r

/-- √(m × 2^e) with a sticky bit (R96). -/
def Num.sqrt : Num → Num × FpFlags
  | .nan s => (.nan false, if s then flNV else 0)
  | .inf neg => if neg then (.nan false, flNV) else (.inf false, 0)
  | .fin neg m e =>
    if m = 0 then (.fin neg 0 0, 0)
    else if neg then (.nan false, flNV)
    else
      let k := 2 * 80 + (e % 2).toNat
      let y := m * 2 ^ k
      let r := isqrtN 200 y
      (.fin false (2 * r + (if r * r = y then 0 else 1)) ((e - k) / 2 - 1), 0)

/-- Fraction bits of the fixed-point evaluations below. -/
def fxBits : Nat := 400
/-- Fixed-point product, toward zero. -/
def fxMul (a b : Int) : Int := (a * b) / 2 ^ fxBits
/-- Sum of the series a0 + a1 + ..., where term k+1 is term k times x over `den k`. -/
def fxSeries (x : Int) (den : Nat → Int) : Nat → Nat → Int → Int
  | 0, _, _ => 0
  | n + 1, k, t => t + fxSeries x den n (k + 1) (fxMul t x / den k)
/-- Sum over odd k of y^k / k (atanh), with x = y². -/
def fxAtanh (x : Int) : Nat → Nat → Int → Int
  | 0, _, _ => 0
  | n + 1, k, t => t / (k : Int) + fxAtanh x n (k + 2) (fxMul t x)
/-- e^x for |x| below 1. -/
def fxExp (x : Int) : Int := fxSeries x (fun k => (k : Int) + 1) 90 0 (2 ^ fxBits)
/-- ln m for 1 ≤ m ≤ 2 by 2 atanh((m − 1)/(m + 1)). -/
def fxLn (m : Int) : Int :=
  let y := (m - 2 ^ fxBits) * 2 ^ fxBits / (m + 2 ^ fxBits)
  2 * fxAtanh (fxMul y y) 140 1 y
/-- ln 2. -/
def fxLn2 : Int := fxLn (2 * 2 ^ fxBits)
/-- arctan(1/k) by its series. -/
def fxAtanInv (k : Nat) : Nat → Nat → Int → Int
  | 0, _, _ => 0
  | n + 1, j, t => (if j % 4 = 1 then t / (j : Int) else -(t / (j : Int))) + fxAtanInv k n (j + 2) (t / ((k : Int) * k))
/-- π by Machin's formula. -/
def fxPi : Int := 4 * (4 * fxAtanInv 5 90 1 (2 ^ fxBits / 5) - fxAtanInv 239 30 1 (2 ^ fxBits / 239))
/-- sin and cos of |x| ≤ π/4 by their series. -/
def fxSinS (x : Int) : Int := fxSeries (fxMul x x) (fun k => -((2 * (k : Int) + 2) * (2 * k + 3))) 40 0 x
def fxCosS (x : Int) : Int := fxSeries (fxMul x x) (fun k => -((2 * (k : Int) + 1) * (2 * k + 2))) 40 0 (2 ^ fxBits)
/-- sin x (`c` false) or cos x by reduction to a quarter turn. -/
def fxTrig (c : Bool) (x : Int) : Int :=
  let h := fxPi / 2
  let n := (x + h / 2) / h
  let r := x - n * h
  match ((n + (if c then 1 else 0)) % 4).toNat with
  | 0 => fxSinS r | 1 => fxCosS r | 2 => -(fxSinS r) | _ => -(fxCosS r)

/-- A value m × 2^e as fixed point, toward minus infinity. -/
def fxOf (neg : Bool) (m : Nat) (e : Int) : Int :=
  let x := e + fxBits
  Num.sm neg (if 0 ≤ x then m * 2 ^ x.toNat else m / 2 ^ (-x).toNat)

/-- The FP32 code of a fixed-point value rounded to nearest. -/
def fxNear32 (x : Int) : Nat := (fp32.round 0 false (.fin (decide (x < 0)) x.natAbs (-(fxBits : Int)))).1

/-- 2^x for finite x (R96), as a magnitude m × 2^e. -/
def exp2Num (x : Int) : Nat × Int :=
  let n := x / 2 ^ fxBits
  let f := x - n * 2 ^ fxBits
  ((fxExp (fxMul f fxLn2)).toNat, n - fxBits)

/-- log₂ of a positive value as fixed point. -/
def log2Fx (m : Nat) (e : Int) : Int :=
  let b := bitLen m - 1
  let t : Int := m * 2 ^ (fxBits - b)
  ((b : Int) + e) * 2 ^ fxBits + fxLn t * 2 ^ fxBits / fxLn2

/-- tanh of a fixed-point magnitude below 9: (e^2x − 1)/(e^2x + 1), by halving the argument to below 1. -/
def tanhFx (x : Int) : Int :=
  let y := fxExp (2 * x / 32)
  let sq (z : Int) : Int := fxMul z z
  let z := sq (sq (sq (sq (sq y))))
  (z - 2 ^ fxBits) * 2 ^ fxBits / (z + 2 ^ fxBits)

/-- Writes an inexact magnitude code: NX, OF at infinity, UF and the flush of R45 when it is tiny, which zero is too
(R97). DEDUCED: log entry 17. -/
def sfuInexact (ftz neg : Bool) (code : Nat) : Nat × FpFlags :=
  if fp32.maxCode < code then (fp32.sign neg + fp32.infCode, flOF ||| flNX)
  else if code < 2 ^ 23 then (fp32.sign neg + (if ftz then 0 else code), flUF ||| flNX)
  else (fp32.sign neg + code, flNX)

/-- The value of an FP32 code as fixed point; infinity stands at 2^128, and a NaN has none. DESIGN CHOICE: log entry 87. -/
def fxOfCode (c : Nat) : Option Int :=
  match fp32.decode c with
  | .nan _ => none
  | .inf neg => some (Num.sm neg (2 ^ (128 + fxBits)))
  | .fin neg m e => some (fxOf neg m e)
/-- One ulp of FP32 at a fixed-point value: the spacing in its binade. DEDUCED: log entry 17. -/
def fxUlp (v : Int) : Int := 2 ^ (max (bitLen v.natAbs - 1) (fxBits - 126) - 23)
/-- An absolute error of 2^−22 (R96). -/
def fxAbs22 : Int := 2 ^ (fxBits - 22)

/-- A result whose error is at most `tol` (R96): the free value if it is one, else the nearest. DESIGN CHOICE: log entry 17. -/
def sfuFit (fn : Nat) (x : Word) (ftz : Bool) (v tol : Int) : Nat × FpFlags :=
  let g := (Config.sfuGuess fn x ftz).toNat
  let fits := (fxOfCode g).any fun y => decide ((y - v).natAbs ≤ tol.natAbs)
  let c := if fits then g else fxNear32 v
  sfuInexact ftz (decide (2 ^ 31 ≤ c)) (c % 2 ^ 31)

/-- The eight special functions by minor (R96, R97), for an argument, RM (read by `vfsqrt` only) and FTZ. -/
def sfu (fn : Nat) (rm : Nat) (ftz : Bool) (x : Word) : Nat × FpFlags :=
  match fp32.decodeFtz ftz x.toNat with
  | .nan s => (fp32.nanCode, if s then flNV else 0)
  | .inf neg =>
    match fn with
    | 0 => (fp32.sign neg, 0)
    | 1 | 2 => if neg then (fp32.nanCode, flNV) else (if fn = 1 then 0 else fp32.infCode, 0)
    | 3 => (if neg then 0 else fp32.infCode, 0)
    | 4 => if neg then (fp32.nanCode, flNV) else (fp32.infCode, 0)
    | 5 | 6 => (fp32.nanCode, flNV)
    | _ => (fp32.sign neg + 0x3F800000, 0)
  | .fin neg m e =>
    let b := bitLen m - 1
    let pow2 := m == 2 ^ b
    match fn with
    | 0 =>
      if m = 0 then (fp32.sign neg + fp32.infCode, flDZ)
      else if (b : Int) + e < -128 then (fp32.sign neg + fp32.infCode, flOF ||| flNX)
      else if pow2 && decide (-128 < (b : Int) + e) then fp32.round 0 ftz (.fin neg 1 (-((b : Int) + e)))
      else
        let v := Num.sm neg (2 ^ ((fxBits : Int) - e).toNat / m)
        sfuFit 0 x ftz v (fxUlp v)
    | 1 =>
      if m = 0 then (fp32.sign neg + fp32.infCode, flDZ)
      else if neg then (fp32.nanCode, flNV)
      else if pow2 && ((b : Int) + e) % 2 == 0 then fp32.round 0 ftz (.fin false 1 (-(((b : Int) + e) / 2)))
      else
        let o := (e % 2).toNat
        let v : Int := isqrtN 210 (2 ^ 400 / (m * 2 ^ o)) * 2 ^ ((fxBits : Int) - 200 - (e - o) / 2).toNat
        sfuFit 1 x ftz v (fxUlp v)
    | 2 =>
      let s := (Num.fin neg m e).sqrt
      let r := fp32.round rm ftz s.1
      (r.1, s.2 ||| r.2)
    | 3 =>
      let v := fxOf neg m e
      if decide (128 * 2 ^ fxBits ≤ v) then (fp32.infCode, flOF ||| flNX)
      else if decide (v < -150 * 2 ^ fxBits) then (0, flUF ||| flNX)
      else if v % 2 ^ fxBits = 0 && decide (-150 * 2 ^ fxBits < v) then fp32.round 0 ftz (.fin false 1 (v / 2 ^ fxBits))
      else
        let p := exp2Num v
        let r := fxOf false p.1 p.2
        sfuFit 3 x ftz r (2 * fxUlp r)
    | 4 =>
      if m = 0 then (fp32.sign true + fp32.infCode, flDZ)
      else if neg then (fp32.nanCode, flNV)
      else if pow2 then fp32.round 0 ftz (intNum ((b : Int) + e))
      else
        let v := log2Fx m e
        sfuFit 4 x ftz v (if (b : Int) + e = 0 || (b : Int) + e = -1 then fxAbs22 else 2 * fxUlp v)
    | 5 | 6 =>
      let c := fn == 6
      if m = 0 then (if c then 0x3F800000 else fp32.sign neg, 0)
      else if (Num.fin false m e).cmp (.fin false 65536 0) = 1 then
        let r := (Config.sfuFar c x ftz).toNat
        let g := if (fp32.decode r).isNan || decide ((fp32.decode r).abs.cmp (.fin false 1 0) = 1) then 0 else r
        sfuInexact ftz (decide (2 ^ 31 ≤ g)) (g % 2 ^ 31)
      else if !c && decide ((b : Int) + e < -12) then sfuInexact ftz neg (x.toNat % 2 ^ 31)
      else
        let v := fxTrig c (fxOf neg m e)
        sfuFit fn x ftz v (max (2 * fxUlp v) fxAbs22)
    | _ =>
      if m = 0 then (fp32.sign neg, 0)
      else if (Num.fin false m e).cmp (.fin false 9 0) ≠ -1 then (fp32.sign neg + 0x3F800000, flNX)
      else
        let v := Num.sm neg (tanhFx (fxOf false m e)).natAbs
        sfuFit 7 x ftz v (2 * fxUlp v)

end Sys2Proof.Machine
end

