-- ==== Sys2Proof/Decode.lean ====
section
/-! DEFINITION. Instruction words: the formats of R25, the opcode map of R29 to R35 and R37, decoding (total, every
word that is no instruction rejected with its class) and encoding, over the word's value as a natural number. -/

namespace Sys2Proof

/-- `n` bits of `w` from bit `lo` upwards (R2). -/
def fld (w lo n : Nat) : Nat := w / 2 ^ lo % 2 ^ n

/-- One bit as a truth value. -/
def bitB (w lo : Nat) : Bool := fld w lo 1 == 1

/-- A truth value as one bit. -/
def b1 (b : Bool) : Nat := if b then 1 else 0

/-- What the decoder answers for a word: an instruction, or the class with which it kills the warp (R37). -/
abbrev Decoded := Except KillClass Instr

/-- The word is an instruction if its reserved fields are as R30 to R35 ask, else RESERVED. -/
def req (ok : Bool) (i : Instr) : Decoded := if ok then .ok i else .error .reserved

/-- A minor that R29 does not list. -/
def unas : Decoded := .error .unassigned

/-- Conditions 0 to 9 (R63). -/
def condOf : Nat → Option Cond
  | 0 => some .eq | 1 => some .ne | 2 => some .lt | 3 => some .le | 4 => some .gt | 5 => some .ge
  | 6 => some .ltu | 7 => some .leu | 8 => some .gtu | 9 => some .geu | _ => none

/-- The code of a condition (R63). -/
def condCode : Cond → Nat
  | .eq => 0 | .ne => 1 | .lt => 2 | .le => 3 | .gt => 4 | .ge => 5 | .ltu => 6 | .leu => 7 | .gtu => 8 | .geu => 9

/-- Conditions of VFCMP (R93). -/
def fcondOf : Nat → FCond
  | 0 => .eq | 1 => .ne | 2 => .lt | 3 => .le | 4 => .gt | 5 => .ge | 6 => .uno | _ => .ord

/-- The code of a VFCMP condition (R93). -/
def fcondCode : FCond → Nat
  | .eq => 0 | .ne => 1 | .lt => 2 | .le => 3 | .gt => 4 | .ge => 5 | .uno => 6 | .ord => 7

/-- Sizes 0 to 4 (R34). -/
def sizeOf' : Nat → Option Size
  | 0 => some .b | 1 => some .h | 2 => some .w | 3 => some .d | 4 => some .q | _ => none

/-- The code of a size (R34). -/
def sizeCode : Size → Nat
  | .b => 0 | .h => 1 | .w => 2 | .d => 3 | .q => 4

/-- Atomic operations 0 to 8 (R189). -/
def atomOf : Nat → Option AtomOp
  | 0 => some .add | 1 => some .min | 2 => some .max | 3 => some .minu | 4 => some .maxu | 5 => some .and
  | 6 => some .or | 7 => some .xor | 8 => some .exch | _ => none

/-- The code of an atomic operation (R189). -/
def atomCode : AtomOp → Nat
  | .add => 0 | .min => 1 | .max => 2 | .minu => 3 | .maxu => 4 | .and => 5 | .or => 6 | .xor => 7 | .exch => 8

/-- Floating-point atomics 0 to 3 (R190). -/
def atomfOf : Nat → Option AtomFOp
  | 0 => some .faddF32 | 1 => some .faddBf16x2 | 2 => some .fminF32 | 3 => some .fmaxF32 | _ => none

/-- The code of a floating-point atomic (R190). -/
def atomfCode : AtomFOp → Nat
  | .faddF32 => 0 | .faddBf16x2 => 1 | .fminF32 => 2 | .fmaxF32 => 3

/-- Step operations by XOP (R150). -/
def stepOf : Nat → StepOp
  | 0 => .addO32 | 1 => .minI32 | 2 => .maxI32 | _ => .addF32

/-- The code of a step operation (R150). -/
def stepCode : StepOp → Nat
  | .addO32 => 0 | .minI32 => 1 | .maxI32 => 2 | .addF32 => 3

/-- The number of a kill class (R24). -/
def KillClass.code : KillClass → Nat
  | .unassigned => 1 | .reserved => 2 | .regrange => 3 | .bundle => 4 | .lookahead => 5 | .vote => 6 | .fetch => 7
  | .repeated => 8 | .priv => 9

/-! ### The word formats (R25) -/

def fmtA (maj mn d a b : Nat) : Nat := maj * 2 ^ 25 + mn * 2 ^ 21 + d * 2 ^ 14 + a * 2 ^ 7 + b
def fmtI (maj d a imm : Nat) : Nat := maj * 2 ^ 25 + d * 2 ^ 18 + a * 2 ^ 11 + imm
def fmtL (maj d h imm : Nat) : Nat := maj * 2 ^ 25 + d * 2 ^ 18 + h * 2 ^ 16 + imm
def fmtU (maj la d a mn mode : Nat) : Nat :=
  maj * 2 ^ 25 + la * 2 ^ 21 + d * 2 ^ 14 + a * 2 ^ 7 + mn * 2 ^ 3 + mode
def fmtM (maj la d a m2 m1 m0 op : Nat) : Nat :=
  maj * 2 ^ 25 + la * 2 ^ 21 + d * 2 ^ 14 + a * 2 ^ 7 + m2 * 2 ^ 6 + m1 * 2 ^ 5 + m0 * 2 ^ 4 + op
def fmtX (maj la d ua xop xmin mode : Nat) : Nat :=
  maj * 2 ^ 25 + la * 2 ^ 21 + d * 2 ^ 14 + ua * 2 ^ 8 + xop * 2 ^ 6 + xmin * 2 ^ 2 + mode
def fmtB (maj p pol off : Nat) : Nat := maj * 2 ^ 25 + p * 2 ^ 22 + pol * 2 ^ 20 + off

/-! ### Decoding by format. The arguments are the fields of the word. -/

/-- SINT (R61): all sixteen minors. -/
def decSint (mn d a b : Nat) : Decoded :=
  match mn with
  | 0 => .ok (.sadd d a b) | 1 => .ok (.ssub d a b) | 2 => .ok (.smul d a b) | 3 => .ok (.smulh d a b)
  | 4 => .ok (.smulhu d a b) | 5 => .ok (.sand d a b) | 6 => .ok (.sor d a b) | 7 => .ok (.sxor d a b)
  | 8 => .ok (.sshl d a b) | 9 => .ok (.sshr d a b) | 10 => .ok (.ssra d a b) | 11 => .ok (.smin d a b)
  | 12 => .ok (.smax d a b) | 13 => .ok (.sminu d a b) | 14 => .ok (.smaxu d a b) | 15 => .ok (.smov d a b)
  | _ => unas

/-- SINT2 (R62). -/
def decSint2 (mn d a b : Nat) : Decoded :=
  match mn with
  | 0 => .ok (.sclz d a b) | 1 => .ok (.spopc d a b) | 2 => .ok (.sbrev d a b) | 3 => .ok (.sext d a b)
  | 4 => .ok (.sins d a b) | 5 => .ok (.ssel d a b) | _ => unas

/-- VINT, VINT2 and VINT3 (R66, R67), minors 8 to 15 with a uniform B (R60). -/
def decVint (mn d a b : Nat) : Decoded :=
  let u := mn / 8 == 1
  match mn % 8 with
  | 0 => .ok (.vadd u d a b) | 1 => .ok (.vsub u d a b) | 2 => .ok (.vmul u d a b) | 3 => .ok (.vmulh u d a b)
  | 4 => .ok (.vmulhu u d a b) | 5 => .ok (.vand u d a b) | 6 => .ok (.vor u d a b) | 7 => .ok (.vxor u d a b)
  | _ => unas

def decVint2 (mn d a b : Nat) : Decoded :=
  let u := mn / 8 == 1
  match mn % 8 with
  | 0 => .ok (.vshl u d a b) | 1 => .ok (.vshr u d a b) | 2 => .ok (.vsra u d a b) | 3 => .ok (.vmin u d a b)
  | 4 => .ok (.vmax u d a b) | 5 => .ok (.vminu u d a b) | 6 => .ok (.vmaxu u d a b) | 7 => .ok (.vaddmin u d a b)
  | _ => unas

def decVint3 (mn d a b : Nat) : Decoded :=
  let u := mn / 8 == 1
  match mn % 8 with
  | 0 => .ok (.vmad u d a b) | 1 => .ok (.vaddsat u d a b) | 2 => .ok (.vsubsat u d a b)
  | 3 => .ok (.vabsdiff u d a b) | 4 => .ok (.vext u d a b) | 5 => .ok (.vins u d a b)
  | 6 => .ok (.vmorton u d a b) | 7 => .ok (.vcellh u d a b) | _ => unas

/-- VUN (R70): B is 0. -/
def decVun (mn d a b : Nat) : Decoded :=
  match mn with
  | 0 => req (b == 0) (.vnot d a) | 1 => req (b == 0) (.vneg d a) | 2 => req (b == 0) (.vabs d a)
  | 3 => req (b == 0) (.vclz d a) | 4 => req (b == 0) (.vpopc d a) | 5 => req (b == 0) (.vbrev d a)
  | 6 => req (b == 0) (.vmov d a) | 7 => req (b == 0) (.vbcastS d a) | _ => unas

/-- PLOG (R72). -/
def decPlog (mn d a b : Nat) : Decoded :=
  match mn with
  | 0 => .ok (.pand d a b) | 1 => .ok (.por d a b) | 2 => .ok (.pxor d a b) | 3 => .ok (.pandn d a b)
  | 4 => req (b == 0) (.pnot d a) | 5 => req (b == 0) (.pmov d a) | _ => unas

/-- VF (R88). -/
def decVf (mn d a b : Nat) : Decoded :=
  let u := mn / 8 == 1
  match mn % 8 with
  | 0 => .ok (.vfadd u d a b) | 1 => .ok (.vfsub u d a b) | 2 => .ok (.vfmul u d a b) | 3 => .ok (.vffma u d a b)
  | 4 => .ok (.vfmin u d a b) | 5 => .ok (.vfmax u d a b) | 6 => .ok (.vfcpys u d a b) | 7 => .ok (.vfabsd u d a b)
  | _ => unas

/-- VFD (R91). -/
def decVfd (mn d a b : Nat) : Decoded :=
  match mn with
  | 0 => .ok (.vdadd d a b) | 1 => .ok (.vdsub d a b) | 2 => .ok (.vdmul d a b) | 3 => .ok (.vdfma d a b)
  | 4 => .ok (.vdmin d a b) | 5 => .ok (.vdmax d a b) | _ => unas

/-- VFH (R92). -/
def decVfh (mn d a b : Nat) : Decoded :=
  match mn with
  | 0 => .ok (.vhadd2 false d a b) | 1 => .ok (.vhsub2 false d a b) | 2 => .ok (.vhmul2 false d a b)
  | 3 => .ok (.vhfma2 false d a b) | 4 => .ok (.vhadd2 true d a b) | 5 => .ok (.vhsub2 true d a b)
  | 6 => .ok (.vhmul2 true d a b) | 7 => .ok (.vhfma2 true d a b) | _ => unas

/-- CTL (R75, R77, R78, R153). -/
def decCtl (mn d a b : Nat) : Decoded :=
  match mn with
  | 0 => req (d == 0 && b == 0) (.ret a)
  | 1 => req (d == 0 && b == 0) (.brx a)
  | 2 => req (d == 0 && a == 0 && b == 0) .exit
  | 3 => req (d == 0 && a == 0 && b == 0) .nop
  | 4 => req (d == 0 && a == 0 && b == 0) .yieldL
  | 5 => req (d == 0 && a == 0 && decide (b ≤ 15)) (.bar b)
  | 6 => req (d == 0 && a == 0 && decide (b ≤ 3)) (.barq b)
  | _ => unas

/-- The majors of format A (R30). -/
def decA (maj w : Nat) : Decoded :=
  let mn := fld w 21 4; let d := fld w 14 7; let a := fld w 7 7; let b := fld w 0 7
  match maj with
  | 0x00 => decSint mn d a b
  | 0x01 => decSint2 mn d a b
  | 0x02 => match condOf mn with | some cc => .ok (.scmp cc d a b) | none => unas
  | 0x08 => decVint mn d a b
  | 0x09 => decVint2 mn d a b
  | 0x0A => decVint3 mn d a b
  | 0x0B => decVun mn d a b
  | 0x0C => match condOf mn with | some cc => .ok (.vcmp cc d a b) | none => unas
  | 0x0F => .ok (.vsel (mn / 8 == 1) (mn % 8) d a b)
  | 0x10 => decPlog mn d a b
  | 0x11 => decVf mn d a b
  | 0x12 => decVfd mn d a b
  | 0x13 => decVfh mn d a b
  | 0x14 => if mn / 8 == 1 then .ok (.vfcmpF64 (fcondOf (mn % 8)) d a b) else .ok (.vfcmp (fcondOf (mn % 8)) d a b)
  | 0x1E => decCtl mn d a b
  | _ => unas

/-- The majors of formats I and L (R31). -/
def decIL (maj w : Nat) : Decoded :=
  let d := fld w 18 7; let h := fld w 16 2; let imm := fld w 0 16
  match maj with
  | 0x03 => .ok (.saddi d (fld w 11 7) (fld w 0 11))
  | 0x0D => .ok (.vaddi d (fld w 11 7) (fld w 0 11))
  | 0x04 => req (decide (h < 2)) (.sli (h == 1) d imm)
  | 0x05 => req (decide (h < 2)) (.slik (h == 1) d imm)
  | 0x0E => req (decide (h < 2)) (.vli (h == 1) d imm)
  | 0x1F => req (d == 0 && h == 0) (.safe imm)
  | _ => unas

/-- VCVT (R94): LA is zero, MODE as the pair's column asks. -/
def decVcvt (la d a mn mode : Nat) : Decoded :=
  let sat := mode / 4 == 1
  let rm := mode % 4
  let any (i : Instr) : Decoded := req (la == 0) i
  let only0 (i : Instr) : Decoded := req (la == 0 && mode == 0) i
  let int (i : Instr) : Decoded := req (la == 0 && sat) i
  match mn with
  | 0 => any (.vcvtF32F64 d a sat rm) | 1 => only0 (.vcvtF64F32 d a) | 2 => any (.vcvtF32I32 d a sat rm)
  | 3 => any (.vcvtF32O32 d a sat rm) | 4 => int (.vcvtI32F32 d a rm) | 5 => int (.vcvtO32F32 d a rm)
  | 6 => only0 (.vcvtF64I32 d a) | 7 => int (.vcvtI32F64 d a rm) | 8 => any (.vcvtF19F32 d a sat rm)
  | 9 => any (.vcvtBf16x2F32 d a sat rm) | 10 => any (.vcvtF16x2F32 d a sat rm) | 11 => only0 (.vcvtF32x2F16x2 d a)
  | 12 => any (.vcvtE4m3x4F32 d a sat rm) | 13 => any (.vcvtE5m2x4F32 d a sat rm) | 14 => int (.vcvtI16x2F32 d a rm)
  | 15 => int (.vcvtO8x4F32 d a rm) | _ => unas

/-- SFU (R96): MODE is zero. -/
def decSfu (la d a mn mode : Nat) : Decoded :=
  match mn with
  | 0 => req (mode == 0) (.vfrcp la d a) | 1 => req (mode == 0) (.vfrsq la d a) | 2 => req (mode == 0) (.vfsqrt la d a)
  | 3 => req (mode == 0) (.vfexp2 la d a) | 4 => req (mode == 0) (.vflog2 la d a) | 5 => req (mode == 0) (.vfsin la d a)
  | 6 => req (mode == 0) (.vfcos la d a) | 7 => req (mode == 0) (.vftanh la d a) | _ => unas

/-- The majors of format U (R33). -/
def decU (maj w : Nat) : Decoded :=
  let la := fld w 21 4; let d := fld w 14 7; let a := fld w 7 7; let mn := fld w 3 4; let mode := fld w 0 3
  if maj = 0x15 then decVcvt la d a mn mode else decSfu la d a mn mode

/-- The majors of format M (R34). `v`, `m1`, `m0` are MIN[2], MIN[1], MIN[0]. -/
def decM (maj w : Nat) : Decoded :=
  let la := fld w 21 4; let d := fld w 14 7; let a := fld w 7 7
  let v := bitB w 6; let m1 := bitB w 5; let m0 := bitB w 4; let op := fld w 0 4
  let sz2 : Size := match fld w 4 2 with | 0 => .b | 1 => .h | 2 => .w | _ => .d
  match maj with
  | 0x20 => match sizeOf' op with
    | some sz => req (!(m1 && decide (op ≥ 2))) (.ld la d a v m1 m0 sz) | none => unas
  | 0x21 => match sizeOf' op with | some sz => req (!m1 && !m0) (.st la d a v sz) | none => unas
  | 0x22 => req (op != 0) (.ldt la d a v sz2 op)
  | 0x23 => req (op != 0) (.stt la d a v sz2 op)
  | 0x24 => match sizeOf' op with
    | some sz => req (!(m1 && decide (op ≥ 2)) && !m0) (.lds la d a v m1 sz) | none => unas
  | 0x25 => match sizeOf' op with | some sz => req (!m1 && !m0) (.sts la d a v sz) | none => unas
  | 0x26 => match sizeOf' op with
    | some sz => req (!(m1 && decide (op ≥ 2)) && !m0) (.ldw la d a v m1 sz) | none => unas
  | 0x27 => match atomOf op with | some o => req (!m1) (.atom la d a v m0 o) | none => unas
  | 0x28 => match atomfOf op with | some o => req (!m1 && !m0) (.atomf la d a v o) | none => unas
  | 0x29 => if op = 0 then req (!m1) (.cas la d a v m0) else unas
  | 0x2A => match atomOf op with
    | some o => req (!m1) (.satom la d a v m0 o)
    | none => if op = 9 then req (!m1) (.satomCas la d a v m0) else unas
  | 0x2B => match op with
    | 0 => req (!m1 && !m0 && d == 0 && la == 0) (.prefetch a v)
    | 1 => req (!m1 && !m0 && d == 0 && la == 0) (.discard a v)
    | 2 => req (!m1 && !m0 && d == 0 && la == 0) (.writeback a v)
    | 3 => req (!m1 && !m0 && !v) (.tdesc la d a)
    | _ => unas
  | 0x2C => match op with
    | 0 => req (!v && !m0) (.binit la d a m1)
    | 1 => req (!v && !m0) (.barrive la d a m1)
    | 2 => req (!v && !m0) (.bwait la d a m1)
    | 3 => req (!v && !m0) (.bquery la d a m1)
    | _ => unas
  | _ => unas

/-- XLANE (R146). -/
def decXlane (la d ua xop xmin m : Nat) : Decoded :=
  match xmin with
  | 0 => req (xop == 0) (.vshflUp la d ua m) | 1 => req (xop == 0) (.vshflDown la d ua m)
  | 2 => req (xop == 0) (.vshflXor la d ua m) | 3 => req (xop == 0 && ua == 0) (.vshflIdx la d m)
  | 4 => req (xop == 0) (.vbcast la d ua m) | 5 => req (xop == 0 && decide (ua ≤ 7)) (.vvoteAny la d ua m)
  | 6 => req (xop == 0 && decide (ua ≤ 7)) (.vvoteAll la d ua m)
  | 7 => req (xop == 0 && decide (ua ≤ 7)) (.vballot la d ua m)
  | 8 => .ok (.vredStep la d ua (stepOf xop) m) | 9 => .ok (.vscanStep la d ua (stepOf xop) m) | _ => unas

/-- Engine words CRING to WORKQ (R230 to R241). `z` is XOP and MODE zero. -/
def decEngine (maj la d ua xop xmin mode : Nat) : Decoded :=
  let z := xop == 0 && mode == 0
  let none' := la == 0 && d == 0
  match maj, xmin with
  | 0x31, 0 => req z (.cpoll la d ua) | 0x31, 1 => req z (.csleep la d ua) | 0x31, 2 => req z (.cpop la d ua)
  | 0x31, 3 => req z (.xwp la d ua)
  | 0x32, 0 => req (z && none') (.qfence ua) | 0x32, 1 => req (z && none' && decide (ua ≤ 5)) (.drain ua)
  | 0x33, 0 => req (xop == 0) (.mmaAcc la d ua mode) | 0x33, 1 => req (xop == 0) (.mmaZero la d ua mode)
  | 0x33, 2 => req (xop == 0) (.mout la d ua mode) | 0x33, 3 => req (xop == 0 && none') (.mclear ua mode)
  | 0x34, 0 => req (z && none') (.mwait ua) | 0x34, 1 => req z (.mtest la d ua) | 0x34, 2 => req z (.mcancel la d ua)
  | 0x35, 0 => req z (.qpush la d ua) | 0x35, 1 => req (z && none') (.qpop ua)
  | 0x35, 2 => req (z && la == 0) (.qpopLanes d ua) | 0x35, 3 => req z (.qstat la d ua)
  | 0x35, 4 => req (z && none') (.qclose ua)
  | _, _ => unas

/-- LNCH, REGDIV, WHARF, PFENCE (R156 to R159, R338). -/
def decFabric (maj la d ua xop xmin mode : Nat) : Decoded :=
  let z := xop == 0 && mode == 0
  let none' := la == 0 && d == 0
  match maj, xmin with
  | 0x36, 0 => req z (.launch la d ua) | 0x36, 1 => req (z && none') (.lwait ua)
  | 0x37, 0 => req (z && none' && decide (1 ≤ ua) && decide (ua ≤ 15)) (.rgive ua)
  | 0x37, 1 => req (z && none' && decide (1 ≤ ua) && decide (ua ≤ 15)) (.rclaim ua)
  | 0x38, 0 => req z (.wsend la d ua) | 0x38, 1 => req z (.wpost la d ua) | 0x38, 2 => req z (.wprobe la d ua)
  | 0x38, 3 => req z (.wcancel la d ua) | 0x38, 4 => req z (.wtest la d ua)
  | 0x39, 0 => req (z && none' && ua == 0) .fencePodRel | 0x39, 1 => req (z && none' && ua == 0) .fencePodAcq
  | 0x39, 2 => req (z && none' && ua == 0) .fencePod
  | _, _ => unas

/-- The special-register indices that R291 lists. -/
def sregListed (i : Nat) : Bool := decide (i ≤ 26) || (decide (32 ≤ i) && decide (i ≤ 35))

/-- SYS, FRAG, MMU (R290). -/
def decSys (maj la d ua xop xmin mode : Nat) : Decoded :=
  let z := xop == 0 && mode == 0
  let none' := la == 0 && d == 0
  match maj, xmin with
  | 0x3C, 0 => req (z && none') (.trap ua) | 0x3C, 1 => req (z && none' && ua == 0) .sret
  | 0x3C, 2 => req (xop == 0 && decide (mode < 2) && sregListed ua) (.srd la d ua (mode == 1))
  | 0x3C, 3 => req (xop == 0 && decide (mode < 2) && la == 0 && sregListed ua) (.swr d ua (mode == 1))
  | 0x3C, 4 => req (z && none') (.sleep ua) | 0x3C, 5 => req (z && none') (.wake ua)
  | 0x3D, 0 => req z (.fstat la d ua) | 0x3D, 1 => req (z && none') (.fresume ua) | 0x3D, 2 => req (z && none') (.fkill ua)
  | 0x3E, 0 => req (z && none') (.tlbinv ua) | 0x3E, 1 => req (z && none') (.lres ua)
  | 0x3E, 2 => req (z && none') (.wsopen ua) | 0x3E, 3 => req (z && none') (.wsclose ua)
  | _, _ => unas

/-- The majors of format X (R35). In HRND and XCOPY bits [7:2] are UB. -/
def decX (maj w : Nat) : Decoded :=
  let la := fld w 21 4; let d := fld w 14 7; let ua := fld w 8 6
  let xop := fld w 6 2; let xmin := fld w 2 4; let mode := fld w 0 2; let ub := fld w 2 6
  match maj with
  | 0x17 => req (mode == 0) (.hrnd la d ua ub)
  | 0x18 => decXlane la d ua xop xmin mode
  | 0x30 => req (mode == 0) (.xcopy la d ua ub)
  | 0x31 | 0x32 | 0x33 | 0x34 | 0x35 => decEngine maj la d ua xop xmin mode
  | 0x36 | 0x37 | 0x38 | 0x39 => decFabric maj la d ua xop xmin mode
  | 0x3C | 0x3D | 0x3E => decSys maj la d ua xop xmin mode
  | _ => unas

/-- The majors of format B (R32). -/
def decB (maj w : Nat) : Decoded :=
  let p := fld w 22 3; let pol := fld w 20 2; let off := fld w 0 20
  match maj, pol with
  | 0x1C, 0 => .ok (.br p off) | 0x1C, 1 => .ok (.call p off)
  | 0x1D, 0 => .ok (.bvSplit p off) | 0x1D, 1 => .ok (.bvAny p off) | 0x1D, 2 => .ok (.bvAll p off)
  | 0x1D, 3 => .ok (.bvUni p off) | _, _ => unas

/-- REP (R18): bits [9:0] zero, and no stride code for a field that MASK does not step (R19, check 2). -/
def decRep (w : Nat) : Decoded :=
  let mask := fld w 16 3; let sd := fld w 14 2; let sa := fld w 12 2; let sb := fld w 10 2
  req (fld w 0 10 == 0 && (mask / 4 == 1 || sd == 0) && (mask / 2 % 2 == 1 || sa == 0) && (mask % 2 == 1 || sb == 0))
    (.rep (fld w 19 6) mask sd sa sb)

/-- What a word is (R29, R37): the major alone fixes the format. -/
def decodeWord (w : Nat) : Decoded :=
  let maj := fld w 25 6
  match maj with
  | 0x00 | 0x01 | 0x02 | 0x08 | 0x09 | 0x0A | 0x0B | 0x0C | 0x0F | 0x10 | 0x11 | 0x12 | 0x13 | 0x14 | 0x1E => decA maj w
  | 0x03 | 0x04 | 0x05 | 0x0D | 0x0E | 0x1F => decIL maj w
  | 0x15 | 0x16 => decU maj w
  | 0x1C | 0x1D => decB maj w
  | 0x20 | 0x21 | 0x22 | 0x23 | 0x24 | 0x25 | 0x26 | 0x27 | 0x28 | 0x29 | 0x2A | 0x2B | 0x2C => decM maj w
  | 0x17 | 0x18 | 0x30 | 0x31 | 0x32 | 0x33 | 0x34 | 0x35 | 0x36 | 0x37 | 0x38 | 0x39 | 0x3C | 0x3D | 0x3E => decX maj w
  | 0x3F => decRep w
  | _ => unas

/-- The chain bit C (R11). -/
def chained (w : Nat) : Bool := bitB w 31

/-- Four bytes, lowest address first, as a word (R2). -/
def wordOfBytes : List Byte → Nat
  | [] => 0
  | b :: bs => b.toNat + 256 * wordOfBytes bs

/-- A value as `n` bytes, lowest address first (R2). -/
def bytesOfNat : Nat → Nat → List Byte
  | 0, _ => []
  | n + 1, w => BitVec.ofNat 8 w :: bytesOfNat n (w / 256)

/-- The decoder over bytes as they stand in memory: the first instruction, or the class it is rejected with. Fewer
than four bytes are no word. -/
def decodeBytes (bs : List Byte) : Decoded :=
  if bs.length < 4 then .error .fetch else decodeWord (wordOfBytes (bs.take 4))

/-- The instruction the decoder reads from a table row's bits, laid out as code stores them. -/
def decodeTableWord (nbits w : Nat) : Option Instr :=
  match decodeBytes (bytesOfNat 4 (w % 2 ^ nbits)) with
  | .ok i => some i
  | .error _ => none

/-! ### Encoding, from the same tables (R25, R29 to R35). An event has no word. -/

/-- The word of an instruction with C = 0, none for an event. -/
def encode : Instr → Option Nat
  | .sadd d a b => some (fmtA 0x0 0 d a b)
  | .ssub d a b => some (fmtA 0x0 1 d a b)
  | .smul d a b => some (fmtA 0x0 2 d a b)
  | .smulh d a b => some (fmtA 0x0 3 d a b)
  | .smulhu d a b => some (fmtA 0x0 4 d a b)
  | .sand d a b => some (fmtA 0x0 5 d a b)
  | .sor d a b => some (fmtA 0x0 6 d a b)
  | .sxor d a b => some (fmtA 0x0 7 d a b)
  | .sshl d a b => some (fmtA 0x0 8 d a b)
  | .sshr d a b => some (fmtA 0x0 9 d a b)
  | .ssra d a b => some (fmtA 0x0 10 d a b)
  | .smin d a b => some (fmtA 0x0 11 d a b)
  | .smax d a b => some (fmtA 0x0 12 d a b)
  | .sminu d a b => some (fmtA 0x0 13 d a b)
  | .smaxu d a b => some (fmtA 0x0 14 d a b)
  | .smov d a b => some (fmtA 0x0 15 d a b)
  | .sclz d a b => some (fmtA 0x1 0 d a b)
  | .spopc d a b => some (fmtA 0x1 1 d a b)
  | .sbrev d a b => some (fmtA 0x1 2 d a b)
  | .sext d a b => some (fmtA 0x1 3 d a b)
  | .sins d a b => some (fmtA 0x1 4 d a b)
  | .ssel d a b => some (fmtA 0x1 5 d a b)
  | .scmp cc d a b => some (fmtA 0x2 (condCode cc) d a b)
  | .saddi d a imm => some (fmtI 0x3 d a imm)
  | .sli h d imm => some (fmtL 0x4 d (b1 h) imm)
  | .slik h d imm => some (fmtL 0x5 d (b1 h) imm)
  | .vadd u d a b => some (fmtA 0x8 (0 + 8 * b1 u) d a b)
  | .vsub u d a b => some (fmtA 0x8 (1 + 8 * b1 u) d a b)
  | .vmul u d a b => some (fmtA 0x8 (2 + 8 * b1 u) d a b)
  | .vmulh u d a b => some (fmtA 0x8 (3 + 8 * b1 u) d a b)
  | .vmulhu u d a b => some (fmtA 0x8 (4 + 8 * b1 u) d a b)
  | .vand u d a b => some (fmtA 0x8 (5 + 8 * b1 u) d a b)
  | .vor u d a b => some (fmtA 0x8 (6 + 8 * b1 u) d a b)
  | .vxor u d a b => some (fmtA 0x8 (7 + 8 * b1 u) d a b)
  | .vshl u d a b => some (fmtA 0x9 (0 + 8 * b1 u) d a b)
  | .vshr u d a b => some (fmtA 0x9 (1 + 8 * b1 u) d a b)
  | .vsra u d a b => some (fmtA 0x9 (2 + 8 * b1 u) d a b)
  | .vmin u d a b => some (fmtA 0x9 (3 + 8 * b1 u) d a b)
  | .vmax u d a b => some (fmtA 0x9 (4 + 8 * b1 u) d a b)
  | .vminu u d a b => some (fmtA 0x9 (5 + 8 * b1 u) d a b)
  | .vmaxu u d a b => some (fmtA 0x9 (6 + 8 * b1 u) d a b)
  | .vaddmin u d a b => some (fmtA 0x9 (7 + 8 * b1 u) d a b)
  | .vmad u d a b => some (fmtA 0xa (0 + 8 * b1 u) d a b)
  | .vaddsat u d a b => some (fmtA 0xa (1 + 8 * b1 u) d a b)
  | .vsubsat u d a b => some (fmtA 0xa (2 + 8 * b1 u) d a b)
  | .vabsdiff u d a b => some (fmtA 0xa (3 + 8 * b1 u) d a b)
  | .vext u d a b => some (fmtA 0xa (4 + 8 * b1 u) d a b)
  | .vins u d a b => some (fmtA 0xa (5 + 8 * b1 u) d a b)
  | .vmorton u d a b => some (fmtA 0xa (6 + 8 * b1 u) d a b)
  | .vcellh u d a b => some (fmtA 0xa (7 + 8 * b1 u) d a b)
  | .vnot d a => some (fmtA 0xb 0 d a 0)
  | .vneg d a => some (fmtA 0xb 1 d a 0)
  | .vabs d a => some (fmtA 0xb 2 d a 0)
  | .vclz d a => some (fmtA 0xb 3 d a 0)
  | .vpopc d a => some (fmtA 0xb 4 d a 0)
  | .vbrev d a => some (fmtA 0xb 5 d a 0)
  | .vmov d a => some (fmtA 0xb 6 d a 0)
  | .vbcastS d a => some (fmtA 0xb 7 d a 0)
  | .vcmp cc d a b => some (fmtA 0xc (condCode cc) d a b)
  | .vaddi d a imm => some (fmtI 0xd d a imm)
  | .vli h d imm => some (fmtL 0xe d (b1 h) imm)
  | .vsel u n d a b => some (fmtA 0xf (n + 8 * b1 u) d a b)
  | .pand d a b => some (fmtA 0x10 0 d a b)
  | .por d a b => some (fmtA 0x10 1 d a b)
  | .pxor d a b => some (fmtA 0x10 2 d a b)
  | .pandn d a b => some (fmtA 0x10 3 d a b)
  | .pnot d a => some (fmtA 0x10 4 d a 0)
  | .pmov d a => some (fmtA 0x10 5 d a 0)
  | .vfadd u d a b => some (fmtA 0x11 (0 + 8 * b1 u) d a b)
  | .vfsub u d a b => some (fmtA 0x11 (1 + 8 * b1 u) d a b)
  | .vfmul u d a b => some (fmtA 0x11 (2 + 8 * b1 u) d a b)
  | .vffma u d a b => some (fmtA 0x11 (3 + 8 * b1 u) d a b)
  | .vfmin u d a b => some (fmtA 0x11 (4 + 8 * b1 u) d a b)
  | .vfmax u d a b => some (fmtA 0x11 (5 + 8 * b1 u) d a b)
  | .vfcpys u d a b => some (fmtA 0x11 (6 + 8 * b1 u) d a b)
  | .vfabsd u d a b => some (fmtA 0x11 (7 + 8 * b1 u) d a b)
  | .vdadd d a b => some (fmtA 0x12 0 d a b)
  | .vdsub d a b => some (fmtA 0x12 1 d a b)
  | .vdmul d a b => some (fmtA 0x12 2 d a b)
  | .vdfma d a b => some (fmtA 0x12 3 d a b)
  | .vdmin d a b => some (fmtA 0x12 4 d a b)
  | .vdmax d a b => some (fmtA 0x12 5 d a b)
  | .vhadd2 f d a b => some (fmtA 0x13 (0 + 4 * b1 f) d a b)
  | .vhsub2 f d a b => some (fmtA 0x13 (1 + 4 * b1 f) d a b)
  | .vhmul2 f d a b => some (fmtA 0x13 (2 + 4 * b1 f) d a b)
  | .vhfma2 f d a b => some (fmtA 0x13 (3 + 4 * b1 f) d a b)
  | .vfcmp cc d a b => some (fmtA 0x14 (fcondCode cc) d a b)
  | .vfcmpF64 cc d a b => some (fmtA 0x14 (fcondCode cc + 8) d a b)
  | .vcvtF32F64 d a sat rm => some (fmtU 0x15 0 d a 0 (4 * b1 sat + rm))
  | .vcvtF64F32 d a => some (fmtU 0x15 0 d a 1 0)
  | .vcvtF32I32 d a sat rm => some (fmtU 0x15 0 d a 2 (4 * b1 sat + rm))
  | .vcvtF32O32 d a sat rm => some (fmtU 0x15 0 d a 3 (4 * b1 sat + rm))
  | .vcvtI32F32 d a rm => some (fmtU 0x15 0 d a 4 (4 + rm))
  | .vcvtO32F32 d a rm => some (fmtU 0x15 0 d a 5 (4 + rm))
  | .vcvtF64I32 d a => some (fmtU 0x15 0 d a 6 0)
  | .vcvtI32F64 d a rm => some (fmtU 0x15 0 d a 7 (4 + rm))
  | .vcvtF19F32 d a sat rm => some (fmtU 0x15 0 d a 8 (4 * b1 sat + rm))
  | .vcvtBf16x2F32 d a sat rm => some (fmtU 0x15 0 d a 9 (4 * b1 sat + rm))
  | .vcvtF16x2F32 d a sat rm => some (fmtU 0x15 0 d a 10 (4 * b1 sat + rm))
  | .vcvtF32x2F16x2 d a => some (fmtU 0x15 0 d a 11 0)
  | .vcvtE4m3x4F32 d a sat rm => some (fmtU 0x15 0 d a 12 (4 * b1 sat + rm))
  | .vcvtE5m2x4F32 d a sat rm => some (fmtU 0x15 0 d a 13 (4 * b1 sat + rm))
  | .vcvtI16x2F32 d a rm => some (fmtU 0x15 0 d a 14 (4 + rm))
  | .vcvtO8x4F32 d a rm => some (fmtU 0x15 0 d a 15 (4 + rm))
  | .vfrcp la d a => some (fmtU 0x16 la d a 0 0)
  | .vfrsq la d a => some (fmtU 0x16 la d a 1 0)
  | .vfsqrt la d a => some (fmtU 0x16 la d a 2 0)
  | .vfexp2 la d a => some (fmtU 0x16 la d a 3 0)
  | .vflog2 la d a => some (fmtU 0x16 la d a 4 0)
  | .vfsin la d a => some (fmtU 0x16 la d a 5 0)
  | .vfcos la d a => some (fmtU 0x16 la d a 6 0)
  | .vftanh la d a => some (fmtU 0x16 la d a 7 0)
  | .hrnd la d ua ub => some (fmtX 0x17 la d ua 0 0 0 + ub * 2 ^ 2)
  | .vshflUp la d ua m => some (fmtX 0x18 la d ua 0 0 m)
  | .vshflDown la d ua m => some (fmtX 0x18 la d ua 0 1 m)
  | .vshflXor la d ua m => some (fmtX 0x18 la d ua 0 2 m)
  | .vshflIdx la d m => some (fmtX 0x18 la d 0 0 3 m)
  | .vbcast la d ua m => some (fmtX 0x18 la d ua 0 4 m)
  | .vvoteAny la d ua m => some (fmtX 0x18 la d ua 0 5 m)
  | .vvoteAll la d ua m => some (fmtX 0x18 la d ua 0 6 m)
  | .vballot la d ua m => some (fmtX 0x18 la d ua 0 7 m)
  | .vredStep la d ua op m => some (fmtX 0x18 la d ua (stepCode op) 8 m)
  | .vscanStep la d ua op m => some (fmtX 0x18 la d ua (stepCode op) 9 m)
  | .br p off => some (fmtB 0x1c p 0 off)
  | .call p off => some (fmtB 0x1c p 1 off)
  | .bvSplit p off => some (fmtB 0x1d p 0 off)
  | .bvAny p off => some (fmtB 0x1d p 1 off)
  | .bvAll p off => some (fmtB 0x1d p 2 off)
  | .bvUni p off => some (fmtB 0x1d p 3 off)
  | .ret a => some (fmtA 0x1e 0 0 a 0)
  | .brx a => some (fmtA 0x1e 1 0 a 0)
  | .exit => some (fmtA 0x1e 2 0 0 0)
  | .nop => some (fmtA 0x1e 3 0 0 0)
  | .yieldL => some (fmtA 0x1e 4 0 0 0)
  | .bar n => some (fmtA 0x1e 5 0 0 n)
  | .barq n => some (fmtA 0x1e 6 0 0 n)
  | .safe n => some (fmtL 0x1f 0 0 n)
  | .ld la d a v sx poll sz => some (fmtM 0x20 la d a (b1 v) (b1 sx) (b1 poll) (sizeCode sz))
  | .st la d a v sz => some (fmtM 0x21 la d a (b1 v) 0 0 (sizeCode sz))
  | .ldt la d a v sz hs => some (fmtM 0x22 la d a (b1 v) (sizeCode sz / 2) (sizeCode sz % 2) hs)
  | .stt la d a v sz hs => some (fmtM 0x23 la d a (b1 v) (sizeCode sz / 2) (sizeCode sz % 2) hs)
  | .lds la d a v sx sz => some (fmtM 0x24 la d a (b1 v) (b1 sx) 0 (sizeCode sz))
  | .sts la d a v sz => some (fmtM 0x25 la d a (b1 v) 0 0 (sizeCode sz))
  | .ldw la d a v sx sz => some (fmtM 0x26 la d a (b1 v) (b1 sx) 0 (sizeCode sz))
  | .atom la d a v dbl op => some (fmtM 0x27 la d a (b1 v) 0 (b1 dbl) (atomCode op))
  | .atomf la d a v op => some (fmtM 0x28 la d a (b1 v) 0 0 (atomfCode op))
  | .cas la d a v dbl => some (fmtM 0x29 la d a (b1 v) 0 (b1 dbl) 0)
  | .satom la d a v dbl op => some (fmtM 0x2a la d a (b1 v) 0 (b1 dbl) (atomCode op))
  | .satomCas la d a v dbl => some (fmtM 0x2a la d a (b1 v) 0 (b1 dbl) 9)
  | .prefetch a v => some (fmtM 0x2b 0 0 a (b1 v) 0 0 0)
  | .discard a v => some (fmtM 0x2b 0 0 a (b1 v) 0 0 1)
  | .writeback a v => some (fmtM 0x2b 0 0 a (b1 v) 0 0 2)
  | .tdesc la d a => some (fmtM 0x2b la d a 0 0 0 3)
  | .binit la d a sp => some (fmtM 0x2c la d a 0 (b1 sp) 0 0)
  | .barrive la d a sp => some (fmtM 0x2c la d a 0 (b1 sp) 0 1)
  | .bwait la d a sp => some (fmtM 0x2c la d a 0 (b1 sp) 0 2)
  | .bquery la d a sp => some (fmtM 0x2c la d a 0 (b1 sp) 0 3)
  | .xcopy la d ua ub => some (fmtX 0x30 la d ua 0 0 0 + ub * 2 ^ 2)
  | .cpoll la d ua => some (fmtX 0x31 la d ua 0 0 0)
  | .csleep la d ua => some (fmtX 0x31 la d ua 0 1 0)
  | .cpop la d ua => some (fmtX 0x31 la d ua 0 2 0)
  | .xwp la d ua => some (fmtX 0x31 la d ua 0 3 0)
  | .qfence ua => some (fmtX 0x32 0 0 ua 0 0 0)
  | .drain scope => some (fmtX 0x32 0 0 scope 0 1 0)
  | .mmaAcc la d ua k => some (fmtX 0x33 la d ua 0 0 k)
  | .mmaZero la d ua k => some (fmtX 0x33 la d ua 0 1 k)
  | .mout la d ua k => some (fmtX 0x33 la d ua 0 2 k)
  | .mclear ua k => some (fmtX 0x33 0 0 ua 0 3 k)
  | .mwait ua => some (fmtX 0x34 0 0 ua 0 0 0)
  | .mtest la d ua => some (fmtX 0x34 la d ua 0 1 0)
  | .mcancel la d ua => some (fmtX 0x34 la d ua 0 2 0)
  | .qpush la d ua => some (fmtX 0x35 la d ua 0 0 0)
  | .qpop ua => some (fmtX 0x35 0 0 ua 0 1 0)
  | .qpopLanes d ua => some (fmtX 0x35 0 d ua 0 2 0)
  | .qstat la d ua => some (fmtX 0x35 la d ua 0 3 0)
  | .qclose ua => some (fmtX 0x35 0 0 ua 0 4 0)
  | .launch la d ua => some (fmtX 0x36 la d ua 0 0 0)
  | .lwait ua => some (fmtX 0x36 0 0 ua 0 1 0)
  | .rgive n => some (fmtX 0x37 0 0 n 0 0 0)
  | .rclaim n => some (fmtX 0x37 0 0 n 0 1 0)
  | .wsend la d ua => some (fmtX 0x38 la d ua 0 0 0)
  | .wpost la d ua => some (fmtX 0x38 la d ua 0 1 0)
  | .wprobe la d ua => some (fmtX 0x38 la d ua 0 2 0)
  | .wcancel la d ua => some (fmtX 0x38 la d ua 0 3 0)
  | .wtest la d ua => some (fmtX 0x38 la d ua 0 4 0)
  | .fencePodRel => some (fmtX 0x39 0 0 0 0 0 0)
  | .fencePodAcq => some (fmtX 0x39 0 0 0 0 1 0)
  | .fencePod => some (fmtX 0x39 0 0 0 0 2 0)
  | .trap n => some (fmtX 0x3c 0 0 n 0 0 0)
  | .sret => some (fmtX 0x3c 0 0 0 0 1 0)
  | .srd la d idx v => some (fmtX 0x3c la d idx 0 2 (b1 v))
  | .swr d idx v => some (fmtX 0x3c 0 d idx 0 3 (b1 v))
  | .sleep ua => some (fmtX 0x3c 0 0 ua 0 4 0)
  | .wake ua => some (fmtX 0x3c 0 0 ua 0 5 0)
  | .fstat la d ua => some (fmtX 0x3d la d ua 0 0 0)
  | .fresume ua => some (fmtX 0x3d 0 0 ua 0 1 0)
  | .fkill ua => some (fmtX 0x3d 0 0 ua 0 2 0)
  | .tlbinv ua => some (fmtX 0x3e 0 0 ua 0 0 0)
  | .lres ua => some (fmtX 0x3e 0 0 ua 0 1 0)
  | .wsopen ua => some (fmtX 0x3e 0 0 ua 0 2 0)
  | .wsclose ua => some (fmtX 0x3e 0 0 ua 0 3 0)
  | .rep count mask sd sa sb => some (0x3f * 2 ^ 25 + count * 2 ^ 19 + mask * 2 ^ 16 + sd * 2 ^ 14 + sa * 2 ^ 12 + sb * 2 ^ 10)
  | .repeatIssue | .illegalWord .. | .fetchFault | .resultArrives .. | .storePerformed .. | .atomicPerformed ..
  | .leaseExpiry .. | .wsRefreshWindow .. | .issueAgePromotion .. | .sleepExpiry .. | .lqTailWrite ..
  | .launchAccept .. | .launchWalkStart .. | .tillerEvaluateReach .. | .tillerPush .. | .launchDone ..
  | .labortWrite .. | .sluicePlaceCrew .. | .saveBundleLimit .. | .crewSave .. | .crewRestore ..
  | .timeSliceEnd | .bteChunk .. | .bteCompletion .. | .qmeGrant .. | .qmeCompletion .. | .qmeEntryAging ..
  | .workqRequestServed .. | .refillArrival .. | .stealEntriesArrive .. | .faultRecordWrite ..
  | .pageWalkComplete .. | .hostWrite .. | .hostRead .. | .s1rootWrite .. | .faultRingConfigWrite ..
  | .fresumeWrite .. | .fkillWrite .. | .svcstartWrite .. | .vfEnableWrite .. | .vfQuadsChange ..
  | .drainFinish .. | .drainSave .. | .dieDrainComplete .. | .reset .. | .dieResetComplete .. | .return_ ..
  | .dieAuthenticated .. | .deviceReset .. | .linkStateChange .. | .peerPathTimeout .. | .rdreq .. | .wrreq ..
  | .atomreq .. | .resp .. | .inval .. | .invack .. | .frel .. | .fack .. | .whdr .. | .wpull .. | .wdone ..
  | .wharfLandingComplete .. | .dataFlit .. | .lack .. | .lnak .. | .invalidFlit .. | .token .. | .tokenPass
  | .tokenTimeout | .sense | .logread | .stage .. | .activate | .towpathRestartComplete .. | .slots
  | .reprovision .. | .alarmLevel1 .. | .alarmL1Clear .. | .alarmLevel2 | .registerWrite ..
  | .migrationServiceMove .. | .dieFailsInService .. => none

end Sys2Proof
end

