-- ==== Sys2Proof/Machine/Operands.lean ====
section
/-! DEFINITION. The register operands of every word (R30 to R35): which registers it reads and writes, their ranges
(R8, R26), the lookahead field and its target (R16, R27), the pipe (R12) and the steppable fields (R19). -/

namespace Sys2Proof.Machine

/-- A register operand: `n` registers from `num`, read, written, and whether it is the target of R16. -/
structure Field where
  kind : RKind
  num : Nat
  n : Nat
  rd : Bool
  wr : Bool
  tgt : Bool
  deriving DecidableEq, Repr

/-- Uniform operand read, and written. -/
def us (r : Nat) (n : Nat := 1) : Field := ⟨.s, r, n, true, false, false⟩
def uw (r : Nat) (n : Nat := 1) : Field := ⟨.s, r, n, false, true, false⟩
/-- Vector operand read, written, and both. -/
def vs (r : Nat) (n : Nat := 1) : Field := ⟨.v, r, n, true, false, false⟩
def vw (r : Nat) (n : Nat := 1) : Field := ⟨.v, r, n, false, true, false⟩
def vx (r : Nat) (n : Nat := 1) : Field := ⟨.v, r, n, true, true, false⟩
/-- Predicate operand read and written. -/
def ps (r : Nat) : Field := ⟨.p, r, 1, true, false, false⟩
def pw (r : Nat) : Field := ⟨.p, r, 1, false, true, false⟩
/-- The same operand as the target of R16. -/
def Field.t (f : Field) : Field := { f with tgt := true }

/-- The B operand of a major marked A+u (R60). -/
def bop (u : Bool) (b : Nat) (n : Nat := 1) : Field := if u then us b else vs b n
/-- The address register of format M (R34). -/
def aop (v : Bool) (a : Nat) : Field := if v then vs a else us a
/-- Registers of an access size (R79). -/
def Size.regs : Size → Nat
  | .d => 2 | .q => 4 | _ => 1
/-- Bytes of an access size (R79). -/
def Size.bytes : Size → Nat
  | .b => 1 | .h => 2 | .w => 4 | .d => 8 | .q => 16
/-- Registers of an atomic's data field (R34): CAS has twice as many. -/
def dreg (dbl : Bool) : Nat := if dbl then 2 else 1

/-- The register operands of a word; an event has none. -/
def fields : Instr → List Field
  | .sadd d a b | .ssub d a b | .smul d a b | .smulh d a b | .smulhu d a b | .sand d a b | .sor d a b | .sxor d a b
  | .sshl d a b | .sshr d a b | .ssra d a b | .smin d a b | .smax d a b | .sminu d a b | .smaxu d a b
  | .sext d a b => [uw d, us a, us b]
  | .smov d a b | .sclz d a b | .spopc d a b | .sbrev d a b => [uw d, us a, ⟨.s, b, 1, false, false, false⟩]
  | .sins d a b | .ssel d a b => [⟨.s, d, 1, true, true, false⟩, us a, us b]
  | .scmp _ d a b => [pw d, us a, us b]
  | .saddi d a _ => [uw d, us a]
  | .sli _ d _ => [uw d]
  | .slik _ d _ => [⟨.s, d, 1, true, true, false⟩]
  | .vadd u d a b | .vsub u d a b | .vmul u d a b | .vmulh u d a b | .vmulhu u d a b | .vand u d a b | .vor u d a b
  | .vxor u d a b | .vshl u d a b | .vshr u d a b | .vsra u d a b | .vmin u d a b | .vmax u d a b | .vminu u d a b
  | .vmaxu u d a b | .vaddmin u d a b | .vaddsat u d a b | .vsubsat u d a b | .vabsdiff u d a b | .vext u d a b
  | .vmorton u d a b | .vcellh u d a b | .vfadd u d a b | .vfsub u d a b | .vfmul u d a b | .vfmin u d a b
  | .vfmax u d a b | .vfcpys u d a b | .vfabsd u d a b => [vw d, vs a, bop u b]
  | .vmad u d a b | .vins u d a b | .vffma u d a b => [vx d, vs a, bop u b]
  | .vnot d a | .vneg d a | .vabs d a | .vclz d a | .vpopc d a | .vbrev d a | .vmov d a => [vw d, vs a]
  | .vbcastS d a => [vw d, us a]
  | .vcmp _ d a b => [pw d, vs a, vs b]
  | .vaddi d a _ => [vw d, vs a]
  | .vli _ d _ => [vw d]
  | .vsel u n d a b => [vw d, vs a, bop u b, ps n]
  | .pand d a b | .por d a b | .pxor d a b | .pandn d a b => [pw d, ps a, ps b]
  | .pnot d a | .pmov d a => [pw d, ps a]
  | .vdadd d a b | .vdsub d a b | .vdmul d a b | .vdmin d a b | .vdmax d a b => [vw d 2, vs a 2, vs b 2]
  | .vdfma d a b => [vx d 2, vs a 2, vs b 2]
  | .vhadd2 _ d a b | .vhsub2 _ d a b | .vhmul2 _ d a b => [vw d, vs a, vs b]
  | .vhfma2 _ d a b => [vx d, vs a, vs b]
  | .vfcmp _ d a b => [pw d, vs a, vs b]
  | .vfcmpF64 _ d a b => [pw d, vs a 2, vs b 2]
  | .vcvtF32F64 d a _ _ | .vcvtI32F64 d a _ | .vcvtBf16x2F32 d a _ _ | .vcvtF16x2F32 d a _ _
  | .vcvtI16x2F32 d a _ => [vw d, vs a 2]
  | .vcvtF64F32 d a | .vcvtF64I32 d a | .vcvtF32x2F16x2 d a => [vw d 2, vs a]
  | .vcvtF32I32 d a _ _ | .vcvtF32O32 d a _ _ | .vcvtI32F32 d a _ | .vcvtO32F32 d a _
  | .vcvtF19F32 d a _ _ => [vw d, vs a]
  | .vcvtE4m3x4F32 d a _ _ | .vcvtE5m2x4F32 d a _ _ | .vcvtO8x4F32 d a _ => [vw d, vs a 4]
  | .vfrcp _ d a | .vfrsq _ d a | .vfsqrt _ d a | .vfexp2 _ d a | .vflog2 _ d a | .vfsin _ d a | .vfcos _ d a
  | .vftanh _ d a => [(vw d).t, vs a]
  | .hrnd _ d ua ub => [(vx d 2).t, us ua 2, us ub]
  | .vshflUp _ d ua m | .vshflDown _ d ua m | .vshflXor _ d ua m | .vbcast _ d ua m | .vredStep _ d ua _ m
  | .vscanStep _ d ua _ m => [(vx d).t, us ua, ps m]
  | .vshflIdx _ d m => [(vx d 2).t, ps m]
  | .vvoteAny _ d p m | .vvoteAll _ d p m => [(pw d).t, ps p, ps m]
  | .vballot _ d p m => [(uw d 2).t, ps p, ps m]
  | .br p _ => [ps p]
  | .call p _ => [ps p, uw 63]
  | .bvSplit p _ | .bvAny p _ | .bvAll p _ | .bvUni p _ => [ps p]
  | .ret a | .brx a => [us a]
  | .ld _ d a v _ _ sz | .lds _ d a v _ sz | .ldw _ d a v _ sz => [(vw d (Size.regs sz)).t, aop v a]
  | .st _ d a v sz | .sts _ d a v sz => [(vs d (Size.regs sz)).t, aop v a]
  | .ldt _ d a v sz hs => [(vw d (Size.regs sz)).t, aop v a, us hs]
  | .stt _ d a v sz hs => [(vs d (Size.regs sz)).t, aop v a, us hs]
  | .atom _ d a v dbl _ | .satom _ d a v dbl _ => [(vx d (dreg dbl)).t, aop v a]
  | .atomf _ d a v _ => [(vx d).t, aop v a]
  | .cas _ d a v dbl | .satomCas _ d a v dbl => [(vx d (2 * dreg dbl)).t, aop v a]
  | .prefetch a v | .discard a v | .writeback a v => [⟨.v, 0, 1, false, false, false⟩, aop v a]
  | .tdesc _ d a => [(vw d).t, us a]
  | .binit _ d a _ | .barrive _ d a _ | .bwait _ d a _ => [(vx d).t, us a]
  | .bquery _ d a _ => [(vw d).t, us a]
  | .xcopy _ d ua ub => [(uw d).t, us ua, us ub]
  | .cpoll _ d ua | .csleep _ d ua | .xwp _ d ua => [(uw d).t, us ua]
  | .cpop _ d ua => [(uw d).t, us ua 2]
  | .qfence ua => [us ua]
  | .mmaAcc _ d ua _ | .mmaZero _ d ua _ | .mout _ d ua _ | .mtest _ d ua | .mcancel _ d ua => [(uw d).t, us ua]
  | .mclear ua _ | .mwait ua => [us ua]
  | .qpush _ d ua => [(uw d).t, us ua 2]
  | .qpop ua => [us ua 2]
  | .qpopLanes d ua => [vs d, us ua]
  | .qstat _ d ua => [(uw d).t, us ua]
  | .qclose ua => [us ua]
  | .launch _ d ua => [(uw d).t, us ua]
  | .lwait ua => [us ua]
  | .wsend _ d ua | .wpost _ d ua | .wprobe _ d ua | .wcancel _ d ua | .wtest _ d ua => [(uw d).t, us ua]
  | .srd _ d _ v => [(if v then vw d else uw d).t]
  | .swr d _ v => [if v then vs d else us d]
  | .sleep ua | .wake ua | .fresume ua | .fkill ua | .tlbinv ua | .lres ua | .wsopen ua | .wsclose ua => [us ua]
  | .fstat _ d ua => [(uw d).t, us ua 2]
  | _ => []

/-- The lookahead field of a word (R16, R27), 0 where the format has none. -/
def laOf : Instr → Nat
  | .vfrcp la _ _ | .vfrsq la _ _ | .vfsqrt la _ _ | .vfexp2 la _ _ | .vflog2 la _ _ | .vfsin la _ _ | .vfcos la _ _
  | .vftanh la _ _ | .hrnd la _ _ _ | .vshflUp la _ _ _ | .vshflDown la _ _ _ | .vshflXor la _ _ _ | .vshflIdx la _ _
  | .vbcast la _ _ _ | .vvoteAny la _ _ _ | .vvoteAll la _ _ _ | .vballot la _ _ _ | .vredStep la _ _ _ _
  | .vscanStep la _ _ _ _ | .ld la _ _ _ _ _ _ | .st la _ _ _ _ | .ldt la _ _ _ _ _ | .stt la _ _ _ _ _
  | .lds la _ _ _ _ _ | .sts la _ _ _ _ | .ldw la _ _ _ _ _ | .atom la _ _ _ _ _ | .atomf la _ _ _ _
  | .cas la _ _ _ _ | .satom la _ _ _ _ _ | .satomCas la _ _ _ _ | .tdesc la _ _ | .binit la _ _ _
  | .barrive la _ _ _ | .bwait la _ _ _ | .bquery la _ _ _ | .xcopy la _ _ _ | .cpoll la _ _ | .csleep la _ _
  | .cpop la _ _ | .xwp la _ _ | .mmaAcc la _ _ _ | .mmaZero la _ _ _ | .mout la _ _ _ | .mtest la _ _ | .mcancel la _ _
  | .qpush la _ _ | .qstat la _ _ | .launch la _ _ | .wsend la _ _ | .wpost la _ _ | .wprobe la _ _ | .wcancel la _ _
  | .wtest la _ _ | .srd la _ _ _ | .fstat la _ _ => la
  | _ => 0

/-- The target of R16, if the word has one. -/
def targetOf (i : Instr) : Option Target :=
  match (fields i).find? (·.tgt) with
  | some f => some ⟨f.kind, f.num, f.n⟩
  | none => none

/-- R8 and R26: one register field against its kind and the window. -/
def Field.bad (window : Nat) (f : Field) : Bool :=
  f.num % f.n != 0 ||
    match f.kind with
    | .s => decide (64 < f.num + f.n)
    | .v => decide (window < f.num + f.n)
    | .p => decide (7 < f.num)

/-- R8: some register of the word is out of range. -/
def regrange (window : Nat) (i : Instr) : Bool := (fields i).any (Field.bad window)

/-- Two spans of one kind share a register that is not `s0` or `p0` (R11, R16). -/
def overlap (k k' : RKind) (a n a' n' : Nat) : Bool :=
  decide (k = k') &&
    let lo := max (max a a') (if k = .v then 0 else 1)
    decide (lo < min (a + n) (a' + n'))

/-- The word reads or writes a register of the target (R16). -/
def touches (t : Target) (i : Instr) : Bool :=
  (fields i).any fun f => (f.rd || f.wr) && overlap t.kind f.kind t.num t.n f.num f.n

/-- What a word writes, as R11 counts it. `vshfl.idx` and `hrnd` write only D of their pair, CAS only its first half
(R99, R148, R191). -/
def writesOf (i : Instr) : List (RKind × Nat × Nat) :=
  match i with
  | .hrnd _ d _ _ => [(.v, d, 1)]
  | .vshflIdx _ d _ => [(.v, d, 1)]
  | .cas _ d _ _ dbl | .satomCas _ d _ _ dbl => [(.v, d, dreg dbl)]
  | _ => (fields i).filterMap fun f => if f.wr then some (f.kind, f.num, f.n) else none

/-- The special registers a word writes, by index of R291: `%vote` (R151), `swr`'s own, and those of a trap. -/
def specialWrites : Instr → List Nat
  | .vshflUp .. | .vshflDown .. | .vshflXor .. | .vshflIdx .. | .vbcast .. | .vvoteAny .. | .vvoteAll .. | .vballot ..
  | .vredStep .. | .vscanStep .. | .bvSplit .. | .bvAny .. | .bvAll .. | .bvUni .. => [17]
  | .swr _ idx _ => [idx]
  | _ => []

/-- R11, last point: both words write one register. -/
def conflict (i j : Instr) : Bool :=
  (writesOf i).any (fun f => (writesOf j).any fun g => overlap f.1 g.1 f.2.1 f.2.2 g.2.1 g.2.2) ||
  (specialWrites i).any (fun x => (specialWrites j).contains x)

/-- The pipes of R12. -/
inductive Pipe where
  | s | v | x | m | none
  deriving DecidableEq, Repr

/-- The major of an instruction's word (R29); an event has none. -/
def majorOf : Instr → Nat
  | .sadd .. | .ssub .. | .smul .. | .smulh .. | .smulhu .. | .sand .. | .sor .. | .sxor .. | .sshl ..
  | .sshr .. | .ssra .. | .smin .. | .smax .. | .sminu .. | .smaxu .. | .smov .. => 0x00
  | .sclz .. | .spopc .. | .sbrev .. | .sext .. | .sins .. | .ssel .. => 0x01
  | .scmp .. => 0x02
  | .saddi .. => 0x03
  | .sli .. => 0x04
  | .slik .. => 0x05
  | .vadd .. | .vsub .. | .vmul .. | .vmulh .. | .vmulhu .. | .vand .. | .vor .. | .vxor .. => 0x08
  | .vshl .. | .vshr .. | .vsra .. | .vmin .. | .vmax .. | .vminu .. | .vmaxu .. | .vaddmin .. => 0x09
  | .vmad .. | .vaddsat .. | .vsubsat .. | .vabsdiff .. | .vext .. | .vins .. | .vmorton .. | .vcellh .. => 0x0A
  | .vnot .. | .vneg .. | .vabs .. | .vclz .. | .vpopc .. | .vbrev .. | .vmov .. | .vbcastS .. => 0x0B
  | .vcmp .. => 0x0C
  | .vaddi .. => 0x0D
  | .vli .. => 0x0E
  | .vsel .. => 0x0F
  | .pand .. | .por .. | .pxor .. | .pandn .. | .pnot .. | .pmov .. => 0x10
  | .vfadd .. | .vfsub .. | .vfmul .. | .vffma .. | .vfmin .. | .vfmax .. | .vfcpys .. | .vfabsd .. => 0x11
  | .vdadd .. | .vdsub .. | .vdmul .. | .vdfma .. | .vdmin .. | .vdmax .. => 0x12
  | .vhadd2 .. | .vhsub2 .. | .vhmul2 .. | .vhfma2 .. => 0x13
  | .vfcmp .. | .vfcmpF64 .. => 0x14
  | .vcvtF32F64 .. | .vcvtF64F32 .. | .vcvtF32I32 .. | .vcvtF32O32 .. | .vcvtI32F32 .. | .vcvtO32F32 ..
  | .vcvtF64I32 .. | .vcvtI32F64 .. | .vcvtF19F32 .. | .vcvtBf16x2F32 .. | .vcvtF16x2F32 ..
  | .vcvtF32x2F16x2 .. | .vcvtE4m3x4F32 .. | .vcvtE5m2x4F32 .. | .vcvtI16x2F32 .. | .vcvtO8x4F32 .. => 0x15
  | .vfrcp .. | .vfrsq .. | .vfsqrt .. | .vfexp2 .. | .vflog2 .. | .vfsin .. | .vfcos .. | .vftanh .. => 0x16
  | .hrnd .. => 0x17
  | .vshflUp .. | .vshflDown .. | .vshflXor .. | .vshflIdx .. | .vbcast .. | .vvoteAny .. | .vvoteAll ..
  | .vballot .. | .vredStep .. | .vscanStep .. => 0x18
  | .br .. | .call .. => 0x1C
  | .bvSplit .. | .bvAny .. | .bvAll .. | .bvUni .. => 0x1D
  | .ret .. | .brx .. | .exit | .nop | .yieldL | .bar .. | .barq .. => 0x1E
  | .safe .. => 0x1F
  | .ld .. => 0x20
  | .st .. => 0x21
  | .ldt .. => 0x22
  | .stt .. => 0x23
  | .lds .. => 0x24
  | .sts .. => 0x25
  | .ldw .. => 0x26
  | .atom .. => 0x27
  | .atomf .. => 0x28
  | .cas .. => 0x29
  | .satom .. | .satomCas .. => 0x2A
  | .prefetch .. | .discard .. | .writeback .. | .tdesc .. => 0x2B
  | .binit .. | .barrive .. | .bwait .. | .bquery .. => 0x2C
  | .xcopy .. => 0x30
  | .cpoll .. | .csleep .. | .cpop .. | .xwp .. => 0x31
  | .qfence .. | .drain .. => 0x32
  | .mmaAcc .. | .mmaZero .. | .mout .. | .mclear .. => 0x33
  | .mwait .. | .mtest .. | .mcancel .. => 0x34
  | .qpush .. | .qpop .. | .qpopLanes .. | .qstat .. | .qclose .. => 0x35
  | .launch .. | .lwait .. => 0x36
  | .rgive .. | .rclaim .. => 0x37
  | .wsend .. | .wpost .. | .wprobe .. | .wcancel .. | .wtest .. => 0x38
  | .fencePodRel | .fencePodAcq | .fencePod => 0x39
  | .trap .. | .sret | .srd .. | .swr .. | .sleep .. | .wake .. => 0x3C
  | .fstat .. | .fresume .. | .fkill .. => 0x3D
  | .tlbinv .. | .lres .. | .wsopen .. | .wsclose .. => 0x3E
  | .rep .. => 0x3F
  | .repeatIssue | .illegalWord .. | .fetchFault | .resultArrives .. | .storePerformed .. | .atomicPerformed ..
  | .leaseExpiry .. | .wsRefreshWindow .. | .issueAgePromotion .. | .sleepExpiry .. | .lqTailWrite ..
  | .launchAccept .. | .launchWalkStart .. | .tillerEvaluateReach .. | .tillerPush .. | .launchDone ..
  | .labortWrite .. | .sluicePlaceCrew .. | .saveBundleLimit .. | .crewSave .. | .crewRestore ..
  | .timeSliceEnd | .bteChunk .. | .bteCompletion .. | .qmeGrant .. | .qmeCompletion .. | .qmeEntryAging ..
  | .workqRequestServed .. | .refillArrival .. | .stealEntriesArrive .. | .faultRecordWrite ..
  | .pageWalkComplete .. | .hostWrite .. | .hostRead .. | .s1rootWrite .. | .faultRingConfigWrite ..
  | .fresumeWrite .. | .fkillWrite .. | .svcstartWrite .. | .vfEnableWrite .. | .vfQuadsChange ..
  | .drainFinish .. | .drainSave .. | .dieDrainComplete .. | .reset .. | .dieResetComplete .. | .return_ ..
  | .dieAuthenticated .. | .deviceReset .. | .linkStateChange .. | .peerPathTimeout .. | .rdreq .. | .wrreq ..
  | .atomreq .. | .resp .. | .inval .. | .invack .. | .frel .. | .fack .. | .whdr .. | .wpull .. | .wdone ..
  | .wharfLandingComplete .. | .dataFlit .. | .lack .. | .lnak .. | .invalidFlit .. | .token .. | .tokenPass
  | .tokenTimeout | .sense | .logread | .stage .. | .activate | .towpathRestartComplete .. | .slots
  | .reprovision .. | .alarmLevel1 .. | .alarmL1Clear .. | .alarmLevel2 | .registerWrite ..
  | .migrationServiceMove .. | .dieFailsInService .. => 0x40

/-- R12. -/
def pipeOf (i : Instr) : Pipe :=
  match i with
  | .vmorton .. | .vcellh .. => .x
  | _ =>
    let m := majorOf i
    if m ≤ 5 || (0x1C ≤ m && m ≤ 0x1F) || m == 0x36 || m == 0x37 || (0x3C ≤ m && m ≤ 0x3E) then .s
    else if 8 ≤ m && m ≤ 0x15 then .v
    else if 0x16 ≤ m && m ≤ 0x18 then .x
    else if (0x20 ≤ m && m ≤ 0x2C) || (0x30 ≤ m && m ≤ 0x35) || m == 0x38 || m == 0x39 then .m
    else .none

/-- Places of the steppable fields D, A, B of a major's format (R19): the lowest bit, none where the format has no
such field. R19 does not list format X: its D is that of R25, so stepping it passes check 2 and the word is not
repeatable (R147, R227). DEDUCED: log entry 78. -/
def stepFields (maj : Nat) : Option Nat × Option Nat × Option Nat :=
  if maj ≤ 2 || (8 ≤ maj && maj ≤ 0x0C) || (0x0F ≤ maj && maj ≤ 0x14) || maj == 0x1E then (some 14, some 7, some 0)
  else if maj == 3 || maj == 0x0D then (some 18, some 11, none)
  else if maj == 4 || maj == 5 || maj == 0x0E || maj == 0x1F then (some 18, none, none)
  else if maj == 0x15 || maj == 0x16 || (0x20 ≤ maj && maj ≤ 0x2C) then (some 14, some 7, none)
  else if maj == 0x17 || maj == 0x18 || (0x30 ≤ maj && maj ≤ 0x39) || (0x3C ≤ maj && maj ≤ 0x3E) then (some 14, none, none)
  else (none, none, none)

/-- Formats A, I, L, U and M but for CTL and SAFE (R19). -/
def repeatable (maj : Nat) : Bool :=
  (stepFields maj).1.isSome && (maj ≤ 0x16 || (0x20 ≤ maj && maj ≤ 0x2C))

/-- One stepped field of a word: its value in repeat `k`, none where it leaves the field (R20). -/
def stepField (w : Nat) (lo : Option Nat) (on : Bool) (k code : Nat) : Option Nat :=
  match on, lo with
  | true, some lo =>
    let x := fld w lo 7 + k * 2 ^ code
    if x < 128 then some (w - fld w lo 7 * 2 ^ lo + x * 2 ^ lo) else none
  | _, _ => some w

/-- The word of repeat `k` (R20). DEDUCED: log entry 29. -/
def repWord (w mask sd sa sb k : Nat) : Option Nat :=
  let f := stepFields (fld w 25 6)
  (stepField w f.1 (mask / 4 % 2 == 1) k sd).bind fun w =>
    (stepField w f.2.1 (mask / 2 % 2 == 1) k sa).bind fun w =>
      stepField w f.2.2 (mask % 2 == 1) k sb

/-- Repeats of a COUNT field (R18). -/
def repCount (count : Nat) : Nat := if count == 0 then 64 else count

/-- The kinds of the fields D, A and B of a repeatable major, for a word that decodes to no instruction. -/
def majorKinds (maj w : Nat) : RKind × RKind × RKind :=
  let bKind : RKind := if fld w 21 4 < 8 then .v else .s
  if maj == 2 then (.p, .s, .s)
  else if maj ≤ 5 then (.s, .s, .s)
  else if maj == 0x0C || maj == 0x14 then (.p, .v, .v)
  else if maj == 0x10 then (.p, .p, .p)
  else if maj == 0x0B && fld w 21 4 == 7 then (.v, .s, .v)
  else if (0x08 ≤ maj && maj ≤ 0x0A) || maj == 0x0F || maj == 0x11 then (.v, .v, bKind)
  else if 0x20 ≤ maj && fld w 4 3 < 4 then (.v, .s, .v)
  else (.v, .v, .v)

/-- The register fields at D, A and B of the word as it stands: `fields` gives them in that order (R19). A word that is
no instruction has one register at each. -/
def wordFields (w : Nat) : List Field :=
  match decodeWord w with
  | .ok i => fields i
  | .error _ =>
    let k := majorKinds (fld w 25 6) w
    let one (r : RKind) : Field := ⟨r, 0, 1, false, false, false⟩
    [one k.1, one k.2.1, one k.2.2]

/-- A stepped field of repeat `k` leaves the range of R8: `lo` is its place, `f` its kind and count. -/
def stepBad (window w : Nat) (lo : Option Nat) (f : Option Field) (on : Bool) (k code : Nat) : Bool :=
  match on, lo, f with
  | true, some lo, some f => { f with num := fld w lo 7 + k * 2 ^ code }.bad window
  | _, _, _ => false

/-- Check 4 of R19 for one repeat. DEDUCED: log entry 78. -/
def repBad (window w mask sd sa sb k : Nat) : Bool :=
  let p := stepFields (fld w 25 6)
  let fs := wordFields w
  stepBad window w p.1 fs[0]? (mask / 4 % 2 == 1) k sd ||
    stepBad window w p.2.1 fs[1]? (mask / 2 % 2 == 1) k sa || stepBad window w p.2.2 fs[2]? (mask % 2 == 1) k sb

/-- The checks of R19 on a prefix and the word after it (checks 2 to 4; `ch` says that a chain bit breaks check 1).
Stepping D of an MCTL word that has no D is RESERVED (R201). DEDUCED: log entry 29. -/
def prefixCheck (window p w : Nat) (ch : Bool) : Option KillClass :=
  let count := fld p 19 6; let mask := fld p 16 3
  let sd := fld p 14 2; let sa := fld p 12 2; let sb := fld p 10 2
  let maj := fld w 25 6
  let f := stepFields maj
  if ch || chained p || chained w then some .bundle
  else if fld p 0 10 != 0 || (sd != 0 && mask / 4 % 2 == 0) || (sa != 0 && mask / 2 % 2 == 0) || (sb != 0 && mask % 2 == 0)
      || (mask / 4 % 2 == 1 && f.1.isNone) || (mask / 2 % 2 == 1 && f.2.1.isNone) || (mask % 2 == 1 && f.2.2.isNone)
      || (mask / 4 % 2 == 1 && maj == 0x2B && decide (fld w 0 4 < 3)) then some .reserved
  else if !repeatable maj then some .repeated
  else if (List.range (repCount count)).any (repBad window w mask sd sa sb) then some .regrange
  else none

/-- Words of pipe S that read or write memory or the scratchpad (R289). -/
def sMem : Instr → Bool
  | .launch .. | .fstat .. | .tlbinv .. => true
  | _ => false

/-- Words of the memory pipe, and those of R289: they wait for what the warp has not performed yet. -/
def memWord (i : Instr) : Bool := pipeOf i == .m || sMem i

end Sys2Proof.Machine
end

