-- ==== Sys2Proof/Machine/Ops.lean ====
section
/-! DEFINITION. The named operations every meaning is made of: sparse memory in its canonical form, registers, lanes,
the view of all crews during an issue, kills (R22, R23), fragments (R255 to R266), traps (R270 to R272), waits and
barriers (R104, R115 to R117), results and their windows (R14, R16). -/

namespace Sys2Proof.Machine

/-! ### Memory -/

/-- One byte; an unlisted address reads 0 (DESIGN CHOICE, log entry 3). -/
def memGet : Memory → Nat → Byte
  | [], _ => 0
  | (a, b) :: m, k => if k = a then b else memGet m k

/-- Writes one byte, keeping addresses rising and listing no 0. DESIGN CHOICE: log entry 3. -/
def memSet : Memory → Nat → Byte → Memory
  | [], k, b => if b = 0 then [] else [(k, b)]
  | (a, x) :: m, k, b =>
    if k < a then (if b = 0 then (a, x) :: m else (k, b) :: (a, x) :: m)
    else if k = a then (if b = 0 then m else (k, b) :: m)
    else (a, x) :: memSet m k b

/-- The canonical form: addresses strictly rising, no byte 0. DESIGN CHOICE: log entry 3. -/
def Memory.wf : List Host.Cell → Bool
  | [] => true
  | [(_, b)] => b != 0
  | (a, b) :: (a', b') :: m => b != 0 && decide (a < a') && Memory.wf ((a', b') :: m)

/-- `n` bytes from `k`, and bytes written from `k` upwards. -/
def memRead (m : Memory) (k : Nat) : Nat → List Byte
  | 0 => []
  | n + 1 => memGet m k :: memRead m (k + 1) n
def memWrite (m : Memory) (k : Nat) : List Byte → Memory
  | [] => m
  | b :: bs => memWrite (memSet m k b) (k + 1) bs

/-- Little-endian field of a byte string: `n` bytes at `off` (R2). -/
def leAt (bs : List Byte) (off n : Nat) : Nat := wordOfBytes ((bs.drop off).take n)

/-! ### Lanes and masks -/

/-- The bits below `n` where `p` holds, as a number. -/
def maskNat (p : Nat → Bool) : Nat → Nat
  | 0 => 0
  | n + 1 => maskNat p n + (if p n then 2 ^ n else 0)
/-- The lanes where `p` holds. -/
def maskOf (p : Nat → Bool) : LaneMask := BitVec.ofNat 64 (maskNat p 64)
/-- Lanes of a mask in ascending order (R6). -/
def lanesOf (m : LaneMask) : List Nat := (List.range 64).filter fun l => m.getLsbD l
/-- The lowest lane of a mask. -/
def lowest (m : LaneMask) : Option Nat := (List.range 64).find? fun l => m.getLsbD l

def Warp.lane (w : Warp) (l : Nat) : Lane := w.lanes.getD l {}
/-- Lanes of a warp whose lane satisfies `p`. -/
def lanesWhere (w : Warp) (p : Lane → Bool) : LaneMask := maskOf fun l => decide (l < w.lanes.length) && p (w.lane l)
/-- A live lane (R103). -/
def Lane.live (ln : Lane) : Bool := ln.st != .exited && ln.st != .killed
/-- R106: a warp with no live lane is finished. -/
def Warp.finished (w : Warp) : Bool := w.lanes.all fun ln => !ln.live
/-- A finished warp whose stores and atomics have been performed (R77). -/
def Warp.ended (w : Warp) : Bool := w.finished && w.memq.isEmpty
/-- Applies `f` to the lanes of a mask. -/
def mapLanes (w : Warp) (m : LaneMask) (f : Nat → Lane → Lane) : Warp :=
  { w with lanes := w.lanes.mapIdx fun l ln => if m.getLsbD l then f l ln else ln }

/-! ### Registers (R7, R59): `s0` and `p0` are hard-wired -/

def rdS (w : Warp) (r : Nat) : Word := if r = 0 then 0 else w.s.getD r 0
def rdV (w : Warp) (r l : Nat) : Word := (w.lane l).v.getD r 0
def rdP (w : Warp) (r l : Nat) : Bool := r == 0 || (w.lane l).p.getLsbD r
/-- A pair: the odd register holds bits [63:32] (R7). -/
def pairW (lo hi : Word) : DWord := hi ++ lo
def rdV2 (w : Warp) (r l : Nat) : Nat := (rdV w r l).toNat + 2 ^ 32 * (rdV w (r + 1) l).toNat
def rdS2 (w : Warp) (r : Nat) : DWord := pairW (rdS w r) (rdS w (r + 1))

def setS (w : Warp) (r : Nat) (x : Word) : Warp := if r = 0 then w else { w with s := w.s.set r x }
def setV (w : Warp) (m : LaneMask) (r : Nat) (f : Nat → Word) : Warp :=
  mapLanes w m fun l ln => { ln with v := ln.v.set r (f l) }
def setP (w : Warp) (m : LaneMask) (r : Nat) (f : Nat → Bool) : Warp :=
  if r = 0 then w
  else mapLanes w m fun l ln =>
    { ln with p := if f l then ln.p ||| BitVec.twoPow 8 r else ln.p &&& ~~~(BitVec.twoPow 8 r) }

/-- The lanes a word acts on: Active less the lanes that fault in this issue (R59, R255). -/
def liveMask (s : State) : LaneMask := s.iss.active &&& ~~~s.iss.faulted

/-- Register writes of the word in issue. -/
def wrS (s : State) (r : Nat) (x : Word) : State := { s with w := setS s.w r x }
def wrV (s : State) (r : Nat) (f : Nat → Word) : State := { s with w := setV s.w (liveMask s) r f }
def wrP (s : State) (r : Nat) (f : Nat → Bool) : State := { s with w := setP s.w (liveMask s) r f }
/-- The pair `r`: bits [31:0] to the even register (R7). -/
def wrV2 (s : State) (r : Nat) (f : Nat → Nat) : State :=
  wrV (wrV s r fun l => BitVec.ofNat 32 (f l)) (r + 1) fun l => BitVec.ofNat 32 (f l / 2 ^ 32)

/-- The B operand of a major marked A+u (R60), as read in step 1 of R13. -/
def opB (s : State) (u : Bool) (b l : Nat) : Word := if u then rdS s.old b else rdV s.old b l

/-- Flags are sticky (R41). -/
def raise (s : State) (f : BitVec 5) : State :=
  { s with w := { s.w with fpflags := s.w.fpflags ||| f.setWidth 32 } }

/-! ### All crews during an issue: the issuing crew and warp stand in `c` and `w` -/

def merged (s : State) : List Crew :=
  s.crews.map fun k => if k.id = s.c.id then { s.c with warps := k.warps.set s.w.idx s.w } else k
def spread (s : State) (ks : List Crew) : State :=
  match ks.find? (·.id == s.c.id) with
  | some k => { s with crews := ks, c := { k with warps := [] }, w := k.warps.getD s.w.idx s.w }
  | none => { s with crews := ks }
/-- Applies `f` to every crew. -/
def mapCrews (s : State) (f : Crew → Crew) : State := spread s ((merged s).map f)
def findCrew (s : State) (id : Nat) : Option Crew := (merged s).find? (·.id == id)
def findWarp (s : State) (c x : Nat) : Option Warp := (findCrew s c).bind fun k => k.warps[x]?
def updWarp (s : State) (c x : Nat) (f : Warp → Warp) : State :=
  mapCrews s fun k => if k.id = c then { k with warps := k.warps.modify x f } else k
def updCrew (s : State) (c : Nat) (f : Crew → Crew) : State :=
  mapCrews s fun k => if k.id = c then f k else k
/-- Applies `f` to every warp of every crew. -/
def mapAllWarps (s : State) (f : Crew → Warp → Warp) : State :=
  mapCrews s fun k => { k with warps := k.warps.map (f k) }

/-! ### Positions (R102) -/

def dieOfCore (c : Nat) : Nat := c / 128
def quadOfCore (c : Nat) : Nat := c / 4
def bayOfCore (c : Nat) : Nat := c / 16
def dieOfBay (b : Nat) : Nat := b / 8

def coreAt (s : State) (c : Nat) : Core := s.cores.getD c {}
def updCore (s : State) (c : Nat) (f : Core → Core) : State := { s with cores := s.cores.modify c f }
def quadAt (s : State) (q : Nat) : Quad := s.quads.getD q {}
def updQuad (s : State) (q : Nat) (f : Quad → Quad) : State := { s with quads := s.quads.modify q f }
def bayAt (s : State) (b : Nat) : Bay := s.bays.getD b {}
def updBay (s : State) (b : Nat) (f : Bay → Bay) : State := { s with bays := s.bays.modify b f }
def dieAt (s : State) (d : Nat) : Die := s.dies.getD d {}
def updDie (s : State) (d : Nat) (f : Die → Die) : State := { s with dies := s.dies.modify d f }
def vfAt (s : State) (v : Nat) : Vf := s.vfs.getD v {}
def updVf (s : State) (v : Nat) (f : Vf → Vf) : State := { s with vfs := s.vfs.modify v f }

/-- A core's logical time (R178). -/
def ltimeOf (s : State) (core : Nat) : Nat := s.cycle + (coreAt s core).lead
/-- Moves a core's logical time up to `t`. -/
def raiseTime (s : State) (core t : Nat) : State :=
  updCore s core fun k => { k with lead := max k.lead (t - s.cycle) }

/-- The logical time of the engines, the host and the peers: never behind the cycle count. DESIGN CHOICE: log entry 25. -/
def engTime (s : State) : Nat := max s.etime s.cycle
/-- The core's time passes everything the engines have read and written: what it observed through one of them comes
after that in S (R177, R202, R246). DESIGN CHOICE: log entry 25. -/
def syncCore (s : State) (core : Nat) : State := raiseTime s core (engTime s)
/-- What a core hands to an engine, or ends with, comes after all it has done (R202, R253). -/
def syncEngine (s : State) (core : Nat) : State := { s with etime := max s.etime (ltimeOf s core) }
/-- Some cores meet at one point of S (R117): each goes on after everything the others have done. -/
def meetTime (s : State) (cores : List Nat) : Nat := cores.foldl (fun m c => max m (ltimeOf s c)) 0
def meetCores (s : State) (cores : List Nat) : State := cores.foldl (fun t c => raiseTime t c (meetTime s cores)) s

/-- Draws the next free value's number. DESIGN CHOICE: log entry 7. -/
def fresh (s : State) : Nat × State := (s.freeCtr, { s with freeCtr := s.freeCtr + 1 })

/-! ### Waits and barriers -/

/-- Releases the WAITING lanes that satisfy `p`: RUN at their resume PC (R105), after `f`. -/
def releaseLane (p : Wait → Bool) (f : Wait → Lane → Lane) (ln : Lane) : Lane :=
  if ln.st = .waiting && p ln.wait then { f ln.wait ln with st := .run, pc := ln.resume, wait := .none } else ln
/-- The register a wait still owes to its lanes (R198, R228). -/
def Wait.owes : Wait → RKind → Nat → Bool
  | .obj _ _ d _, .v, n => d == n
  | .ring _ d _, .s, n => d == n
  | _, _, _ => false
/-- The result of a wait has arrived once no lane waits for it. -/
def closeWaits (w : Warp) : Warp :=
  { w with pend := w.pend.map fun p =>
      if p.waits && !(w.lanes.any fun ln => ln.st == .waiting && ln.wait.owes p.target.kind p.target.num) then
        { p with open_ := false, arrived := true }
      else p }
/-- Releases the lanes of a warp that satisfy `p`, and ends what the warp awaited for them. -/
def releaseWarp (p : Wait → Bool) (f : Wait → Lane → Lane) (w : Warp) : Warp :=
  closeWaits { w with lanes := w.lanes.map (releaseLane p f) }
/-- Releases in the warps of the crews that satisfy `q`; what the released lanes do next comes after logical time `t`. -/
def release (s : State) (t : Nat) (q : Crew → Nat → Bool) (p : Wait → Bool) (f : Wait → Lane → Lane) : State :=
  let cores := (merged s).filterMap fun k =>
    if k.warps.any fun w => w.lanes.any fun ln => ln.st == .waiting && p ln.wait then some k.core else none
  mapCrews (cores.foldl (fun s c => raiseTime s c t) s) fun k => { k with warps := k.warps.mapIdx fun x w => if q k x then releaseWarp p f w else w }

/-- The lanes outside F become WAITING, to go on after the bundle, or, in a repeat, where they stand (R105, R107). A
further word of the bundle that gives them another state has the last word. DEDUCED: log entry 81. -/
def waitLanes (s : State) (wt : Wait) : State :=
  { s with w := mapLanes s.w (liveMask s) fun _ ln => { ln with st := .waiting, wait := wt } }

/-- R115, R154: every live lane waits on `wt`, and every store and atomic has been performed. -/
def arrivedAt (wt : Wait) (w : Warp) : Bool :=
  w.memq.isEmpty && w.lanes.all fun ln => !ln.live || (ln.st == .waiting && ln.wait == wt)
/-- Some lane of the warp waits on `wt`. -/
def waitsOn (wt : Wait) (w : Warp) : Bool := w.lanes.any fun ln => ln.st == .waiting && ln.wait == wt

/-- R116: releases every crew barrier all of whose crew's warps have arrived. -/
def checkCrewBars (k : Crew) : Crew :=
  (List.range 16).foldl (fun k n =>
    if k.warps.any (waitsOn (.bar n)) && k.warps.all (arrivedAt (.bar n)) then
      { k with warps := k.warps.map (releaseWarp (· == .bar n) fun _ ln => ln) }
    else k) k

/-- Crews of a persistent launch saved out of a quad keep their place in its barriers (R117). -/
def savedIn (s : State) (l q : Nat) : List Crew :=
  s.bays.flatMap fun b => b.queue.filterMap fun c =>
    match c.saved with
    | some k => if k.launch = l && quadOfCore k.core == q then some k else none
    | none => none
def mapSaved (s : State) (f : Crew → Crew) : State :=
  { s with bays := s.bays.map fun b => { b with queue := b.queue.map fun c => { c with saved := c.saved.map f } } }

/-- R117: the quad barriers of a persistent launch. A crew counts where its core is: after a restore onto another quad
its lanes wait at the new quad's barrier. A saved crew goes on, wherever it is restored, after the point where they met
(R251). DEDUCED: log entry 80. -/
def checkQuadBar (s : State) (l q n : Nat) : State :=
  let inQ (k : Crew) : Bool := k.launch == l && quadOfCore k.core == q
  let out := savedIn s l q
  let ks := (merged s).filter inQ ++ out
  if ks.any (fun k => k.warps.any (waitsOn (.barq n))) && ks.all (fun k => k.warps.all (arrivedAt (.barq n))) then
    let f (k : Crew) : Crew :=
      if inQ k then { k with warps := k.warps.map (releaseWarp (· == .barq n) fun _ ln => ln) } else k
    let cores := ks.map (·.core)
    let s := if out.isEmpty then s else { s with etime := max s.etime (meetTime s cores) }
    mapSaved (mapCrews (meetCores s cores) f) f
  else s

/-- The crews saved in any bay. -/
def savedCrews (s : State) : List Crew := s.bays.flatMap fun b => b.queue.filterMap (·.saved)

/-- The release checks of R116 and R117. Quad barriers are looked at only where a lane waits on one, in a resident or a
saved crew. -/
def checkBars (s : State) : State :=
  let s := mapCrews s checkCrewBars
  let waiting := (merged s ++ savedCrews s).flatMap fun k =>
    k.warps.flatMap fun w => w.lanes.filterMap fun ln =>
      match ln.st, ln.wait with
      | .waiting, .barq n => some (k.launch, quadOfCore k.core, n)
      | _, _ => none
  waiting.eraseDups.foldl (fun s t => checkQuadBar s t.1 t.2.1 t.2.2) s

/-! ### Claims on the register pool (R143, R156) -/

def grow (w : Warp) (n : Nat) : Warp :=
  { w with window := w.window + n, lanes := w.lanes.map fun ln => { ln with v := ln.v ++ List.replicate n 0 } }

/-- Serves the claim queue in order as far as the pool reaches. -/
def serveClaims (k : Crew) : Nat → Crew
  | 0 => k
  | fuel + 1 =>
    match k.claims with
    | [] => k
    | (x, n, m) :: rest =>
      if k.pool < n then k
      else serveClaims { k with
        pool := k.pool - n, claims := rest,
        warps := k.warps.modify x fun w => mapLanes (grow w n) m fun _ => releaseLane (· == .claim n) fun _ ln => ln } fuel

/-! ### Fragments (R257 to R264) -/

/-- FID of R259. -/
def fidOf (core entry gen : Nat) : Nat :=
  gen % 256 * 2 ^ 24 + core / 128 * 2 ^ 16 + core / 4 % 32 * 2 ^ 11 + core % 4 * 2 ^ 9 +
    (if entry < 128 then entry else 2 ^ 8 + (entry - 128))
def Frag.fid (f : Frag) : Nat := fidOf f.core f.entry f.gen

/-- A PARKED entry named by an id; `vf` none leaves out the VF test (R259, R299). -/
def findFrag (s : State) (vf : Option Nat) (id : Nat) : Option Frag :=
  s.frags.find? fun f => !f.freed && f.fid == id && (vf.isNone || vf == some f.vf)

/-- The entry becomes FREE; it is kept out of use while its record waits (R262). -/
def freeFrag (s : State) (f : Frag) : State :=
  let waits := (vfAt s f.vf).frPend.any fun r => r.frag == some (f.core, f.entry)
  { s with frags := if waits then s.frags.map (fun g => if g.core = f.core ∧ g.entry = f.entry then { g with freed := true } else g)
      else s.frags.filter fun g => !(g.core == f.core && g.entry == f.entry) }

/-- Frees every entry of a warp (R260: a kill, an abort). -/
def dropFrags (s : State) (c x : Nat) : State :=
  (s.frags.filter fun f => f.crew == c && f.warp == x && !f.freed).foldl freeFrag s

/-- `fresume` of a fragment (R263): its lanes are RUN at their PC, carrying REPK. -/
def resumeFrag (s : State) (f : Frag) : State :=
  freeFrag (updWarp s f.crew f.warp fun w => mapLanes w f.lanes fun _ ln =>
    if ln.st = .parked then { ln with st := .run, repk := f.repk } else ln) f

/-- `fkill` of a fragment (R263). -/
def killFrag (s : State) (f : Frag) : State :=
  checkBars (freeFrag (updWarp s f.crew f.warp fun w => mapLanes w f.lanes fun _ ln =>
    if ln.st = .parked then { ln with st := .killed } else ln) f)

/-- The 32 bytes of an entry (R258). -/
def fragBytes (f : Frag) : List Byte :=
  let rep := match f.repk with
    | some k => 2 ^ 17 + k % 64 * 2 ^ 11
    | none => 0
  bytesOfNat 4 f.fid ++
  bytesOfNat 4 (2 ^ 30 + (if f.whole then 2 ^ 29 else 0) + (if f.intrap then 2 ^ 28 else 0) + f.slot % 32 * 2 ^ 23
    + f.warp % 32 * 2 ^ 18 + rep + f.cls % 16) ++
  bytesOfNat 8 f.lanes.toNat ++
  bytesOfNat 4 (f.code % 256 * 2 ^ 21 + f.pc.toNat % 2 ^ 21) ++
  bytesOfNat 4 f.launch ++ bytesOfNat 8 f.addr

/-- One lane's failed check (R182, R183): class, code, address recorded, and the page of its record (R261). -/
structure LaneFault where
  lane : Nat
  cls : Nat
  code : Nat
  addr : Nat
  page : Nat
  deriving DecidableEq, Repr

/-- Distinct pages in the order of their lowest lane. -/
def pagesOf (fs : List LaneFault) : List Nat := (fs.map (·.page)).eraseDups

/-- A record of 128 B (R261) with LTIME left to the time it is performed. -/
def recordBytes (kind cls code again : Nat) (f : Option Frag) (launch : Nat) (pages : List Nat) (more : Bool)
    (rindex cause die : Nat) : List Byte :=
  let np := min pages.length 8
  bytesOfNat 4 (kind * 2 ^ 24 + cls * 2 ^ 20 + code * 2 ^ 12 + np * 2 ^ 8 + (if more || decide (8 < pages.length) then 2 ^ 7 else 0)
    + again * 2 ^ 6 + (match f with
      | some f => (if f.whole then 2 ^ 5 else 0) + (if f.intrap then 2 ^ 4 else 0)
      | none => 0)) ++
  bytesOfNat 4 (match f with | some f => f.fid | none => 0) ++
  bytesOfNat 4 launch ++
  bytesOfNat 4 (match f with | some f => f.pc.toNat % 2 ^ 21 | none => 0) ++
  bytesOfNat 8 (match f with | some f => f.lanes.toNat | none => 0) ++
  bytesOfNat 8 0 ++ bytesOfNat 4 rindex ++ bytesOfNat 4 (cause * 2 ^ 8 + die) ++ bytesOfNat 24 0 ++
  (List.range 8).flatMap fun i => bytesOfNat 8 (if i < np then pages.getD i 0 else 0)

/-- Queues a record for a VF's fault ring (R262). -/
def queueRecord (s : State) (vf : Nat) (r : FrRecord) : State :=
  updVf s vf fun v => { v with frPend := v.frPend ++ [r] }

/-- Shared entries a VF holds on a core, and whether an entry is in use or held by a waiting record. -/
def sharedHeld (s : State) (core vf : Nat) : Nat :=
  s.frags.countP fun f => f.core == core && f.vf == vf && decide (f.entry < 128) && !f.freed
def entryTaken (s : State) (core e : Nat) : Bool := s.frags.any fun f => f.core == core && f.entry == e

/-- Takes an entry of the core: its GEN counts up (R259). -/
def takeEntry (s : State) (core e : Nat) : Nat × State :=
  let g := ((coreAt s core).gens.find? (·.1 == e)).elim 0 (·.2) + 1
  (g % 256, updCore s core fun k => { k with gens := (e, g) :: k.gens.filter (·.1 != e) })

/-- The quotas of R310 inside their ranges; the registers keep what was written. DESIGN CHOICE: log entry 60. -/
def Vf.fragMax (v : Vf) : Nat := min v.fragq Config.sharedFrags
def Vf.lqMax (v : Vf) : Nat := min v.lqn 16
def Vf.qMax (v : Vf) : Nat := min v.qcount 4096
def Vf.postMax (v : Vf) : Nat := min v.wharfq Config.postEntries
/-- Bytes of a VF's weight-store partition: at most 1,024 MiB, inside the die's store (R174, R310). DESIGN CHOICE: log entry 60. -/
def Vf.wsLen (v : Vf) : Nat := min (v.wssize * 2 ^ 20) (Config.wsBytes - v.wsbase * 2 ^ 20)

/-- Shared entries that a function may hold on a core: a VF's quota; the PF, which has none, may hold them all (R257, R310).
DESIGN CHOICE: log entry 98. -/
def fragLimit (s : State) (vf : Nat) : Nat := if vf = 0 then Config.sharedFrags else (vfAt s vf).fragMax
/-- The lowest free shared entry of a core, where the function's quota leaves room for one (R257). -/
def sharedEntry (s : State) (core vf : Nat) : Option Nat :=
  if sharedHeld s core vf < fragLimit s vf then
    (List.range Config.sharedFrags).find? fun e => !entryTaken s core e
  else none
/-- The entry a fault of the warp in issue takes: a shared one, else its reserved one; none while the record of the
reserved entry waits (R262). -/
def faultEntry (s : State) : Option Nat :=
  (sharedEntry s s.c.core s.c.vf).or
    (if entryTaken s s.c.core (128 + s.w.slot) then none else some (128 + s.w.slot))

/-- `fault` of R255 for the failing lanes of one issue, in ascending order: a shared entry, or whole-warp mode (R266).
The bundle does not issue while no entry can be taken (R262). DEDUCED: log entry 79. -/
def faultLanes (s : State) (fs : List LaneFault) : State :=
  match fs, faultEntry s with
  | [], _ => s
  | _ :: _, none => { s with iss := { s.iss with stall := true } }
  | f0 :: _, some e =>
    let core := s.c.core
    let vf := s.c.vf
    let whole := decide (Config.sharedFrags ≤ e)
    let g := takeEntry s core e
    let failed := maskOf fun l => fs.any (·.lane == l)
    let lanes := if whole then s.iss.active else failed
    let fr : Frag := {
      core := core, entry := e, gen := g.1, whole := whole, intrap := s.w.trapV, crew := s.c.id, warp := s.w.idx,
      slot := s.w.slot, vf := vf, repk := if s.iss.rep then some (s.w.rep.toNat % 64) else none, cls := f0.cls,
      code := f0.code, pc := s.iss.pc, lanes := lanes, launch := s.c.launch, addr := f0.addr,
      more := decide (1 < (pagesOf fs).length) }
    let s := { g.2 with
      frags := g.2.frags ++ [fr]
      iss := { g.2.iss with faulted := lanes, abort := whole || g.2.iss.abort }
      w := mapLanes g.2.w lanes fun _ ln => { ln with st := .parked, inRep := false } }
    queueRecord s vf {
      kind := if whole then 2 else 1,
      bytes := recordBytes (if whole then 2 else 1) f0.cls f0.code 0 (some fr) s.c.launch (pagesOf fs) false 0 0 0,
      frag := some (core, e) }

/-! ### Kills (R22, R23) -/

/-- Records a kill in a crew's `%err`. -/
def errAfter (err : Word) (cls warp : Nat) (pc : Word) : Word :=
  if err.getLsbD 31 then err ||| 0x200000
  else (err &&& 0x200000) ||| w32 (2 ^ 31 + cls * 2 ^ 27 + warp % 32 * 2 ^ 22 + pc.toNat % 2 ^ 21)

/-- Every lane that has not exited becomes KILLED, and outstanding results are discarded (R17). -/
def killedWarp (w : Warp) : Warp :=
  { w with
    lanes := w.lanes.map fun ln => if ln.live then { ln with st := .killed, wait := .none, inRep := false } else ln,
    pend := [], hold := .none, sleepUntil := none, rep := w.rep &&& 0x7FFFFFFF, repFin := false }

/-- kill_warp (R6, R22) of the issuing warp. -/
def kill (k : KillClass) (s : State) : State :=
  let s := dropFrags s s.c.id s.w.idx
  { s with
    c := { s.c with
      err := errAfter s.c.err k.code s.w.idx s.iss.pc
      claims := s.c.claims.filter (·.1 != s.w.idx) }
    w := killedWarp s.w
    iss := { s.iss with abort := true } }

/-! ### Results and windows (R14, R16, R17, R42) -/

/-- One register write of a result; a lane that has exited or was killed keeps its registers (R77). -/
def applyWrite (w : Warp) : RegWrite → Warp
  | .v l r x => { w with lanes := w.lanes.modify l fun ln => if ln.live then { ln with v := ln.v.set r x } else ln }
  | .p l r x => if (w.lane l).live then setP w (BitVec.twoPow 64 l) r (fun _ => x) else w
  | .s r x => if w.finished then w else setS w r x

/-- The result of a pending entry arrives. -/
def arrive (w : Warp) (p : Pend) : Warp :=
  let w := p.writes.foldl applyWrite w
  { w with fpflags := w.fpflags ||| p.flags.setWidth 32 }

/-- The result is known: nothing is left to perform. -/
def Pend.ready (p : Pend) : Bool := p.need == 0 && !p.open_

/-- Delivers the result numbered `id`, if it is known and has not arrived. -/
def deliver (w : Warp) (id : Nat) : Warp :=
  match w.pend.find? (·.id == id) with
  | some p =>
    if p.ready && !p.arrived then
      let w := arrive w p
      { w with pend := w.pend.map fun q => if q.id = id then { q with arrived := true, writes := [] } else q }
    else w
  | none => w

/-- Delivers every known result that satisfies `f`. DESIGN CHOICE: log entry 9. -/
def deliverAll (f : Pend → Bool) (w : Warp) : Warp :=
  w.pend.foldl (fun w p => if f p then deliver w p.id else w) w

/-- Entries whose window has ended and whose result has arrived go. -/
def dropDone (w : Warp) : Warp := { w with pend := w.pend.filter fun p => !(p.arrived && p.left == 0) }

/-- One more bundle of the warp has issued: every window is one shorter. -/
def tickWindows (w : Warp) : Warp := { w with pend := w.pend.map fun p => { p with left := p.left - 1 } }

/-- Opens a window for the target of a word with its result (R16). DESIGN CHOICE: log entry 9. -/
def addPend (s : State) (i : Instr) (writes : List RegWrite) (flags : BitVec 5) (fp : Bool) (need : Nat) (op : Bool) :
    State :=
  match targetOf i with
  | none => s
  | some t =>
    { s with w := { s.w with
        nextId := s.w.nextId + 1,
        pend := s.w.pend ++ [{
          id := s.w.nextId, target := t, left := laOf i + 1, need := need, open_ := op,
          writes := writes, flags := flags, fp := fp }] } }

/-- Opens the window of a word whose lanes wait: the result arrives at their release (R198, R228). -/
def addWait (s : State) (i : Instr) : State :=
  match targetOf i with
  | none => s
  | some t =>
    { s with w := { s.w with
        nextId := s.w.nextId + 1,
        pend := s.w.pend ++ [{ id := s.w.nextId, target := t, left := laOf i + 1, open_ := true, waits := true }] } }

/-- A word that faults opens its window, and no result arrives for the failing lanes (R255); in whole-warp mode the
bundle has no effect (R266). -/
def addFaulted (s : State) (i : Instr) : State := if s.iss.abort || s.iss.stall then s else addPend s i [] 0 false 0 false

/-- The bundle cannot issue yet. -/
def stalled (s : State) : State := { s with iss := { s.iss with stall := true } }

/-- A uniform result; per-lane vector and predicate results for the lanes outside F. -/
def resS (s : State) (i : Instr) (d : Nat) (x : Word) : State := addPend s i [.s d x] 0 false 0 false
def laneWrites (m : LaneMask) (f : Nat → List RegWrite) : List RegWrite := (lanesOf m).flatMap f
def resV (s : State) (i : Instr) (d : Nat) (f : Nat → Word) (fl : BitVec 5) (fp : Bool) : State :=
  addPend s i (laneWrites (liveMask s) fun l => [.v l d (f l)]) fl fp 0 false

/-! ### Traps (R270 to R272) -/

/-- `trap n`: the trap set is Active less F; nothing happens when it is empty. -/
def takeTrap (n : Nat) (s : State) : State :=
  let t := liveMask s
  if t = 0 then s
  else
    { s with
      w := { mapLanes { s.w with lanes := s.w.lanes.map fun ln => { ln with ts := false } } t fun _ ln =>
               { ln with ts := true, rpc := s.iss.pc + w32 s.iss.words } with
        trapV := true, trapN := n, priv := 1,
        pend := s.w.pend.map fun p => { p with left := 1 } }
      iss := { s.iss with targets := (lanesOf t).map fun l => (l, w32 (3 * n)) } }

/-- Lanes of the trap set that are not EXITED or KILLED. -/
def trapSet (w : Warp) : LaneMask := lanesWhere w fun ln => ln.ts && ln.live

/-- `sret`: the lanes go to their RPC, at user level. -/
def leaveTrap (s : State) : State :=
  { s with
    w := { s.w with priv := 0, trapV := false }
    iss := { s.iss with targets := (lanesOf s.iss.active).map fun l => (l, (s.w.lane l).rpc &&& 0x1FFFFF) } }

end Sys2Proof.Machine
end

