-- ==== Sys2Proof/Machine/Translate.lean ====
section
/-! DEFINITION. Device and host memory under memory keys (R316, R317), the stripe table (R305), the two stages of
translation (R273 to R275, R306), the TLBs (R276) and the walks of threads (R278). -/

namespace Sys2Proof.Machine

/-- Key of a byte of die-local memory: 2^52 local addresses a die. -/
def physKey (die local_ : Nat) : Nat := die * 2 ^ 52 + local_ % 2 ^ 52
def dieOfKey (k : Nat) : Nat := k / 2 ^ 52

/-- The memory key a function uses (R317): a generated one is even, and a function without one has an odd one of its own.
DEDUCED: log entry 67. -/
def keyOf (s : State) (fn : Nat) : Nat :=
  match (vfAt s fn).key with
  | some k => 2 * k
  | none => 2 * fn + 1

/-- The key under which a byte's sector was last written, none where nothing has written it. DEDUCED: log entry 31. -/
def ownerOf (s : State) (k : Nat) : Option Nat := (s.owners.find? (·.1 == k / 128)).map (·.2)

/-- A byte of device memory as a function reads it: under another key, unrelated bytes (R317).
DESIGN CHOICE: log entry 21; DEDUCED: log entry 31. -/
def devGet (s : State) (fn k : Nat) : Byte :=
  match ownerOf s k with
  | none => memGet s.mem k
  | some o => if o = keyOf s fn then memGet s.mem k else Config.unrelated k (keyOf s fn)
def devRead (s : State) (fn k n : Nat) : List Byte := (List.range n).map fun i => devGet s fn (k + i)

/-- A sector comes under the writer's key: its other bytes stay what the writer would have read. -/
def claimSector (s : State) (fn k : Nat) : State :=
  let sec := k / 128
  match ownerOf s k with
  | none => { s with owners := (sec, keyOf s fn) :: s.owners }
  | some o =>
    if o = keyOf s fn then s
    else { s with
      mem := memWrite s.mem (sec * 128) (devRead s fn (sec * 128) 128),
      owners := (sec, keyOf s fn) :: s.owners.filter (·.1 != sec) }

/-- Writes a byte of device memory for a function; a whole-sector error goes with new data. -/
def devPut (s : State) (fn k : Nat) (b : Byte) : State :=
  let s := claimSector s fn k
  { s with mem := memSet s.mem k b }

/-- Uncorrectable data in the sectors of a span (R275). DEDUCED: log entry 57. -/
def poisoned (s : State) (k n : Nat) : Bool := s.poison.any fun p => decide (k / 128 ≤ p) && decide (p ≤ (k + n - 1) / 128)

/-- R305: the stripe index of a guest-physical address, and its die. -/
def stripeIdx (g : Nat) : Nat :=
  let n := g % 2 ^ 51 / 2 ^ 21
  Nat.xor (Nat.xor (Nat.xor (Nat.xor n (n / 2 ^ 6)) (n / 2 ^ 12)) (n / 2 ^ 18)) (n / 2 ^ 24) % 64
def dieOfGpa (s : State) (g : Nat) : Nat := s.stripe.getD (stripeIdx g) 0

/-- The L2 slice of a flat line of a die (R169), and its bay. -/
def flatSlice (die va : Nat) : Nat :=
  let n := va / 1024
  die * 128 + Nat.xor (Nat.xor n (n / 2 ^ 7)) (n / 2 ^ 14) % 128
def flatBay (die va : Nat) : Nat := flatSlice die va / 16

/-- A virtual address of the peer window (R325). -/
def inPeerWindow (va : Nat) : Bool := va % 2 ^ 56 / 2 ^ 48 == 0xFF

/-- The machine as the work of a drain sees it: the DRAINING dies that satisfy `p` still serve (R314), DEDUCED: log entry
42; and the dies as they are again. -/
def serving (s : State) (p : Nat → Bool) : State :=
  if s.dies.any (·.st == .draining) then
    { s with dies := s.dies.mapIdx fun i d => if d.st = .draining && p i then { d with st := .active } else d }
  else s
def served (s t : State) : State :=
  if s.dies.any (·.st == .draining) then { t with dies := t.dies.mapIdx fun i d => { d with st := (dieAt s i).st } } else t

/-! ### Walks -/

/-- Why a walk ends without a leaf: the die that holds the table is out of service (R315), or the code of R275. -/
inductive WErr where
  | wait
  | code (c : Nat)
  deriving DecidableEq, Repr

/-- A leaf found by a walk: the page it maps, by address bits and by size. -/
abbrev Leaf := TlbEnt

/-- The levels of R273: level, lowest index bit, index bits. -/
def levels : List (Nat × Nat × Nat) := [(0, 48, 8), (1, 39, 9), (2, 30, 9), (3, 21, 9), (4, 13, 8)]

/-- R274: the entry is bad at this level. -/
def badEntry (lv lo x : Nat) : Bool :=
  fld x 52 12 != 0 || fld x 4 8 != 0 || (bitB x 1 && decide (lv < 2)) || (!bitB x 1 && lv == 4) ||
    (bitB x 1 && fld x 12 40 * 4096 % 2 ^ lo != 0)

/-- A walk over the levels that are left; `rd` reads the entry at an address of the stage's tables, and `okLeaf` looks at
the base and the size of a leaf's page. -/
def walkTab (rd : Nat → Except WErr Nat) (vf a : Nat) (okLeaf : Nat → Nat → Bool) : List (Nat × Nat × Nat) → Nat → Except WErr Leaf
  | [], _ => .error (.code 12)
  | (lv, lo, n) :: ls, root =>
    match rd (root + 8 * fld a lo n) with
    | .error (.code c) => .error (.code (if c = 32 then 32 + lv else c))
    | .error .wait => .error .wait
    | .ok x =>
      if x % 2 = 0 then .error (.code lv)
      else if badEntry lv lo x || (bitB x 1 && !okLeaf (fld x 12 40 * 4096) (2 ^ lo)) then .error (.code (8 + lv))
      else if bitB x 1 then
        .ok { vf := vf, base := a / 2 ^ lo * 2 ^ lo, size := 2 ^ lo, gpa := fld x 12 40 * 4096, r := bitB x 2, w := bitB x 3 }
      else walkTab rd vf a okLeaf ls (fld x 12 40 * 4096)

/-- R310: every GDDR-7 device that a stage-2 leaf maps memory of has its CHAN bit set. DESIGN CHOICE: log entry 19. -/
def chanOk (s : State) (vf die base size : Nat) : Bool :=
  let bits : BitVec 12 := BitVec.ofNat 12 (fld (vfAt s vf).chan (12 * die) 12)
  bits == 4095 || Config.leafDevices die base size &&& ~~~bits == 0

/-- A stage-2 walk for a guest-physical address below 2^51, by the walkers of its die (R305). DEDUCED: log entry 42. -/
def leaf2 (s : State) (vf g : Nat) : Except WErr Leaf :=
  let die := dieOfGpa s g
  let rd (a : Nat) : Except WErr Nat :=
    if poisoned s (physKey die a) 8 then .error (.code 32) else .ok (wordOfBytes (devRead s 0 (physKey die a) 8))
  if (dieAt s die).st ≠ .active then .error .wait
  else match walkTab rd vf g (chanOk s vf die) levels ((vfAt s vf).s2root.getD die 0) with
    | .ok l => .ok { l with st2 := true, die := die }
    | .error (.code c) => .error (.code (c + 16))
    | .error .wait => .error .wait

/-- Where a stage-2 leaf puts a guest-physical byte, with its rights. -/
def at2 (l : Leaf) (g : Nat) : Nat × Bool × Bool := (physKey l.die (l.gpa + g % l.size), l.r, l.w)

/-- Stage 2 walked at once: the byte's key and the rights (R305; for the PF: DESIGN CHOICE, log entry 10). -/
def walk2 (s : State) (vf g : Nat) : Except WErr (Nat × Bool × Bool) :=
  let die := dieOfGpa s g
  if (dieAt s die).st ≠ .active then .error .wait
  else if vf = 0 then .ok (physKey die g, true, true)
  else (leaf2 s vf g).map (at2 · g)

/-- Where a guest-physical byte lies: host memory with bit 51 (R316), else device memory by stage 2. -/
def locate (s : State) (vf g : Nat) : Except WErr (Loc × Bool × Bool) :=
  if 2 ^ 51 ≤ g then .ok (.host (g % 2 ^ 51), true, true)
  else match walk2 s vf g with
    | .ok (k, r, w) => .ok (.dev k, r, w)
    | .error e => .error e

/-- A byte at a place, as a function reads it. Scratchpad offsets are the quad's, weight-store offsets the die's. -/
def locGet (s : State) (fn : Nat) : Loc → Byte
  | .dev k => devGet s fn k
  | .host g => memGet s.hostMem g
  | .sp q o => memGet (quadAt s q).sp o
  | .ws d o => memGet (dieAt s d).ws o
  | .peer x => x
def locPut (s : State) (fn : Nat) (l : Loc) (b : Byte) : State :=
  match l with
  | .dev k => devPut s fn k b
  | .host g => { s with hostMem := memSet s.hostMem g b }
  | .sp q o => updQuad s q fun t => { t with sp := memSet t.sp o b }
  | .ws d o => updDie s d fun t => { t with ws := memSet t.ws o b }
  | .peer .. => s

/-- A cached leaf that holds an address of its stage; a stage-2 leaf serves the granules of its own die (R276, R305). -/
def tlbHit (t : List TlbEnt) (st2 : Bool) (die vf a : Nat) : Option TlbEnt :=
  t.find? fun e => e.vf == vf && e.st2 == st2 && (!st2 || e.die == die) && decide (e.base ≤ a) && decide (a < e.base + e.size)

/-- Stage 2 of a guest-physical byte without a walk: host memory, the PF's own space, or a leaf in the TLB of the line's
home bay; none where a walk must be made (R276, R315). -/
def cached2 (s : State) (vf home g : Nat) : Option (Except WErr (Loc × Bool × Bool)) :=
  let die := dieOfGpa s g
  if 2 ^ 51 ≤ g then some (.ok (.host (g % 2 ^ 51), true, true))
  else if (dieAt s die).st ≠ .active then some (.error .wait)
  else if vf = 0 then some (.ok (.dev (physKey die g), true, true))
  else (tlbHit (bayAt s home).tlb true die vf g).map fun e => let x := at2 e g; .ok (.dev x.1, x.2)

/-- Stage 2 of a guest-physical byte for a requester that walks at once. -/
def stage2 (s : State) (vf home g : Nat) : Except WErr (Loc × Bool × Bool) := (cached2 s vf home g).getD (locate s vf g)

/-- A stage-1 walk from a root (R306): each table read goes through stage 2, whose leaf may be cached where the table's
line is homed (R276). DEDUCED: log entry 74. -/
def walk1 (s : State) (vf va : Nat) : Except WErr Leaf :=
  let rd (a : Nat) : Except WErr Nat :=
    match stage2 s vf (flatBay (dieOfGpa s a) a) a with
    | .ok (.dev k, _, _) => if poisoned s k 8 then .error (.code 32) else .ok (wordOfBytes (devRead s vf k 8))
    | .ok (.host g, _, _) => .ok (wordOfBytes (memRead s.hostMem g 8))
    | .ok _ => .error (.code 0)
    | .error e => .error e
  walkTab rd vf (va % 2 ^ 56) (fun _ _ => true) levels (vfAt s vf).s1root

/-- What translating one byte gives: its place, the rights and the start of the page that holds it (R261). -/
inductive Xl where
  | ok (l : Loc) (r w : Bool) (page : Nat)
  | fail (cls code page : Nat)
  | wait
  deriving DecidableEq, Repr

/-- The translation failed. -/
def Xl.isFail : Xl → Bool
  | .fail .. => true
  | _ => false

/-- What stage 2 gives after a stage-1 leaf: the rights of both, or the failure, which leaves no translation (R261, R274,
R275). -/
def joinStages (l : Leaf) (va : Nat) : Except WErr (Loc × Bool × Bool) → Xl
  | .ok (p, r, w) => .ok p (r && l.r) (w && l.w) (va / l.size * l.size)
  | .error (.code c) => .fail 1 c (va / 8192 * 8192)
  | .error .wait => .wait

/-- The home bay of a flat byte behind a stage-1 leaf (R169). -/
def leafBay (s : State) (l : Leaf) (va : Nat) : Nat := flatBay (dieOfGpa s (l.gpa + va % l.size)) va

/-- Both stages for a requester that walks at once: the launch hardware, the queue engines, the Wharf; fetch, which uses the
TLBs of its core and bay first (R276). The peer window has no translation (R325). DEDUCED: log entries 74, 83. -/
def xlateNow (s : State) (tlb : List TlbEnt) (vf va : Nat) : Xl :=
  let a := va % 2 ^ 56
  if inPeerWindow a then .fail 1 0 (a / 8192 * 8192)
  else
    match (match tlbHit tlb false 0 vf a with
      | some e => Except.ok e
      | none => walk1 s vf va) with
    | .ok l => joinStages l a (stage2 s vf (leafBay s l a) (l.gpa + a % l.size))
    | .error (.code c) => .fail 1 c (a / 8192 * 8192)
    | .error .wait => .wait
def xlate (s : State) (vf va : Nat) : Xl := xlateNow s [] vf va

/-- A walk's outcome among those handed to a lane or a channel. -/
def handed (xs : List Xlated) (lane : Nat) (st2 : Bool) (a : Nat) : Option XlatRes :=
  (xs.find? fun x => x.lane == lane && x.st2 == st2 && match x.res with
    | .hit e => decide (e.base ≤ a) && decide (a < e.base + e.size)
    | .miss page _ => page == a / 8192).map (·.res)
/-- Stage 2 of a byte from such an outcome. -/
def handed2 (xs : List Xlated) (lane g : Nat) : Option (Except WErr (Loc × Bool × Bool)) :=
  (handed xs lane true g).map fun x => match x with
    | .hit e => let y := at2 e g; .ok (.dev y.1, y.2)
    | .miss _ c => .error (.code c)
/-- A translation without a walk, from what stage 1 is known to give and the outcomes in hand; none where a walk must be
made. -/
def xlKnown (s : State) (one : Option XlatRes) (xs : List Xlated) (lane vf a : Nat) (home : Leaf → Nat) : Option Xl :=
  match one with
  | none => none
  | some (.miss page c) => some (.fail 1 c (page * 8192))
  | some (.hit l) =>
    let g := l.gpa + a % l.size
    ((cached2 s vf (home l) g).or (handed2 xs lane g)).map (joinStages l a)
/-- The walk that such a translation lacks: stage 1, or stage 2 behind the leaf that is known. -/
def wantKnown (one : Option XlatRes) (vf a core bay : Nat) (home : Leaf → Nat) : Want :=
  match one with
  | some (.hit l) => ⟨vf, true, (l.gpa + a % l.size) / 8192, core, home l⟩
  | _ => ⟨vf, false, a / 8192, core, bay⟩

/-- Stage 1 of a byte for a channel of the BTE of a bay. -/
def bte1 (s : State) (bay ch vf a : Nat) : Option XlatRes :=
  ((tlbHit (bayAt s bay).tlb false 0 vf a).map XlatRes.hit).or (handed (bayAt s bay).xlat ch false a)
/-- The translation of a byte for a channel of a BTE (R276, R278); none where a walk must be made. -/
def bteXl (s : State) (bay ch vf va : Nat) : Option Xl :=
  let a := va % 2 ^ 56
  if inPeerWindow a then some (.fail 1 0 (a / 8192 * 8192))
  else xlKnown s (bte1 s bay ch vf a) (bayAt s bay).xlat ch vf a fun l => leafBay s l a
/-- Who translates: a channel of a BTE (bay and channel), which waits for its walks, or a unit that walks at once. -/
abbrev Requester := Option (Nat × Nat)
def xlateFor (s : State) (who : Requester) (vf va : Nat) : Xl :=
  match who with
  | some (b, ch) => (bteXl s b ch vf va).getD .wait
  | none => xlate s vf va

/-- The rights an access needs (R275): NOREAD before NOWRITE. -/
def rights (x : Xl) (rd wr : Bool) : Xl :=
  match x with
  | .ok l r w page =>
    if rd && !r then .fail 2 1 page
    else if wr && (!w || (rd && match l with | .host _ => true | _ => false)) then .fail 2 2 page
    else .ok l r w page
  | x => x

/-- A span of virtual bytes under a translation: the places, or the first failure (class, code, address). -/
def spanLocs (x : Nat → Xl) (rd wr : Bool) : Nat → Nat → Except (Nat × Nat × Nat) (List Loc)
  | _, 0 => .ok []
  | va, n + 1 =>
    match rights (x va) rd wr with
    | .ok l _ _ _ => (spanLocs x rd wr (va + 1) n).map (l :: ·)
    | .fail cls code _ => .error (cls, code, va % 2 ^ 56)
    | .wait => .error (0, 0, va % 2 ^ 56)

/-- The places of a span that lies in one page, found with one walk; spans that cross a page walk byte by byte. -/
def spanAt (x : Nat → Xl) (rd wr : Bool) (va n : Nat) : Except (Nat × Nat × Nat) (List Loc) :=
  let a := va % 2 ^ 56
  if a / 8192 = (a + n - 1) / 8192 then
    match rights (x a) rd wr with
    | .ok (.dev k) _ _ _ => .ok ((List.range n).map fun i => .dev (k + i))
    | .ok (.host g) _ _ _ => .ok ((List.range n).map fun i => .host (g + i))
    | .ok _ _ _ _ => .ok []
    | .fail cls code _ => .error (cls, code, a)
    | .wait => .error (0, 0, a)
  else spanLocs x rd wr a n
def spanLoc (s : State) (vf : Nat) (rd wr : Bool) (va n : Nat) : Except (Nat × Nat × Nat) (List Loc) := spanAt (xlate s vf) rd wr va n

/-- Uncorrectable data among places. -/
def locsPoisoned (s : State) (ls : List Loc) : Bool :=
  ls.any fun l => match l with
    | .dev k => poisoned s k 1
    | _ => false

/-- Reads a span of virtual memory: the bytes, or why it cannot be read. DEDUCED: log entry 74. -/
def readAt (s : State) (x : Nat → Xl) (vf va n : Nat) : Except (Nat × Nat × Nat) (List Byte) :=
  match spanAt x true false va n with
  | .ok ls => if locsPoisoned s ls then .error (1, 32, va % 2 ^ 56) else .ok (ls.map (locGet s vf))
  | .error e => .error e
def readVa (s : State) (vf va n : Nat) : Except (Nat × Nat × Nat) (List Byte) := readAt s (xlate s vf) vf va n

/-- Stores bytes at places, in ascending order. -/
def putLocs (s : State) (vf : Nat) : List (Loc × Byte) → State
  | [] => s
  | (l, b) :: ls => putLocs (locPut s vf l b) vf ls

/-- The last write and the latest lease of a line (R178); a line that nothing else has touched since a host write counts
that write (R179). -/
def lineTimes (s : State) (t : Tag) : Nat × Nat :=
  ((s.lines.find? (·.1 == t)).map (·.2)).getD (if t.tensor < 2 ^ 16 then (vfAt s t.vf).hostTime else 0, 0)
def setLine (s : State) (t : Tag) (wts rts : Nat) : State := { s with lines := (t, wts, rts) :: s.lines.filter (·.1 != t) }

/-- The tag of a flat line (R167). DESIGN CHOICE: log entry 73. -/
def flatTag (vf va : Nat) : Tag := { vf := vf, tensor := 0, plane := 0, row := va % 2 ^ 56 / 1024, col := 0 }

/-- The tag under which a place that is never cached stands in S (R171, R174): a row of the scratchpad's banks, a KiB of
a weight store. Host memory stands outside S (R316). -/
def placeTag : Loc → Option Tag
  | .sp q o => some { vf := 0, tensor := 2 ^ 16 + q, plane := 0, row := o / 64, col := 0 }
  | .ws d o => some { vf := 0, tensor := 2 ^ 17 + d, plane := 0, row := o / 1024, col := 0 }
  | _ => none
def placeTags (ls : List Loc) : List Tag := (ls.filterMap placeTag).eraseDups
/-- The lines of an access at virtual bytes (R167): the flat line of each byte in device memory. -/
def flatTags (vf : Nat) (as : List Nat) (ls : List Loc) : List Tag :=
  ((as.zip ls).filterMap fun x => match x.2 with
    | .dev _ => some (flatTag vf x.1)
    | l => placeTag l).eraseDups
/-- Only lines of device memory are leased (R170, R171). -/
def leaseOf (t : Tag) (lease : Nat) : Nat := if t.tensor < 2 ^ 16 then lease else 0

/-- The time of a read at home: not before the last write of any of its lines (R178). -/
def readTime (s : State) (ts : List Tag) (now : Nat) : Nat := ts.foldl (fun m t => max m (lineTimes s t).1) now
/-- The time of a write: after the last write and the end of every lease of its lines (R178). A lease ends at its last
time, so that no copy is used then; no two writes of a line have one time. -/
def writeTime (s : State) (ts : List Tag) (now : Nat) : Nat :=
  ts.foldl (fun m t => max m (max ((lineTimes s t).1 + 1) (lineTimes s t).2)) now
/-- The time of the last write to any cached line of a function or of the PF, whose tables stage 2 uses: the reads of a
walk come after it (R277). DESIGN CHOICE: log entry 96. -/
def tableTime (s : State) (vf : Nat) : Nat :=
  s.lines.foldl (fun m x => if x.1.tensor < 2 ^ 16 && (x.1.vf == vf || x.1.vf == 0) then max m x.2.1 else m)
    (max (vfAt s vf).hostTime (vfAt s 0).hostTime)
/-- Lines that were read at a time, with a lease from then on. -/
def readLines (s : State) (ts : List Tag) (now lease : Nat) : State :=
  ts.foldl (fun s t => setLine s t (lineTimes s t).1 (max (lineTimes s t).2 (now + leaseOf t lease))) s
/-- Lines that were written at a time. -/
def writeLines (s : State) (ts : List Tag) (now : Nat) : State := ts.foldl (fun s t => setLine s t now now) s

/-- A core reads lines at their home (R178). -/
def readBy (s : State) (core : Nat) (ts : List Tag) (lease : Nat) : State :=
  if ts.isEmpty then s
  else let now := readTime s ts (ltimeOf s core); raiseTime (readLines s ts now lease) core now
/-- An engine, the host or a peer reads lines, and writes lines (R177, R179, R202). -/
def engRead (s : State) (ts : List Tag) : State :=
  if ts.isEmpty then s
  else let now := readTime s ts (engTime s); { readLines s ts now 0 with etime := now }
def engWrite (s : State) (ts : List Tag) : State :=
  if ts.isEmpty then s
  else let now := writeTime s ts (engTime s); { writeLines s ts now with etime := now }

/-- The lines of a span of virtual bytes at places. -/
def spanTags (vf va : Nat) (ls : List Loc) : List Tag := flatTags vf ((List.range ls.length).map (va + ·)) ls
/-- A byte of an armed barrier object (R173). -/
def armedAt (s : State) : Loc → Bool
  | .dev k => s.armed.any fun a => decide (a.1 ≤ k) && decide (k < a.1 + 16)
  | .sp q o => (quadAt s q).armed.any fun a => decide (a ≤ o) && decide (o < a + 16)
  | _ => false
/-- An engine or the device writes a span of virtual memory at its places: its flat lines count the write, and the bytes of an
armed object stay as they are (R172). DEDUCED: log entry 88. -/
def writeSpan (s : State) (vf va : Nat) (ls : List Loc) (bs : List Byte) : State :=
  engWrite (putLocs s vf ((ls.zip bs).filter fun x => !armedAt s x.1)) (spanTags vf va ls)
def writeVa (s : State) (vf va : Nat) (bs : List Byte) : Except (Nat × Nat × Nat) State :=
  match spanLoc s vf false true va bs.length with
  | .ok ls => .ok (writeSpan s vf va ls bs)
  | .error e => .error e

/-! ### The TLBs and the walks of threads (R276 to R278) -/

/-- Puts a leaf into a TLB of `cap` entries; a full one gives up an entry (R276). DESIGN CHOICE: log entry 22. -/
def tlbPut (t : List TlbEnt) (cap ctr : Nat) (e : TlbEnt) : List TlbEnt :=
  if t.length < cap then e :: t else e :: t.eraseIdx (Config.tlbVictim ctr % cap)

/-- A leaf comes into the TLBs, where it is not there already: stage 1 into the core's (where one asked) and its bay's,
stage 2 into the home bay's. -/
def tlbFill (s : State) (core : Option Nat) (bay : Nat) (e : TlbEnt) : State :=
  let put (cap : Nat) (t : List TlbEnt) : List TlbEnt := if t.contains e then t else tlbPut t cap s.freeCtr e
  let s' := match core with
    | some c => if e.st2 then s else updCore s c fun c => { c with tlb := put 64 c.tlb }
    | none => s
  { updBay s' bay fun b => { b with tlb := put 4096 b.tlb } with freeCtr := s.freeCtr + 1 }

/-- The TLBs of a core and of its bay. -/
def coreTlbs (s : State) (core : Nat) : List TlbEnt := (coreAt s core).tlb ++ (bayAt s (bayOfCore core)).tlb
/-- Stage 1 of a byte for a lane of the issuing warp: a TLB hit, or the outcome of the walk it waited for. -/
def lane1 (s : State) (lane a : Nat) : Option XlatRes :=
  ((tlbHit (coreTlbs s s.c.core) false 0 s.c.vf a).map XlatRes.hit).or (handed s.w.xlat lane false a)

/-- The home bay of a byte: `home` where the line is a tensor's, else that of the flat line (R169). -/
def homeOf (s : State) (home : Option Nat) (l : Leaf) (a : Nat) : Nat := home.getD (leafBay s l a)

/-- The translation of a byte for a lane of the issuing warp; none where a walk must be made. -/
def threadXl (s : State) (home : Option Nat) (lane va : Nat) : Option Xl :=
  let a := va % 2 ^ 56
  if inPeerWindow a then some (.fail 1 0 (a / 8192 * 8192))
  else xlKnown s (lane1 s lane a) s.w.xlat lane s.c.vf a fun l => homeOf s home l a

/-- The walk that a byte needs where `threadXl` has none. -/
def wantOf (s : State) (home : Option Nat) (lane va : Nat) : Want :=
  let a := va % 2 ^ 56
  wantKnown (lane1 s lane a) s.c.vf a s.c.core (bayOfCore s.c.core) fun l => homeOf s home l a

/-- The die whose walkers serve a request: the requester's for stage 1, the granule's for stage 2 (R305, R306). -/
def walkDie (s : State) (w : Want) : Nat := if w.st2 then dieOfGpa s (w.page * 8192) else dieOfCore w.core

/-- Requests coalesce by VF, stage and bits [55:13] (R278). -/
def sameWalk (a b : Want) : Bool := a.vf == b.vf && a.st2 == b.st2 && a.page == b.page

/-- A request takes its place: on a matching walk with room, on a free walker, or in the queue of its die (R278). -/
def joinWalk (s : State) (d : Nat) (w : Want) (me : Nat × Nat × Nat) : State :=
  let ws := (dieAt s d).walks
  match ws.findIdx? fun k => sameWalk k.want w && decide (k.waiting.length < 256) with
  | some i => updDie s d fun x => { x with walks := x.walks.modify i fun k => { k with waiting := k.waiting ++ [me] } }
  | none =>
    if ws.length < 64 then updDie s d fun x => { x with walks := x.walks ++ [{ want := w, waiting := [me] }] }
    else if (dieAt s d).misses.length < 4096 then updDie s d fun x => { x with misses := x.misses ++ [(w, me)] }
    else s

/-- Starts or joins the walk that a requester needs, once. -/
def wantFor (s : State) (me : Nat × Nat × Nat) (w : Want) : State :=
  let d := walkDie s w
  if ((dieAt s d).walks.any fun k => sameWalk k.want w && k.waiting.contains me) ||
      ((dieAt s d).misses.any fun m => sameWalk m.1 w && m.2 == me) then s
  else joinWalk s d w me
/-- The walk of a lane of the issuing warp. -/
def wantWalk (s : State) (lane : Nat) (w : Want) : State := wantFor s (s.c.id, s.w.idx, lane) w
/-- A byte that a channel of a BTE cannot translate asks for its walk; its misses queue with those of threads (R278). -/
def askFor (s : State) (who : Requester) (vf va : Nat) : State :=
  match who with
  | none => s
  | some (b, ch) =>
    let a := va % 2 ^ 56
    if (bteXl s b ch vf va).isSome then s
    else wantFor s (0, b, ch) (wantKnown (bte1 s b ch vf a) vf a (16 * b) b fun l => leafBay s l a)

/-- The oldest misses take the walkers that have become free. -/
def admitMisses (s : State) (d : Nat) : Nat → State
  | 0 => s
  | n + 1 =>
    match (dieAt s d).misses with
    | [] => s
    | m :: rest =>
      if (dieAt s d).walks.length < 64 then
        admitMisses (joinWalk (updDie s d fun x => { x with misses := rest }) d m.1 m.2) d n
      else s

/-- The miss queue of a die is full: no memory word issues on its cores (R278). -/
def missFull (s : State) (d : Nat) : Bool := decide (4096 ≤ (dieAt s d).misses.length)

/-- The tables are read as they stand (R277). -/
def walkNow (s : State) (w : Want) : Except WErr Leaf :=
  if w.st2 then leaf2 s w.vf (w.page * 8192) else walk1 s w.vf (w.page * 8192)

/-- A walk's outcome goes to a lane or a channel that waited for it, and a stage-1 leaf into its TLBs; what it does next comes
after the table reads, which are loads of S (R277). -/
def handTo (s : State) (k : Walk) (r : XlatRes) (m : Nat × Nat × Nat) : State :=
  let x : Xlated := ⟨m.2.2, k.want.st2, r⟩
  let t := tableTime s k.want.vf
  let fill (s : State) (core : Option Nat) (bay : Nat) : State := match r with
    | .hit l => if k.want.st2 then s else tlbFill s core bay l
    | .miss .. => s
  if m.1 = 0 then fill { updBay s m.2.1 fun b => { b with xlat := b.xlat ++ [x] } with etime := max s.etime t } none m.2.1
  else
    let core := ((findCrew s m.1).map (·.core)).getD k.want.core
    fill (raiseTime (updWarp s m.1 m.2.1 fun w => { w with xlat := w.xlat ++ [x] }) core t) (some core) (bayOfCore core)
def handOut (s : State) (k : Walk) (r : XlatRes) : State := k.waiting.foldl (handTo · k r) s

/-- PAGE_WALK_COMPLETE of walk `i` of a die: everything that waited receives the outcome, a stage-2 leaf goes into the home
bay's TLB, and the walker takes the oldest miss. A walk that meets a die out of service goes on waiting (R315). -/
def walkComplete (die i : Nat) (s : State) : State :=
  match (dieAt s die).walks[i]? with
  | none => s
  | some k =>
    let s' := updDie s die fun d => { d with walks := d.walks.eraseIdx i }
    match walkNow s k.want with
    | .error .wait => s
    | .ok l =>
      let t := handOut s' k (.hit l)
      admitMisses (if k.want.st2 then tlbFill t none k.want.bay l else t) die (dieAt s die).misses.length
    | .error (.code c) => admitMisses (handOut s' k (.miss k.want.page c)) die (dieAt s die).misses.length

/-- The code of a warp has been fetched: the stage-1 leaf comes into the core's and the bay's TLB (R276). -/
def fetchFill (s : State) (core vf va : Nat) : State :=
  if (tlbHit (coreTlbs s core) false 0 vf (va % 2 ^ 56)).isSome then s
  else match walk1 s vf va with
    | .ok l => tlbFill s (some core) (bayOfCore core) l
    | .error _ => s
/-- The outcomes handed to a channel have been used. -/
def usedWalks (s : State) (bay ch : Nat) : State :=
  if (bayAt s bay).xlat.isEmpty then s else updBay s bay fun b => { b with xlat := b.xlat.filter (·.lane != ch) }

/-- A channel has done with its entry: it waits for no walk any more. -/
def forgetWalks (s : State) (bay ch : Nat) : State :=
  let me := (0, bay, ch)
  usedWalks { s with dies := s.dies.map fun d =>
    if d.walks.isEmpty then d
    else { d with
      walks := d.walks.map fun k => { k with waiting := k.waiting.erase me }
      misses := d.misses.filter fun m => m.2 != me } } bay ch

/-- The TLB entries that satisfy `p` go, with the outcomes of walks that lanes of the VF and the BTEs hold (R279). -/
def dropTlb (s : State) (vf : Nat) (p : TlbEnt → Bool) : State :=
  let keep (e : TlbEnt) : Bool := e.vf != vf || !p e
  mapAllWarps { s with
      cores := s.cores.map fun k => if k.tlb.isEmpty then k else { k with tlb := k.tlb.filter keep }
      bays := s.bays.map fun b => if b.tlb.isEmpty && b.xlat.isEmpty then b else { b with tlb := b.tlb.filter keep, xlat := [] } }
    fun k w => if k.vf = vf then { w with xlat := [] } else w
/-- The stage-1 leaf that holds an address, every stage-1 leaf, the stage-2 leaves that hold an address (R279). -/
def isLeafAt (st2 : Bool) (a : Nat) (e : TlbEnt) : Bool := e.st2 == st2 && decide (e.base ≤ a) && decide (a < e.base + e.size)
def isStage1 (e : TlbEnt) : Bool := !e.st2

end Sys2Proof.Machine
end

