-- ==== Sys2Proof/Machine/Link.lean ====
section
/-! DEFINITION. Sending on the fabric: ports and paths (R318, R319), order and replay (R320, R324), and the requests of
peer accesses (R325, R326, R328). The bodies of flits are byte strings of the model's own layout (DESIGN CHOICE, log entry 12). -/

namespace Sys2Proof.Machine

/-- Port of device `i` that is wired to device `j` (R318). -/
def portOf (i j : Nat) : Nat := if j < i then j else j - 1
/-- The device at the other end of a port. -/
def peerOf (i k : Nat) : Nat := if k < i then k else k + 1

/-- The link of this device to `j` is up (R319): its port is trained and the port's die is ACTIVE. -/
def linkUp (s : State) (j : Nat) : Bool :=
  let k := portOf s.fabric.dev j
  decide (j ≠ s.fabric.dev) && decide (j < s.fabric.pod) && (s.fabric.ports.getD k {}).up && (dieAt s (k / 2)).st == .active

/-- A link between two other devices is up, as far as this device knows. -/
def otherUp (s : State) (a b : Nat) : Bool := !(s.fabric.down.contains (a, b) || s.fabric.down.contains (b, a))

/-- The first hop to device `j` of the pod (R319): the device itself, or the lowest relay; none without a path. -/
def hopTo (s : State) (j : Nat) : Option Nat :=
  if s.fabric.pod ≤ j then none
  else if linkUp s j then some j
  else (List.range s.fabric.pod).find? fun r => r != j && r != s.fabric.dev && linkUp s r && otherUp s r j

/-- A flit with the header of its path and its place in the port's sequence (R321, R323). -/
def stamp (s : State) (dst hop lseq : Nat) : OutFlit → OutFlit
  | .ctl f =>
    let me := s.fabric.dev
    let r := if f.src ≠ me then me else hop
    let via := decide (hop ≠ dst) || decide (f.src ≠ me)
    .ctl { f with port := portOf me hop, via := via, relay := if via then r else 0, dst := dst, lseq := lseq }
  | .data f d => .data { f with port := portOf s.fabric.dev hop, lseq := lseq } d

def OutFlit.dst : OutFlit → Nat
  | .ctl f => f.dst
  | .data _ d => d
def OutFlit.src : OutFlit → Nat
  | .ctl f => f.src
  | .data f _ => f.src
def OutFlit.vf : OutFlit → Nat
  | .ctl f => f.vf
  | .data f _ => f.vf
def OutFlit.lseq : OutFlit → Nat
  | .ctl f => f.lseq
  | .data f _ => f.lseq

/-- Flits of a source for a device stand unacknowledged on a port other than `k`: nothing goes on a new path yet (R320). -/
def oldPath (s : State) (src dst k : Nat) : Bool :=
  (s.fabric.ports.mapIdx fun i p => (i, p)).any fun x => x.1 != k && x.2.replay.any fun o => o.dst == dst && o.src == src

/-- The hop that a flit takes: what this device relays goes on directly, and a fence marker goes to the relay whose path it is
for (R329). -/
def pathOf (s : State) (dst : Nat) (o : OutFlit) : Option Nat :=
  if o.src ≠ s.fabric.dev then (if linkUp s dst then some dst else none)
  else match o with
    | .ctl f => if f.kind = 6 ∧ f.via ∧ linkUp s f.relay then some f.relay else hopTo s dst
    | .data .. => hopTo s dst

/-- The warp whose store, atomic or send a flit of this device carries. -/
def warpOf (s : State) (dst : Nat) (f : Flit) : Option (Nat × Nat) :=
  if f.src ≠ s.fabric.dev then none
  else if f.kind = 2 ∨ f.kind = 3 then
    (s.fabric.reqs.find? fun r => r.xid == f.xid && r.dev == dst).bind fun r => match r.who with
      | .lane c x _ => some (c, x)
      | .bte .. => none
  else if f.kind = 8 then
    (s.wharf.sends.find? fun x => x.started && x.ended.isNone && x.xid == f.xid).map fun x => (x.crew, x.warp)
  else none
/-- A path, by destination and hop, has carried one more store, atomic or send of a warp since its last release (R329). -/
def notePath (s : State) (dst hop : Nat) : OutFlit → State
  | .data .. => s
  | .ctl f => match warpOf s dst f with
    | none => s
    | some (c, x) =>
      let k := dst + 16 * hop
      updWarp s c x fun w => { w with peers := (k, ((w.peers.find? (·.1 == k)).map (·.2)).getD 0 + 1) :: w.peers.filter (·.1 != k) }

/-- Sends a flit now, if there is a path and room in the port's replay buffer (R319, R324). -/
def trySend (s : State) (dst : Nat) (o : OutFlit) : Option State :=
  match pathOf s dst o with
  | none => none
  | some h =>
    let k := portOf s.fabric.dev h
    let p := s.fabric.ports.getD k {}
    if 8192 ≤ p.replay.length || oldPath s o.src dst k then none
    else
      let s := notePath s dst h o
      let o := stamp s dst h p.txSeq o
      some { s with fabric := { s.fabric with
        outbox := s.fabric.outbox ++ [o],
        ports := s.fabric.ports.set k { p with txSeq := (p.txSeq + 1) % 2 ^ 16, replay := p.replay ++ [o] } } }

/-- Sends the queued flits in order, those of each source and destination behind one that cannot go (R320). -/
def flushQ (s : State) : List (Nat × OutFlit) → List (Nat × OutFlit) → State
  | [], kept => { s with fabric := { s.fabric with sendq := kept } }
  | (d, o) :: qs, kept =>
    if kept.any (fun k => k.1 == d && k.2.src == o.src) then flushQ s qs (kept ++ [(d, o)])
    else match trySend s d o with
      | some s' => flushQ s' qs kept
      | none => flushQ s qs (kept ++ [(d, o)])
def flush (s : State) : State := flushQ s s.fabric.sendq []

/-- Hands a flit for a device to the fabric. -/
def sendFlit (s : State) (dst : Nat) (o : OutFlit) : State :=
  flush { s with fabric := { s.fabric with sendq := s.fabric.sendq ++ [(dst, o)] } }

/-- Notes the devices to which no path exists, each with the cycle at which the last one went (R319). -/
def notePaths (s : State) : State :=
  let gone := (List.range s.fabric.pod).filter fun j => j != s.fabric.dev && (hopTo s j).isNone
  { s with fabric := { s.fabric with lost := gone.map fun j =>
      (j, ((s.fabric.lost.find? (·.1 == j)).map (·.2)).getD s.cycle) } }

/-- What a port has not had acknowledged goes back to be sent first on the next path (R320). -/
def takeBack (s : State) (k : Nat) : State :=
  let lost := (s.fabric.ports.getD k {}).replay.map fun o => (o.dst, o)
  { s with fabric := { s.fabric with
      sendq := lost ++ s.fabric.sendq
      ports := s.fabric.ports.modify k fun p => { p with replay := [], refused := [], await := none, gaps := [] } } }
/-- Links have changed with the state of a die: its ports, if it is not ACTIVE, give back what they hold (R319). -/
def dieLinks (s : State) (die : Nat) : State :=
  notePaths (flush (if (dieAt s die).st = .active then s
    else [2 * die, 2 * die + 1].foldl takeBack s))

/-- A new transaction id (R321). DESIGN CHOICE: log entry 12. -/
def newXid (s : State) : Nat × State :=
  (s.fabric.nextXid % 2 ^ 16, { s with fabric := { s.fabric with nextXid := s.fabric.nextXid + 1 } })

/-- A BODY of 16 bytes (R321). -/
def pad16 (bs : List Byte) : List Byte := bs ++ List.replicate (16 - bs.length) 0
/-- A control flit of this device. -/
def ctlFlit (s : State) (vf dst kind xid : Nat) (body : List Byte) (aux : Nat) : OutFlit :=
  .ctl {
    port := 0, via := false, relay := 0, vf := vf, dst := dst, src := s.fabric.dev, kind := kind, xid := xid, lseq := 0,
    body := pad16 body, aux := aux }
def sendCtl (s : State) (vf dst kind xid : Nat) (body : List Byte) (aux : Nat) : State :=
  sendFlit s dst (ctlFlit s vf dst kind xid body aux)

/-- The payload of a control flit in data flits of at most 496 B (R322). -/
def sendData (s : State) (vf dst xid : Nat) (bs : List Byte) : Nat → State
  | 0 => s
  | fuel + 1 =>
    match bs with
    | [] => s
    | _ => sendData (sendFlit s dst (.data { port := 0, lseq := 0, vf := vf, src := s.fabric.dev, xid := xid, payload := bs.take 496 } dst))
        vf dst xid (bs.drop 496) fuel

/-! ### The home's directory (R328) -/

/-- The lines in device memory of some places; what lies elsewhere is never cached. -/
def homeLines (ls : List Loc) : List Nat :=
  (ls.filterMap fun l => match l with | .dev k => some (k / 1024 * 1024) | _ => none).eraseDups
def holdersOf (s : State) (line : Nat) : List Nat := ((s.fabric.dir.find? (·.1 == line)).map (·.2)).getD []
def addHolder (s : State) (dev line : Nat) : State :=
  { s with fabric := { s.fabric with dir := (line, dev :: (holdersOf s line).filter (· != dev)) :: s.fabric.dir.filter (·.1 != line) } }
/-- A device holds a line no more; a line without holders has no entry. -/
def dropHolder (s : State) (dev line : Nat) : State :=
  let rest := s.fabric.dir.map fun x => if x.1 = line then (x.1, x.2.filter (· != dev)) else x
  { s with fabric := { s.fabric with dir := rest.filter (!·.2.isEmpty) } }
/-- INVAL goes to the holders of lines: device and line of each. -/
def sendInvals (s : State) (vf : Nat) (acks : List (Nat × Nat)) : State :=
  acks.foldl (fun s a =>
    let x := newXid s
    sendCtl (dropHolder x.2 a.1 a.2) vf a.1 0x05 x.1 (bytesOfNat 8 a.2) 0) s
/-- A write of this device to its own places: it may be performed, or INVAL has gone to the holders of their lines and
it waits for each INVACK (R328). -/
def homeClear (s : State) (vf : Nat) (ls : List Loc) : Bool × State :=
  if s.fabric.dir.isEmpty && s.fabric.invals.isEmpty then (true, s)
  else
    let lines := homeLines ls
    let acks := lines.flatMap fun l => (holdersOf s l).map fun d => (d, l)
    let s := sendInvals s vf acks
    let s := { s with fabric := { s.fabric with invals := s.fabric.invals ++ acks } }
    (!(s.fabric.invals.any fun x => lines.contains x.2), s)
/-- The same for a span of virtual bytes; a span that cannot be written waits for nothing here. -/
def spanClear (s : State) (vf va n : Nat) : Bool × State :=
  if s.fabric.dir.isEmpty && s.fabric.invals.isEmpty then (true, s)
  else match spanLoc s vf false true va n with
    | .ok ls => homeClear s vf ls
    | .error _ => (true, s)

/-- The logical time of a write of a span (R178). -/
def spanTime (s : State) (vf va n : Nat) : Nat :=
  match spanLoc s vf false true va n with
  | .ok ls => writeTime s (spanTags vf va ls) (engTime s)
  | .error _ => engTime s

/-! ### Peer accesses -/

/-- What an import slot gives (R326): its handle, no valid one, or a table on a die out of service (R315). -/
inductive Import where
  | wait
  | absent
  | handle (h : Nat)
  deriving DecidableEq, Repr

/-- The import slot of a peer address (R325, R326). -/
def importHandle (s : State) (vf va : Nat) : Import :=
  match readVa s vf ((vfAt s vf).imbase + 16 * (va / 2 ^ 40 % 256)) 16 with
  | .ok bs => if leAt bs 4 4 % 2 = 1 then .handle (leAt bs 0 4) else .absent
  | .error (0, _, _) => .wait
  | .error _ => .absent

/-- Bytes of the peer window that this device's L2 holds (R328). -/
def peerCopy (s : State) (handle va n : Nat) : Option (List Byte) :=
  let o := va % 2 ^ 40
  (s.fabric.peerCopies.find? fun c => c.2.1 == handle && decide (c.2.2.1 ≤ o) && decide (o + n ≤ c.2.2.1 + c.2.2.2.length)).map
    fun c => (c.2.2.2.drop (o - c.2.2.1)).take n

/-- Body of RDREQ, WRREQ and ATOMREQ: import slot, offset, size, then OP and operands (R321). No request has more than 16
bytes. -/
def reqBody (va n : Nat) (op : List Byte) : List Byte := bytesOfNat 1 (va / 2 ^ 40) ++ bytesOfNat 5 va ++ bytesOfNat 1 n ++ op

/-- OP and operands of an ATOMREQ: up to 8 bytes fit the BODY; those of a 64-bit compare-and-swap follow in a data flit.
DESIGN CHOICE: log entry 12. -/
def atomParts (op : Nat) (operands : List Byte) : List Byte × List Byte :=
  if operands.length ≤ 8 then (bytesOfNat 1 op ++ operands, []) else (bytesOfNat 1 op, operands)

/-- Makes a peer request; it is sent at once or when a path exists (R319). -/
def peerAsk (s : State) (vf : Nat) (who : PeerWho) (handle kind va n : Nat) (op data : List Byte) : State :=
  let dev := handle % 16
  let x := newXid s
  let s := x.2
  let xid := x.1
  let r : PeerReq := {
    xid := xid, dev := dev, vf := vf, who := who, kind := kind, since := s.cycle, aux := handle, body := reqBody va n op,
    data := data }
  let s := { s with fabric := { s.fabric with reqs := s.fabric.reqs ++ [r] } }
  sendData (sendCtl s vf dev (kind + 1) xid r.body handle) vf dev xid data 64

/-- The request of a requester, if it has made one. -/
def peerReq (s : State) (who : PeerWho) : Option PeerReq := s.fabric.reqs.find? (·.who == who)

/-- Requests are done with: their answers fit the RESP, so no data can come for them later. -/
def dropReqs (s : State) (f : PeerReq → Bool) : State :=
  { s with fabric := { s.fabric with reqs := s.fabric.reqs.filter fun r => !f r } }

end Sys2Proof.Machine
end

