-- ==== Sys2Proof/Machine/Access.lean ====
section
/-! DEFINITION. Accesses of threads: where the bytes of a lane's access lie and the checks of R183 on them, loads with
leases (R170, R178), stores and atomics as they are issued and as they are performed (R176, R189 to R191), and the
checks every word makes before it acts (R22, R290, R291). -/

namespace Sys2Proof.Machine

/-! ### Atomic operations (R189, R190) -/

/-- Signed reading of `b` bits. -/
def sgn (b x : Nat) : Int := if x < 2 ^ (b - 1) then x else (x : Int) - 2 ^ b

/-- f(old, x) of R189 on `b` bits. -/
def atomNew (op : AtomOp) (b old x : Nat) : Nat :=
  match op with
  | .add => (old + x) % 2 ^ b
  | .min => if sgn b x < sgn b old then x else old
  | .max => if sgn b old < sgn b x then x else old
  | .minu => min old x
  | .maxu => max old x
  | .and => Nat.land old x
  | .or => Nat.lor old x
  | .xor => Nat.xor old x
  | .exch => x

/-- f(old, x) of R190: RNE, subnormals kept, no flags. -/
def atomfNew (op : AtomFOp) (old x : Nat) : Nat :=
  match op with
  | .faddF32 => (fp32.add 0 false old x).1
  | .faddBf16x2 => (bf16.add 0 false (old % 2 ^ 16) (x % 2 ^ 16)).1 + 2 ^ 16 * (bf16.add 0 false (old / 2 ^ 16) (x / 2 ^ 16)).1
  | .fminF32 => (fp32.minmax false false old x).1
  | .fmaxF32 => (fp32.minmax true false old x).1

/-- The value an atomic leaves (R189 to R191): `x` the operand or comparand, `y` the new value of a compare-and-swap. -/
def rmwNew (op : RmwOp) (b old x y : Nat) : Nat :=
  match op with
  | .int o => atomNew o b old x
  | .flt o => atomfNew o old x
  | .cas => if old = x then y else old

/-! ### Performing stores and atomics -/

/-- A scratchpad byte pinned by an operation of the quad's QME (R188). -/
def pinned (s : State) : Loc → Bool
  | .sp q o => (quadAt s q).qme.any fun e => e.pins.any fun p => decide (p.1 ≤ o) && decide (o < p.1 + p.2)
  | _ => false

def MemOp.locs : MemOp → List Loc
  | .store _ _ _ bs => bs.map (·.1)
  | .rmw _ _ _ _ _ ls _ _ _ => ls
  | .wread _ _ _ _ _ ls _ => ls
def MemOp.tags : MemOp → List Tag
  | .store _ _ t _ => t
  | .rmw _ _ _ _ _ _ t _ _ => t
  | .wread _ _ _ _ _ _ t => t

/-- The bank of a weight-store offset, and the bank of a die that is in its refresh window (R174, R175). -/
def wsBank (o : Nat) : Nat := o / 1024 % 64
def wsRefreshing (s : State) (die : Nat) : Nat := (s.cycle - (dieAt s die).epoch) / 2000 % 64

/-- A place that what a crew on a die has issued cannot reach now: a pinned region (R188), a die out of service (R315), a bank
in its refresh window (R175). A die that is being drained still takes what its own crews have issued (R314).
DEDUCED: log entry 42. -/
def locHeld (s : State) (die : Nat) (l : Loc) : Bool :=
  let out (d : Nat) : Bool := (dieAt s d).st != .active && !((dieAt s d).st == .draining && d == die)
  pinned s l || match l with
    | .dev k => out (dieOfKey k)
    | .ws d o => out d || wsBank o == wsRefreshing s d
    | _ => false
/-- The access of a crew on a die cannot be performed yet. -/
def MemOp.blocked (s : State) (die : Nat) (o : MemOp) : Bool := o.locs.any (locHeld s die)

/-- The core's own copy of a written line (R170): a copy that no other write has passed takes the bytes, an older one
goes. -/
def updateCopy (s : State) (ts : List Tag) (now : Nat) (bs : List (Loc × Byte)) (cp : Copy) : Option Copy :=
  if ts.contains cp.tag then
    if cp.wts = (lineTimes s cp.tag).1 then
      some { cp with wts := now, rts := max cp.rts now, bytes := cp.bytes.map fun c =>
        match bs.find? fun b => b.1 == .dev c.1 with
        | some b => (c.1, b.2)
        | none => c }
    else none
  else some cp

/-- A write by a core is performed (R178): after the leases of its lines, and the core's own copies take it. -/
def writtenBy (s : State) (core : Nat) (ts : List Tag) (bs : List (Loc × Byte)) : State :=
  if ts.isEmpty then s
  else
    let now := writeTime s ts (ltimeOf s core)
    updCore (raiseTime (writeLines s ts now) core now) core fun k =>
      { k with copies := k.copies.filterMap (updateCopy s ts now bs) }

/-- R225: a thread store to the CONS word of a bound refill block is reported to the queue engine.
DEDUCED: log entry 36. -/
def reportCons (s : State) (bs : List (Loc × Byte)) : State :=
  let hit (q : Nat) (b : Binding) : Bool := bs.any fun x => match x.1 with
    | .sp q' o => q' == q && decide (b.base + b.block ≤ o) && decide (o < b.base + b.block + 4)
    | _ => false
  match bs with
  | (.sp q _, _) :: _ => updQuad s q fun t => { t with bindings := t.bindings.map fun b => if hit q b then { b with pending := true } else b }
  | _ => s

/-- The atomic unit of a line in device memory (R180): the slice of its tag. -/
def atomUnit (ls : List Loc) (ts : List Tag) : Option Nat :=
  match ls, ts with
  | .dev k :: _, t :: _ => some (flatSlice (dieOfKey k) (t.row * 1024))
  | _, _ => none
/-- The place of a source in the order of one cycle: the unit's own die, the other dies, the peers (R180). -/
def sourceRank (unit die : Nat) : Nat := if unit / 128 = die then 0 else 1 + die
def peerRank (dev : Nat) : Nat := 9 + dev
/-- A unit serves an atomic: one whose source comes before that of an atomic it has already served in this cycle falls
into the next cycle (R180). -/
def unitServes (s : State) (unit : Option Nat) (rank : Nat) : State :=
  match unit with
  | none => s
  | some u =>
    let late := s.units.any fun x => x.1 == u && x.2.1 == s.cycle && decide (rank < x.2.2)
    let now := if late then s.cycle + 1 else s.cycle
    { s with cycle := now, units := (u, now, rank) :: s.units.filter fun x => x.2.1 == now && x.1 != u }

/-- The registers a load writes (R79, R81): zero-filled, or filled with the top bit. -/
def loadRegs (sz : Size) (sx : Bool) (bs : List Byte) : List Word :=
  let n := Size.bytes sz
  let x := wordOfBytes bs
  if n < 4 then [if sx && decide (2 ^ (8 * n - 1) ≤ x) then w32 (x + 2 ^ 32 - 2 ^ (8 * n)) else w32 x]
  else (List.range (n / 4)).map fun i => w32 (x / 2 ^ (32 * i))
def regWrites (d l : Nat) (xs : List Word) : List RegWrite := xs.mapIdx fun i x => .v l (d + i) x
/-- The registers that take the old value of an atomic. -/
def oldRegs (size old : Nat) : List Word := w32 old :: (if size = 8 then [w32 (old / 2 ^ 32)] else [])

/-- Performs one access of a crew: the state, and what an atomic or a read adds to the result it belongs to. -/
def performOp (s : State) (k : Crew) : MemOp → State × Option (Nat × List RegWrite)
  | .store _ _ ts bs =>
    let done := bs.map fun b => (b.1, (locGet s k.vf b.1 &&& ~~~b.2.2) ||| (b.2.1 &&& b.2.2))
    (reportCons (writtenBy (putLocs s k.vf done) k.core ts done) done, none)
  | .rmw id lane d op size ls ts x y =>
    let s := unitServes s (atomUnit ls ts) (((atomUnit ls ts).map fun u => sourceRank u (dieOfCore k.core)).getD 0)
    let old := wordOfBytes (ls.map (locGet s k.vf))
    let new := rmwNew op (8 * size) old x y
    let done := ls.zip (bytesOfNat size new)
    let s := if op = .cas && old != x then readBy s k.core ts 0 else writtenBy (putLocs s k.vf done) k.core ts done
    (s, some (id, regWrites d lane (oldRegs size old)))
  | .wread id lane d sz sx ls ts =>
    (readBy s k.core ts 0, some (id, regWrites d lane (loadRegs sz sx (ls.map (locGet s k.vf)))))

/-- What has been read joins its result (R16, R175, R189). -/
def takeOld (w : Warp) (r : Nat × List RegWrite) : Warp :=
  { w with pend := w.pend.map fun p => if p.id = r.1 then { p with need := p.need - 1, writes := p.writes ++ r.2 } else p }

/-- Performs the oldest access of a warp, unless it must wait for a pin (R188), a die (R315), a refresh window (R175) or
INVACKs (R328). -/
def performHead (s : State) (c x : Nat) : State :=
  match findCrew s c, findWarp s c x with
  | some k, some w =>
    match w.memq with
    | [] => s
    | o :: _ =>
      let h := homeClear s k.vf o.locs
      if o.blocked s (dieOfCore k.core) then s
      else if !h.1 then h.2
      else
        let r := performOp h.2 k o
        updWarp r.1 c x fun w =>
          let w := { w with memq := w.memq.drop 1 }
          match r.2 with
          | some v => takeOld w v
          | none => w
  | _, _ => s

/-- Performs what a warp has issued, in order, as far as it goes. -/
def performN (s : State) (c x : Nat) : Nat → State
  | 0 => s
  | n + 1 => performN (performHead s c x) c x n
def settle (s : State) : State :=
  if s.w.memq.isEmpty then s else performN s s.c.id s.w.idx s.w.memq.length

/-- Performs what every warp of some crews has issued. -/
def settleIf (p : Crew → Bool) (s : State) : State :=
  ((merged s).filter p).foldl (fun s k =>
    (List.range k.warps.length).foldl (fun s x =>
      match k.warps[x]? with
      | some w => if w.memq.isEmpty then s else performN s k.id x w.memq.length
      | none => s) s) s
/-- DEDUCED: log entry 76. -/
def settleAll (s : State) : State := settleIf (fun _ => true) s

/-! ### Loads (R170, R178) -/

/-- A copy of a line joins others: sectors of the same version stay (R167, R170). -/
def keepCopy (s : State) (fn : Nat) (now lease : Nat) (cs : List Copy) (t : Tag) (pieces : List (Nat × Nat)) : List Copy :=
  let wts := (lineTimes s t).1
  let inNew (k : Nat) : Bool := pieces.any fun p => decide (p.1 ≤ k) && decide (k < p.1 + p.2)
  let old := match cs.find? (·.tag == t) with
    | some cp => if cp.wts = wts then cp.bytes.filter fun c => !inNew c.1 else []
    | none => []
  let new : List Host.Cell := pieces.flatMap fun p => (List.range p.2).map fun i => (p.1 + i, devGet s fn (p.1 + i))
  { tag := t, wts := wts, rts := now + lease, granted := s.cycle, bytes := new ++ old } :: cs.filter (·.tag != t)

/-- The 128-byte sectors of places in device memory (R167). -/
def sectorsOf (ls : List Loc) : List (Nat × Nat) :=
  ((ls.filterMap fun l => match l with | .dev k => some (k / 128 * 128) | _ => none).eraseDups).map (·, 128)

/-- What a load moves: the lines with the pieces of them that come into L1, and whether the bay holds replicas. -/
structure Fetch where
  tags : List Tag
  pieces : List (Tag × List (Nat × Nat))
  replica : Bool
  deriving DecidableEq, Repr

/-- The time at which the core loads from the home of lines (R178). -/
def homeTime (s : State) (f : Fetch) : Nat := readTime s f.tags (ltimeOf s s.c.core)
/-- Sectors come from their home into the core's L1 under a lease; a replica bay keeps them too (R167, R170). -/
def fetchHome (s : State) (f : Fetch) (lease : Nat) : State :=
  let now := homeTime s f
  let add (cs : List Copy) : List Copy := f.pieces.foldl (fun cs p => keepCopy s s.c.vf now lease cs p.1 p.2) cs
  let s' := readLines s f.tags now lease
  let s' := if f.pieces.isEmpty then s' else updCore s' s.c.core fun k => { k with copies := add k.copies }
  if f.replica then updBay s' (bayOfCore s.c.core) fun b => { b with copies := add b.copies } else s'
/-- Loads bytes from their home: the core's time passes the last write of their lines (R178).
DESIGN CHOICE: log entry 73. -/
def loadHome (s : State) (f : Fetch) (lease : Nat) (ls : List Loc) : List Byte × State :=
  (ls.map (locGet s s.c.vf), raiseTime (fetchHome s f lease) s.c.core (homeTime s f))

/-- The copies that may serve a load: the core's own, and those of a replica bay. -/
def copiesFor (s : State) (f : Fetch) : List Copy :=
  ((coreAt s s.c.core).copies ++ (if f.replica then (bayAt s (bayOfCore s.c.core)).copies else [])).filter fun cp =>
    f.tags.contains cp.tag
/-- The time of a load from copies: not before the writes they hold (R178). -/
def copyTime (s : State) (cs : List Copy) : Nat := cs.foldl (fun m cp => max m cp.wts) (ltimeOf s s.c.core)
/-- A copy may be used at a time within its lease, and in the cycles for which a lease is given: 512 for `ld.poll`, else
16,384 (R170, R178). -/
def usable (s : State) (poll : Bool) (now : Nat) (cp : Copy) : Bool :=
  decide (now < cp.rts) && decide (s.cycle < cp.granted + (if poll then Config.leasePoll else Config.lease))

/-- The bytes of copies the core may still use, if they hold them all. -/
def copyBytes (s : State) (f : Fetch) (poll : Bool) (ls : List Loc) : Option (List Byte) :=
  let cs := copiesFor s f
  let cells := (cs.filter (usable s poll (copyTime s cs))).flatMap (·.bytes)
  ls.mapM fun l => match l with
    | .dev k => (cells.find? (·.1 == k)).map (·.2)
    | _ => none

/-- One lane's load: from leased copies where the device chooses to use them (R170: a free choice), else from home. -/
def loadBytes (s : State) (f : Fetch) (poll : Bool) (ls : List Loc) : List Byte × State :=
  let lease := if poll then Config.leasePoll else Config.lease
  match copyBytes s f poll ls with
  | some bs =>
    if Config.useCopy s.freeCtr then (bs, raiseTime { s with freeCtr := s.freeCtr + 1 } s.c.core (copyTime s (copiesFor s f)))
    else loadHome { s with freeCtr := s.freeCtr + 1 } f lease ls
  | none => loadHome s f lease ls

/-- The fetch of a flat access, and of one that is never cached. -/
def flatFetch (vf : Nat) (as : List Nat) (ls : List Loc) : Fetch :=
  let ts := flatTags vf as ls
  let of (t : Tag) : List Loc := (as.zip ls).filterMap fun x => if flatTag vf x.1 = t then some x.2 else none
  { tags := ts, pieces := (ts.filter (·.tensor < 2 ^ 16)).map fun t => (t, sectorsOf (of t)), replica := false }
def placeFetch (ls : List Loc) : Fetch := { tags := placeTags ls, pieces := [], replica := false }

/-! ### Reaching the bytes of a lane's access -/

/-- What the checks of R183 give for one lane. -/
inductive Reach where
  | bad (f : LaneFault)
  /-- A walk must be made (R278). -/
  | walk (w : Want)
  /-- The bytes lie on a die out of service (R315), or a peer has not answered. -/
  | hold
  | go (ls : List Loc)
  /-- Peers must be asked: for each access its first byte within the lane's, its handle, address and bytes. -/
  | ask (ps : List (Nat × Nat × Nat × Nat))
  /-- A peer has done the access and gave these bytes. -/
  | peer (bs : List Byte)
  deriving DecidableEq, Repr

def offLoc (l : Loc) (i : Nat) : Loc :=
  match l with
  | .dev k => .dev (k + i)
  | .host g => .host (g + i)
  | .sp q o => .sp q (o + i)
  | .ws d o => .ws d (o + i)
  | .peer x => .peer x

/-- Translations of an access's bytes; one lookup where the bytes lie in one page. -/
def xlBytes (s : State) (home : Option Nat) (lane : Nat) (as : List Nat) : List (Nat × Option Xl) :=
  match as with
  | [] => []
  | a0 :: _ =>
    if as == (List.range as.length).map (a0 + ·) && a0 / 8192 == (a0 + as.length - 1) / 8192 then
      let x := threadXl s home lane a0
      as.mapIdx fun i a => (a, x.map fun x => match x with
        | .ok l r w p => .ok (offLoc l i) r w p
        | x => x)
    else as.map fun a => (a, threadXl s home lane a)

/-- Steps 3 of R183 for a flat or tensor access at virtual bytes: TRANSLATION, PERMISSION, ARMED. -/
def checkBytes (s : State) (home : Option Nat) (lane : Nat) (rd wr arm : Bool) (as : List Nat) : Reach :=
  let xs := xlBytes s home lane as
  match xs.find? (·.2.isNone) with
  | some x => .walk (wantOf s home lane x.1)
  | none =>
    let ys : List (Nat × Xl) := xs.filterMap fun x => x.2.map fun y => (x.1, y)
    if ys.any (·.2 == .wait) then .hold
    else
      match ys.find? (·.2.isFail) with
      | some (a, .fail cls code page) => .bad ⟨lane, cls, code, a, page⟩
      | _ =>
        let zs : List (Nat × Xl) := ys.map fun y => (y.1, rights y.2 rd wr)
        match zs.find? (·.2.isFail) with
        | some (a, .fail cls code page) => .bad ⟨lane, cls, code, a, page⟩
        | _ =>
          let ls := zs.filterMap fun z => match z.2 with | .ok l _ _ _ => some (z.1, l) | _ => none
          match (if arm then ls.find? fun z => armedAt s z.2 else none) with
          | some (a, _) => .bad ⟨lane, 3, 1, a, a⟩
          | none => .go (ls.map (·.2))

/-- Who asks for the access that begins at byte `i` of a lane's bytes. -/
def laneAsks (s : State) (lane i : Nat) : PeerWho := .lane s.c.id s.w.idx (lane + 64 * i)
/-- One access of a lane to the peer window, which begins at byte `i` of the lane's bytes (R326). -/
def reachPeer (s : State) (lane i : Nat) (wr peerOk : Bool) (va n : Nat) : Reach :=
  match importHandle s s.c.vf va with
  | .wait => .hold
  | .absent => .bad ⟨lane, 4, 0x0A, va, va⟩
  | .handle h =>
    if !peerOk then .go []
    else match peerReq s (laneAsks s lane i) with
      | none => match (if wr then none else peerCopy s h va n) with
        | some bs => .peer bs
        | none => .ask [(i, h, va, n)]
      | some r => match r.answer with
        | none => .hold
        | some (0, bs) => .peer bs
        | some (2, _) => .bad ⟨lane, 4, 0x0C, va, va⟩
        | some _ => .bad ⟨lane, 4, 0x0B, va, va⟩

/-- The byte accesses of a lane together (R83): a walk and a wait come first, then the first failure in byte order; peers are
asked only where no byte fails. -/
def joinReach (rs : List Reach) : Reach :=
  let asks := rs.flatMap fun r => match r with | .ask ps => ps | _ => []
  match rs.find? fun r => match r with | .walk _ => true | _ => false with
  | some r => r
  | none =>
    if rs.contains .hold then .hold
    else match rs.find? fun r => match r with | .bad _ => true | _ => false with
      | some r => r
      | none =>
        if !asks.isEmpty then .ask asks
        else if rs.all fun r => match r with | .peer _ => true | _ => false then
          .peer (rs.flatMap fun r => match r with | .peer bs => bs | _ => [])
        else .go (rs.flatMap fun r => match r with
          | .go ls => ls
          | .peer bs => bs.map Loc.peer
          | _ => [])

/-- An access at virtual bytes (R183). One that touches the peer window is one access where it is aligned, else one for each
byte (R83, R325). DEDUCED: log entry 42. -/
def reachVa (s : State) (lane : Nat) (rd wr arm peerOk : Bool) (as : List Nat) : Reach :=
  let a0 := as.headD 0
  if !as.any inPeerWindow then checkBytes s none lane rd wr arm as
  else if a0 % as.length = 0 then reachPeer s lane 0 wr peerOk a0 as.length
  else joinReach (as.mapIdx fun i a => if inPeerWindow a then reachPeer s lane i wr peerOk a 1 else checkBytes s none lane rd wr arm [a])

/-- Bytes of a flat access at a window offset (R80). -/
def flatBytes (k : Crew) (o n : Nat) : List Nat := (List.range n).map fun i => (k.flat + (o + i) % 2 ^ 32) % 2 ^ 56

/-- Bytes of a scratchpad access at a share offset (R171, R187). -/
def reachSp (s : State) (lane : Nat) (arm align : Bool) (o n : Nat) : Reach :=
  if s.c.shareSize < o + n then .bad ⟨lane, 4, 2, o, o⟩
  else if align && o % n != 0 then .bad ⟨lane, 4, 1, o, o⟩
  else
    let q := quadOfCore s.c.core
    let ls := (List.range n).map fun i => Loc.sp q (s.c.shareBase + o + i)
    match (if arm then ls.findIdx? (armedAt s) else none) with
    | some i => .bad ⟨lane, 3, 1, o + i, o + i⟩
    | none => .go ls

/-- Bytes of a weight-store read at a partition offset (R174, R187). -/
def reachWs (s : State) (lane o n : Nat) : Reach :=
  let v := vfAt s s.c.vf
  let d := dieOfCore s.c.core
  if v.wsLen < o + n then .bad ⟨lane, 4, 3, o, o⟩
  else if (dieAt s d).st ≠ .active && (dieAt s d).st ≠ .draining then .hold
  else .go ((List.range n).map fun i => .ws d (v.wsbase * 2 ^ 20 + o + i))

def faultsOf (rs : List (Nat × Reach)) : List LaneFault := rs.filterMap fun r => match r.2 with
  | .bad f => some f
  | _ => none
def Reach.isWalk : Reach → Bool
  | .walk _ => true
  | _ => false
def Reach.isAsk : Reach → Bool
  | .ask .. => true
  | _ => false

/-- Starts the walks that lanes need. -/
def askWalks (s : State) (rs : List (Nat × Reach)) : State :=
  rs.foldl (fun s r => match r.2 with
    | .walk w => wantWalk s r.1 w
    | _ => s) s
/-- Makes the peer requests of lanes, in byte order. `ask` gives OP and operands, and the data of a lane's bytes. -/
def askPeers (s : State) (kind : Nat) (ask : Nat → List Byte × List Byte) (rs : List (Nat × Reach)) : State :=
  rs.foldl (fun s r => match r.2 with
    | .ask ps => ps.foldl (fun s p =>
      let data := if kind = 1 then ((ask r.1).2.drop p.1).take p.2.2.2 else (ask r.1).2
      peerAsk s s.c.vf (laneAsks s r.1 p.1) p.2.1 kind p.2.2.1 p.2.2.2 (ask r.1).1 data) s
    | _ => s) s

/-- Lanes fail and no shared entry is free: the whole warp faults (R266). -/
def wholeFault (s : State) (rs : List (Nat × Reach)) : Bool := !(faultsOf rs).isEmpty && (sharedEntry s s.c.core s.c.vf).isNone

/-- A word's lanes with what the checks gave. The word stalls until every walk has ended, then until every peer has
answered; no peer is asked where a lane has failed and the whole warp must fault (R266). DEDUCED: log entry 84. -/
def gather (s : State) (f : Nat → Reach) (kind : Nat) (ask : Nat → List Byte × List Byte) : Except State (List (Nat × Reach)) :=
  let rs := (lanesOf s.iss.active).map fun l => (l, f l)
  if rs.any (·.2.isWalk) then .error (stalled (askWalks s rs))
  else if rs.any (·.2.isAsk) && !wholeFault s rs then .error (stalled (askPeers s kind ask rs))
  else if rs.any (·.2 == .hold) then .error (stalled s)
  else .ok rs

/-- A peer request that a lane of Active has made. -/
def ofActive (s : State) (r : PeerReq) : Bool :=
  match r.who with
  | .lane c x l => c == s.c.id && x == s.w.idx && s.iss.active.getLsbD (l % 64)
  | _ => false
/-- A store or an atomic that its peer has done. -/
def peerDone (r : PeerReq) : Bool := r.kind != 0 && r.answer.any (·.1 == 0)

/-- The checks are over: the translations and peer answers of the Active lanes are used up, and the failing lanes form a
fragment. Where the whole warp faults, the lanes keep the answers to stores and atomics, so that their next issue does none
of them again (R266, R328). Nothing is used up while no entry can be taken (R262). DEDUCED: log entry 84. -/
def closeChecks (s : State) (rs : List (Nat × Reach)) : State :=
  if !(faultsOf rs).isEmpty && (faultEntry s).isNone then stalled s
  else
    let whole := wholeFault s rs
    let s := dropReqs { s with w := { s.w with xlat := s.w.xlat.filter fun x => !s.iss.active.getLsbD x.lane } } fun r =>
      ofActive s r && !(whole && peerDone r)
    faultLanes s (faultsOf rs)

/-- The line of an element access: its tag in device memory, else those of places that are never cached. -/
def tensorTags (t : Tag) (ls : List Loc) : List Tag :=
  if ls.all fun l => match l with | .dev _ => true | _ => false then [t] else placeTags ls

/-- The last result window, counted by what has to be performed, or the issuing of a store's bytes. -/
def enqueue (s : State) (o : MemOp) : State := { s with w := { s.w with memq := s.w.memq ++ [o] } }

/-! ### Checks before a word acts -/

/-- R291: the lowest level that may read or write a special register, none where no level may. -/
def readLevel (idx : Nat) : Option Nat := if idx ≤ 26 then some 0 else if 32 ≤ idx && idx ≤ 35 then some 1 else none
def writeLevel (idx : Nat) : Option Nat :=
  if idx = 18 then some 1 else if idx = 19 || idx = 20 || idx = 21 then some 0
  else if idx = 32 || idx = 34 || idx = 35 then some 1 else none

/-- R36, R272, R290, R291: the word may not run at this level. `sret` is checked with the Active set of the bundle as it issues:
beside a memory word on which lanes fault it acts for the rest. DESIGN CHOICE: log entry 107. -/
def privBad (i : Instr) (s : State) : Bool :=
  match i with
  | .trap _ => s.w.priv != 0
  | .sret => s.w.priv == 0 || !s.w.trapV || s.iss.active != trapSet s.w
  | .srd _ _ idx _ => match readLevel idx with
    | some l => decide (s.w.priv < l)
    | none => true
  | .swr _ idx _ => match writeLevel idx with
    | some l => decide (s.w.priv < l)
    | none => true
  | .fstat .. | .fresume .. | .fkill .. | .tlbinv .. | .lres .. | .wsopen .. | .wsclose .. => s.w.priv == 0
  | _ => false

/-- The lanes of Active in which the predicate of a branch is true (R152). -/
def takers (s : State) (p : Nat) : LaneMask := maskOf fun l => s.iss.active.getLsbD l && rdP s.old p l

/-- R22, R24: the class with which a word kills the warp, if it does; the lowest where several hold. -/
def killOf (i : Instr) (s : State) : Option KillClass :=
  if regrange s.w.window i then some .regrange
  else if (match i with
    | .rgive n => decide (s.w.window < 8 * n + 8)
    | .rclaim n => decide (128 < s.w.window + 8 * n)
    | _ => false) then some .regrange
  else if (match i with
    | .bvUni p _ => takers s p != s.iss.active && takers s p != 0
    | _ => false) then some .vote
  else if (match i with
    | .trap n => s.w.priv == 0 && liveMask s != 0 && decide ((vfAt s s.c.vf).trapsize < 12 * (n + 1))
    | _ => false) then some .fetch
  else if privBad i s then some .priv
  else none

/-- Words that act only once every access the warp issued before has been performed (R193, R289, R297, R299, R301). -/
def afterPerformed (i : Instr) : Bool :=
  memWord i || match i with
    | .wake .. | .fresume .. | .fkill .. | .lres .. => true
    | _ => false

/-- The word cannot issue yet: an access must be performed first, the miss queue of the die is full (R278), or a result
of an earlier bundle must arrive (R156). -/
def stallOf (i : Instr) (s : State) : Bool :=
  (afterPerformed i && !s.w.memq.isEmpty) || (memWord i && missFull s (dieOfCore s.c.core)) ||
    match i with
    | .rgive _ => s.w.pend.any fun p => decide (p.id < s.old.nextId) && !p.arrived && !p.ready
    | _ => false

/-- What a meaning answers. -/
abbrev Out : Type := Host.Outcome State Fault Refusal

/-- Issues a word: it kills its warp, waits, or takes effect. -/
def issue (i : Instr) (s : State) (f : State → State) : Out :=
  match killOf i s with
  | some k => .next (kill k s)
  | none => if stallOf i s then .next { s with iss := { s.iss with stall := true } } else .next (f s)

/-- A step of the device while no level-2 alarm has stopped it (R361). DESIGN CHOICE: log entry 11. -/
def live (s : State) (f : State → State) : Out := .next (if s.halted then s else f s)

end Sys2Proof.Machine
end

