-- ==== Sys2Proof/Machine/Float.lean ====
section
/-! DEFINITION. Meanings of the floating-point, conversion, special-function and hash words (R86 to R99): modes are read
with the operands (R42), flags are the union over the lanes that the word acts on (R86). -/

namespace Sys2Proof.Machine

/-- RM and FTZ as the word reads them (R40, R42). -/
def rmOf (s : State) : Nat := s.old.fpmode.toNat % 4
def ftzOf (s : State) : Bool := s.old.fpmode.getLsbD 2

/-- Union of the exceptions of the lanes the word acts on (R41, R86). -/
def unionFlags (m : LaneMask) (f : Nat → FpFlags) : FpFlags := (lanesOf m).foldl (fun a l => a ||| f l) 0

/-- A 32-bit result in each lane with its flags; a pair; a predicate. -/
def fpV (s : State) (d : Nat) (f : Nat → Nat × FpFlags) : State :=
  raise (wrV s d fun l => w32 (f l).1) (unionFlags (liveMask s) fun l => (f l).2)
def fpV2 (s : State) (d : Nat) (f : Nat → Nat × FpFlags) : State :=
  raise (wrV2 s d fun l => (f l).1) (unionFlags (liveMask s) fun l => (f l).2)
def fpP (s : State) (d : Nat) (f : Nat → Bool × FpFlags) : State :=
  raise (wrP s d fun l => (f l).1) (unionFlags (liveMask s) fun l => (f l).2)

/-- An FP32 operation on A and b (R88). -/
def vf2 (s : State) (u : Bool) (d a b : Nat) (f : Nat → Nat → Nat × FpFlags) : State :=
  fpV s d fun l => f (rdV s.old a l).toNat (opB s u b l).toNat
/-- An FP64 operation on pairs (R91). -/
def vd2 (s : State) (d a b : Nat) (f : Nat → Nat → Nat × FpFlags) : State :=
  fpV2 s d fun l => f (rdV2 s.old a l) (rdV2 s.old b l)

/-- An element operation on both halves of packed registers (R92). -/
def half2 (f : Nat → Nat → Nat → Nat × FpFlags) (x y z : Word) : Nat × FpFlags :=
  let lo := f (x.toNat % 2 ^ 16) (y.toNat % 2 ^ 16) (z.toNat % 2 ^ 16)
  let hi := f (x.toNat / 2 ^ 16) (y.toNat / 2 ^ 16) (z.toNat / 2 ^ 16)
  (lo.1 + 2 ^ 16 * hi.1, lo.2 ||| hi.2)
/-- FP16 or BF16 (R92). -/
def vhFmt (f : Bool) : Fmt := if f then fp16 else bf16
def vh2 (s : State) (d a b : Nat) (f : Nat → Nat → Nat → Nat × FpFlags) : State :=
  fpV s d fun l => half2 f (rdV s.old a l) (rdV s.old b l) (rdV s.old d l)

/-- `n` elements of `w` bits packed, element 0 lowest, with the union of their flags (R95). -/
def packed (w n : Nat) (f : Nat → Nat × FpFlags) : Nat × FpFlags :=
  (List.range n).foldl (fun acc e => (acc.1 + 2 ^ (w * e) * ((f e).1 % 2 ^ w), acc.2 ||| (f e).2)) (0, 0)

/-- An FP32 source element of a conversion (R54: FTZ acts on the input). -/
def src32 (s : State) (a l : Nat) : Num := fp32.decodeFtz (ftzOf s) (rdV s.old a l).toNat
/-- An integer as `b` bits. -/
def intBits (b : Nat) (r : Int × FpFlags) : Nat × FpFlags := ((r.1 % 2 ^ b).toNat, r.2)

/-- A special function: its result and flags come with its window (R96, R42). -/
def sfuOp (s : State) (i : Instr) (fn d a : Nat) : State :=
  let f (l : Nat) := sfu fn (rmOf s) (ftzOf s) (rdV s.old a l)
  resV s i d (fun l => w32 (f l).1) (unionFlags (liveMask s) fun l => (f l).2) true

/-- R88. -/
def execVfadd (u : Bool) (d a b : Nat) (s : State) : Out :=
  issue (.vfadd u d a b) s fun s => vf2 s u d a b (fp32.add (rmOf s) (ftzOf s))

/-- R88. -/
def execVfsub (u : Bool) (d a b : Nat) (s : State) : Out :=
  issue (.vfsub u d a b) s fun s => vf2 s u d a b (fp32.sub (rmOf s) (ftzOf s))

/-- R88. -/
def execVfmul (u : Bool) (d a b : Nat) (s : State) : Out :=
  issue (.vfmul u d a b) s fun s => vf2 s u d a b (fp32.mul (rmOf s) (ftzOf s))

/-- R88: exact, rounded once; reads D. -/
def execVffma (u : Bool) (d a b : Nat) (s : State) : Out :=
  issue (.vffma u d a b) s fun s => fpV s d fun l =>
    fp32.fma (rmOf s) (ftzOf s) (rdV s.old a l).toNat (opB s u b l).toNat (rdV s.old d l).toNat

/-- R89. -/
def execVfmin (u : Bool) (d a b : Nat) (s : State) : Out :=
  issue (.vfmin u d a b) s fun s => vf2 s u d a b (fp32.minmax false (ftzOf s))

/-- R89. -/
def execVfmax (u : Bool) (d a b : Nat) (s : State) : Out :=
  issue (.vfmax u d a b) s fun s => vf2 s u d a b (fp32.minmax true (ftzOf s))

/-- R90: a data move. -/
def execVfcpys (u : Bool) (d a b : Nat) (s : State) : Out :=
  issue (.vfcpys u d a b) s fun s => wrV s d fun l => (rdV s.old a l &&& 0x7FFFFFFF) ||| (opB s u b l &&& 0x80000000)

/-- R88. -/
def execVfabsd (u : Bool) (d a b : Nat) (s : State) : Out :=
  issue (.vfabsd u d a b) s fun s => vf2 s u d a b (fp32.absdiff (rmOf s) (ftzOf s))

/-- R91. -/
def execVdadd (d a b : Nat) (s : State) : Out :=
  issue (.vdadd d a b) s fun s => vd2 s d a b (fp64.add (rmOf s) (ftzOf s))

/-- R91. -/
def execVdsub (d a b : Nat) (s : State) : Out :=
  issue (.vdsub d a b) s fun s => vd2 s d a b (fp64.sub (rmOf s) (ftzOf s))

/-- R91. -/
def execVdmul (d a b : Nat) (s : State) : Out :=
  issue (.vdmul d a b) s fun s => vd2 s d a b (fp64.mul (rmOf s) (ftzOf s))

/-- R91. -/
def execVdfma (d a b : Nat) (s : State) : Out :=
  issue (.vdfma d a b) s fun s => fpV2 s d fun l =>
    fp64.fma (rmOf s) (ftzOf s) (rdV2 s.old a l) (rdV2 s.old b l) (rdV2 s.old d l)

/-- R91. -/
def execVdmin (d a b : Nat) (s : State) : Out :=
  issue (.vdmin d a b) s fun s => vd2 s d a b (fp64.minmax false (ftzOf s))

/-- R91. -/
def execVdmax (d a b : Nat) (s : State) : Out :=
  issue (.vdmax d a b) s fun s => vd2 s d a b (fp64.minmax true (ftzOf s))

/-- R92. -/
def execVhadd2 (f : Bool) (d a b : Nat) (s : State) : Out :=
  issue (.vhadd2 f d a b) s fun s => vh2 s d a b fun x y _ => (vhFmt f).add (rmOf s) (ftzOf s) x y

/-- R92. -/
def execVhsub2 (f : Bool) (d a b : Nat) (s : State) : Out :=
  issue (.vhsub2 f d a b) s fun s => vh2 s d a b fun x y _ => (vhFmt f).sub (rmOf s) (ftzOf s) x y

/-- R92. -/
def execVhmul2 (f : Bool) (d a b : Nat) (s : State) : Out :=
  issue (.vhmul2 f d a b) s fun s => vh2 s d a b fun x y _ => (vhFmt f).mul (rmOf s) (ftzOf s) x y

/-- R92. -/
def execVhfma2 (f : Bool) (d a b : Nat) (s : State) : Out :=
  issue (.vhfma2 f d a b) s fun s => vh2 s d a b fun x y z => (vhFmt f).fma (rmOf s) (ftzOf s) x y z

/-- R93. -/
def execVfcmp (cc : FCond) (d a b : Nat) (s : State) : Out :=
  issue (.vfcmp cc d a b) s fun s => fpP s d fun l =>
    fp32.compare cc (ftzOf s) (rdV s.old a l).toNat (rdV s.old b l).toNat

/-- R93. -/
def execVfcmpF64 (cc : FCond) (d a b : Nat) (s : State) : Out :=
  issue (.vfcmpF64 cc d a b) s fun s => fpP s d fun l =>
    fp64.compare cc (ftzOf s) (rdV2 s.old a l) (rdV2 s.old b l)

/-- R94, R54. -/
def execVcvtF32F64 (d a : Nat) (sat : Bool) (rm : Nat) (s : State) : Out :=
  issue (.vcvtF32F64 d a sat rm) s fun s => fpV s d fun l =>
    fp32.cvt rm sat (ftzOf s) (fp64.decodeFtz (ftzOf s) (rdV2 s.old a l))

/-- R94: exact. -/
def execVcvtF64F32 (d a : Nat) (s : State) : Out :=
  issue (.vcvtF64F32 d a) s fun s => fpV2 s d fun l => fp64.cvt 0 false (ftzOf s) (src32 s a l)

/-- R94, R55. -/
def execVcvtF32I32 (d a : Nat) (sat : Bool) (rm : Nat) (s : State) : Out :=
  issue (.vcvtF32I32 d a sat rm) s fun s => fpV s d fun l => fp32.cvt rm sat false (intNum (rdV s.old a l).toInt)

/-- R94, R55. -/
def execVcvtF32O32 (d a : Nat) (sat : Bool) (rm : Nat) (s : State) : Out :=
  issue (.vcvtF32O32 d a sat rm) s fun s => fpV s d fun l => fp32.cvt rm sat false (intNum (rdV s.old a l).toNat)

/-- R55. -/
def execVcvtI32F32 (d a rm : Nat) (s : State) : Out :=
  issue (.vcvtI32F32 d a rm) s fun s => fpV s d fun l => intBits 32 (cvtInt rm (-2 ^ 31) (2 ^ 31 - 1) (src32 s a l))

/-- R55. -/
def execVcvtO32F32 (d a rm : Nat) (s : State) : Out :=
  issue (.vcvtO32F32 d a rm) s fun s => fpV s d fun l => intBits 32 (cvtInt rm 0 (2 ^ 32 - 1) (src32 s a l))

/-- R94: exact. -/
def execVcvtF64I32 (d a : Nat) (s : State) : Out :=
  issue (.vcvtF64I32 d a) s fun s => fpV2 s d fun l => fp64.cvt 0 false false (intNum (rdV s.old a l).toInt)

/-- R55. -/
def execVcvtI32F64 (d a rm : Nat) (s : State) : Out :=
  issue (.vcvtI32F64 d a rm) s fun s => fpV s d fun l =>
    intBits 32 (cvtInt rm (-2 ^ 31) (2 ^ 31 - 1) (fp64.decodeFtz (ftzOf s) (rdV2 s.old a l)))

/-- R95: in an FP32 container with bits [12:0] zero. -/
def execVcvtF19F32 (d a : Nat) (sat : Bool) (rm : Nat) (s : State) : Out :=
  issue (.vcvtF19F32 d a sat rm) s fun s => fpV s d fun l =>
    let r := f19.cvt rm sat false (src32 s a l)
    (r.1 * 2 ^ 13, r.2)

/-- R94. -/
def execVcvtBf16x2F32 (d a : Nat) (sat : Bool) (rm : Nat) (s : State) : Out :=
  issue (.vcvtBf16x2F32 d a sat rm) s fun s => fpV s d fun l =>
    packed 16 2 fun e => bf16.cvt rm sat (ftzOf s) (src32 s (a + e) l)

/-- R94. -/
def execVcvtF16x2F32 (d a : Nat) (sat : Bool) (rm : Nat) (s : State) : Out :=
  issue (.vcvtF16x2F32 d a sat rm) s fun s => fpV s d fun l =>
    packed 16 2 fun e => fp16.cvt rm sat (ftzOf s) (src32 s (a + e) l)

/-- R94: exact. -/
def execVcvtF32x2F16x2 (d a : Nat) (s : State) : Out :=
  issue (.vcvtF32x2F16x2 d a) s fun s => fpV2 s d fun l =>
    packed 32 2 fun e => fp32.cvt 0 false (ftzOf s) (fp16.decodeFtz (ftzOf s) ((rdV s.old a l).toNat / 2 ^ (16 * e) % 2 ^ 16))

/-- R94. -/
def execVcvtE4m3x4F32 (d a : Nat) (sat : Bool) (rm : Nat) (s : State) : Out :=
  issue (.vcvtE4m3x4F32 d a sat rm) s fun s => fpV s d fun l =>
    packed 8 4 fun e => e4m3.cvt rm sat false (src32 s (a + e) l)

/-- R94. -/
def execVcvtE5m2x4F32 (d a : Nat) (sat : Bool) (rm : Nat) (s : State) : Out :=
  issue (.vcvtE5m2x4F32 d a sat rm) s fun s => fpV s d fun l =>
    packed 8 4 fun e => e5m2.cvt rm sat false (src32 s (a + e) l)

/-- R55. -/
def execVcvtI16x2F32 (d a rm : Nat) (s : State) : Out :=
  issue (.vcvtI16x2F32 d a rm) s fun s => fpV s d fun l =>
    packed 16 2 fun e => intBits 16 (cvtInt rm (-2 ^ 15) (2 ^ 15 - 1) (src32 s (a + e) l))

/-- R55. -/
def execVcvtO8x4F32 (d a rm : Nat) (s : State) : Out :=
  issue (.vcvtO8x4F32 d a rm) s fun s => fpV s d fun l =>
    packed 8 4 fun e => intBits 8 (cvtInt rm 0 255 (src32 s (a + e) l))

/-- R96 to R98. -/
def execVfrcp (la d a : Nat) (s : State) : Out :=
  issue (.vfrcp la d a) s fun s => sfuOp s (.vfrcp la d a) 0 d a

/-- R96 to R98. -/
def execVfrsq (la d a : Nat) (s : State) : Out :=
  issue (.vfrsq la d a) s fun s => sfuOp s (.vfrsq la d a) 1 d a

/-- R96 to R98. -/
def execVfsqrt (la d a : Nat) (s : State) : Out :=
  issue (.vfsqrt la d a) s fun s => sfuOp s (.vfsqrt la d a) 2 d a

/-- R96 to R98. -/
def execVfexp2 (la d a : Nat) (s : State) : Out :=
  issue (.vfexp2 la d a) s fun s => sfuOp s (.vfexp2 la d a) 3 d a

/-- R96 to R98. -/
def execVflog2 (la d a : Nat) (s : State) : Out :=
  issue (.vflog2 la d a) s fun s => sfuOp s (.vflog2 la d a) 4 d a

/-- R96 to R98. -/
def execVfsin (la d a : Nat) (s : State) : Out :=
  issue (.vfsin la d a) s fun s => sfuOp s (.vfsin la d a) 5 d a

/-- R96 to R98. -/
def execVfcos (la d a : Nat) (s : State) : Out :=
  issue (.vfcos la d a) s fun s => sfuOp s (.vfcos la d a) 6 d a

/-- R96 to R98. -/
def execVftanh (la d a : Nat) (s : State) : Out :=
  issue (.vftanh la d a) s fun s => sfuOp s (.vftanh la d a) 7 d a

/-- R99. -/
def execHrnd (la d ua ub : Nat) (s : State) : Out :=
  issue (.hrnd la d ua ub) s fun s => resV s (.hrnd la d ua ub) d
    (fun l => hrndW (rdS s.old ub) (rdV s.old d l) (rdV s.old (d + 1) l) (rdS2 s.old ua)) 0 false

end Sys2Proof.Machine
end

