-- ==== Sys2Proof/Machine/Control.lean ====
section
/-! DEFINITION. Meanings of the cross-lane words (R112, R113, R146 to R151), branches and vote branches (R74, R75, R152),
CTL (R77, R78, R110, R153 to R155), register re-division (R143, R156), SAFE (R281) and the repeat prefix (R18 to R21). -/

namespace Sys2Proof.Machine

/-! ### Cross-lane words -/

/-- Members: read in every lane whatever its state (R112). -/
def members (s : State) (m : Nat) : LaneMask := maskOf fun l => rdP s.old m l
/-- Recv (R146): Active and a member. DEDUCED: log entry 68. -/
def recv (s : State) (m : Nat) : LaneMask := s.iss.active &&& members s m

/-- The absent-lane report of `%vote` (R151): ABSL by lane, FIRST, NABS. -/
def report (s : State) (m : Nat) : State :=
  let ab := members s m &&& ~~~s.iss.active
  let n := (lanesOf ab).length
  { s with w := { s.w with
      lanes := s.w.lanes.mapIdx fun l ln => { ln with absl := ab.getLsbD l },
      vote := (s.w.vote &&& 0xF) ||| w32 ((lowest ab).getD 0 * 2 ^ 16 + n * 2 ^ 8) } }

/-- val(D, j) of R113: a member's register as read in step 1, whether it is Active or not; none for any other source. -/
def srcVal (s : State) (m d : Nat) (j : Int) : Option Word :=
  if 0 ≤ j ∧ j < 64 ∧ (members s m).getLsbD j.toNat ∧ j.toNat < s.old.lanes.length then some (rdV s.old d j.toNat) else none

/-- The receiving lanes that F does not hold back (R255). DEDUCED: log entry 68. -/
def recvLive (s : State) (m : Nat) : LaneMask := recv s m &&& ~~~s.iss.faulted

/-- A shuffle or broadcast (R148): each receiving lane takes its source's value, if it has one. -/
def shuffle (s : State) (i : Instr) (d m : Nat) (src : Nat → Int) : State :=
  report (addPend s i (laneWrites (recvLive s m) fun l => match srcVal s m d (src l) with
    | some x => [.v l d x]
    | none => []) 0 false 0 false) m

/-- A vote (R149): one bit to each receiving lane. -/
def voteOp (s : State) (i : Instr) (d p m : Nat) (all : Bool) : State :=
  let js := lanesOf (recv s m)
  let r := if all then js.all (rdP s.old p) else js.any (rdP s.old p)
  report (addPend s i (laneWrites (recvLive s m) fun l => [.p l d r]) 0 false 0 false) m

/-- op(x, y) of R150 with its flags. -/
def stepRes (s : State) (op : StepOp) (x y : Word) : Word × FpFlags :=
  match op with
  | .addO32 => (x + y, 0)
  | .minI32 => (minS x y, 0)
  | .maxI32 => (maxS x y, 0)
  | .addF32 => let r := fp32.add (rmOf s) (ftzOf s) x.toNat y.toNat; (w32 r.1, r.2)

/-- A reduction or scan step (R150). -/
def stepOp' (s : State) (i : Instr) (op : StepOp) (d m : Nat) (src : Nat → Int) (f : Word → Word → Word × FpFlags) : State :=
  let val (l : Nat) := (srcVal s m d (src l)).map fun y => f (rdV s.old d l) y
  report (addPend s i
    (laneWrites (recvLive s m) fun l => match val l with
      | some r => [.v l d r.1]
      | none => [])
    (unionFlags (recvLive s m) fun l => match val l with
      | some r => r.2
      | none => 0) (op == .addF32) 0 false) m

/-! ### Branches -/

/-- Sets where lanes go: the branch target, counted from the word itself, for the lanes of `t` outside F (R74, R152). -/
def jump (s : State) (t : LaneMask) (off : Nat) : State :=
  let o : Word := if off < 2 ^ 19 then w32 off else w32 (off + 2 ^ 32 - 2 ^ 20)
  let tgt := s.iss.pc + w32 s.iss.pos + o
  { s with iss := { s.iss with targets := (lanesOf (t &&& ~~~s.iss.faulted)).map fun l => (l, tgt) } }

/-- The vote of a BV over the whole Active set (R111, R152), and its outcome in `%vote`. DEDUCED: log entry 68. -/
def voteBranch (s : State) (pol p off : Nat) : State :=
  let t := takers s p
  let out := if t = s.iss.active then 1 else if t = 0 then 2 else 3
  let go : LaneMask := if out = 1 then s.iss.active else if out = 3 then (if pol = 1 then s.iss.active else if pol = 0 then t else 0) else 0
  let s := jump s go off
  { s with w := { s.w with vote := (s.w.vote &&& ~~~0xF) ||| w32 (pol * 4 + out) } }

/-- A jump to a word PC for every lane (R75). -/
def jumpTo (s : State) (pc : Word) : State :=
  { s with iss := { s.iss with targets := (lanesOf (liveMask s)).map fun l => (l, pc) } }

/-- R148. -/
def execVshflUp (la d ua m : Nat) (s : State) : Out :=
  issue (.vshflUp la d ua m) s fun s => shuffle s (.vshflUp la d ua m) d m fun l => (l : Int) - (rdS s.old ua).toNat

/-- R148. -/
def execVshflDown (la d ua m : Nat) (s : State) : Out :=
  issue (.vshflDown la d ua m) s fun s => shuffle s (.vshflDown la d ua m) d m fun l => (l : Int) + (rdS s.old ua).toNat

/-- R148. -/
def execVshflXor (la d ua m : Nat) (s : State) : Out :=
  issue (.vshflXor la d ua m) s fun s => shuffle s (.vshflXor la d ua m) d m fun l => (w32 l ^^^ rdS s.old ua).toNat

/-- R148: the index is in D + 1. -/
def execVshflIdx (la d m : Nat) (s : State) : Out :=
  issue (.vshflIdx la d m) s fun s => shuffle s (.vshflIdx la d m) d m fun l => (rdV s.old (d + 1) l).toNat

/-- R148. -/
def execVbcast (la d ua m : Nat) (s : State) : Out :=
  issue (.vbcast la d ua m) s fun s => shuffle s (.vbcast la d ua m) d m fun _ => (rdS s.old ua).toNat

/-- R149. -/
def execVvoteAny (la d p m : Nat) (s : State) : Out :=
  issue (.vvoteAny la d p m) s fun s => voteOp s (.vvoteAny la d p m) d p m false

/-- R149. -/
def execVvoteAll (la d p m : Nat) (s : State) : Out :=
  issue (.vvoteAll la d p m) s fun s => voteOp s (.vvoteAll la d p m) d p m true

/-- R149: a uniform pair. -/
def execVballot (la d p m : Nat) (s : State) : Out :=
  issue (.vballot la d p m) s fun s => 
    let b := maskOf fun l => (recv s m).getLsbD l && rdP s.old p l
    report (addPend s (.vballot la d p m) [.s d (b.setWidth 32), .s (d + 1) ((b >>> 32).setWidth 32)] 0 false 0 false) m

/-- R150. -/
def execVredStep (la d ua : Nat) (op : StepOp) (m : Nat) (s : State) : Out :=
  issue (.vredStep la d ua op m) s fun s => 
    stepOp' s (.vredStep la d ua op m) op d m (fun l => (w32 l ^^^ rdS s.old ua).toNat) fun x y => stepRes s op x y

/-- R150: op(val, own). -/
def execVscanStep (la d ua : Nat) (op : StepOp) (m : Nat) (s : State) : Out :=
  issue (.vscanStep la d ua op m) s fun s => 
    stepOp' s (.vscanStep la d ua op m) op d m (fun l => (l : Int) - (rdS s.old ua).toNat) fun x y => stepRes s op y x

/-- R74. -/
def execBr (p off : Nat) (s : State) : Out :=
  issue (.br p off) s fun s => jump s (takers s p) off

/-- R74: s63 is written even when no lane takes it. -/
def execCall (p off : Nat) (s : State) : Out :=
  issue (.call p off) s fun s => jump (wrS s 63 (s.iss.pc + w32 s.iss.words)) (takers s p) off

/-- R152. -/
def execBvSplit (p off : Nat) (s : State) : Out :=
  issue (.bvSplit p off) s fun s => voteBranch s 0 p off

/-- R152. -/
def execBvAny (p off : Nat) (s : State) : Out :=
  issue (.bvAny p off) s fun s => voteBranch s 1 p off

/-- R152. -/
def execBvAll (p off : Nat) (s : State) : Out :=
  issue (.bvAll p off) s fun s => voteBranch s 2 p off

/-- R152. -/
def execBvUni (p off : Nat) (s : State) : Out :=
  issue (.bvUni p off) s fun s => voteBranch s 3 p off

/-- R75. -/
def execRet (a : Nat) (s : State) : Out :=
  issue (.ret a) s fun s => jumpTo s (rdS s.old a)

/-- R75. -/
def execBrx (a : Nat) (s : State) : Out :=
  issue (.brx a) s fun s => jumpTo s (rdS s.old a)

/-- R77: the lanes keep the PC of the bundle (R105). -/
def execExit  (s : State) : Out :=
  issue (.exit) s fun s => { s with w := mapLanes s.w (liveMask s) fun _ ln => { ln with st := .exited } }

/-- R78: takes one issue slot. -/
def execNop  (s : State) : Out :=
  issue (.nop) s fun s => s

/-- R110. -/
def execYieldL  (s : State) : Out :=
  issue (.yieldL) s fun s => { s with w := mapLanes s.w (liveMask s) fun _ ln => { ln with st := .deferred } }

/-- R154. -/
def execBar (n : Nat) (s : State) : Out :=
  issue (.bar n) s fun s => waitLanes s (.bar n)

/-- R155: no wait in a launch that is not persistent. -/
def execBarq (n : Nat) (s : State) : Out :=
  issue (.barq n) s fun s => if s.c.persistent then waitLanes s (.barq n) else s

/-- R281, R282: no architectural effect; a save that has been requested stops the warp after this bundle, for every `n`.
DEDUCED: log entry 97. -/
def execSafe (n : Nat) (s : State) : Out :=
  issue (.safe n) s fun s => if s.c.saveReq.isSome && s.w.stopped.isNone then { s with w := { s.w with stopped := some (.masked n) } } else s

/-- R156: the window gives its top registers to the crew's pool, once every outstanding result has arrived. -/
def giveRegs (s : State) (n : Nat) : State :=
  let w := deliverAll (fun _ => true) s.w
  let w := { w with window := w.window - n, lanes := w.lanes.map fun ln => { ln with v := ln.v.take (w.window - n) } }
  { s with w := w, c := { s.c with pool := s.c.pool + n } }

/-- R156: the window grows at once, or the lanes wait and the claim joins the crew's queue. -/
def claimRegs (s : State) (n : Nat) : State :=
  if s.c.claims.isEmpty && decide (n ≤ s.c.pool) then { s with w := grow s.w n, c := { s.c with pool := s.c.pool - n } }
  else waitLanes { s with c := { s.c with claims := s.c.claims ++ [(s.w.idx, n, liveMask s)] } } (.claim n)

/-- R156; the queued claims are served at the end of the bundle (R143). -/
def execRgive (n : Nat) (s : State) : Out :=
  issue (.rgive n) s fun s => giveRegs s (8 * n)

/-- R156. -/
def execRclaim (n : Nat) (s : State) : Out :=
  issue (.rclaim n) s fun s => claimRegs s (8 * n)

/-! ### Code and the repeat prefix -/

/-- The code object a warp fetches from: the trap code object while a trap is in progress (R270, R295). -/
def codeBase (s : State) (k : Crew) (w : Warp) : Nat := if w.trapV then (vfAt s k.vf).trapcode else k.code
def codeSize (s : State) (k : Crew) (w : Warp) : Nat := if w.trapV then (vfAt s k.vf).trapsize else k.csize

/-- Reads the word at a word PC, by the TLBs of the core and its bay (R276). -/
def readCode (s : State) (k : Crew) (w : Warp) (pc : Nat) : Except (Nat × Nat × Nat) (List Byte) :=
  readAt s (xlateNow s (coreTlbs s k.core) k.vf) k.vf (codeBase s k w + 4 * pc) 4
/-- Fetches the word at a word PC (R10, R15, R275): none past the end of the code object or where its page is not
readable. -/
def fetchWord (s : State) (k : Crew) (w : Warp) (pc : Nat) : Option Nat :=
  if codeSize s k w < 4 * (pc + 1) then none
  else match readCode s k w pc with
    | .ok bs => some (wordOfBytes bs)
    | .error _ => none

/-- The word lies in the code object and its page cannot be read yet: the fetch waits (R275, R315). -/
def fetchHeld (s : State) (k : Crew) (w : Warp) (pc : Nat) : Bool :=
  decide (4 * (pc + 1) ≤ codeSize s k w) && match readCode s k w pc with
    | .error (0, _, _) => true
    | _ => false
/-- A fetch that gives no word: it waits, or it kills the warp (R15, R275). -/
def noFetch (s : State) (pc : Nat) : State := if fetchHeld s s.c s.w pc then stalled s else kill .fetch s

/-- %rep as R20 forms it. -/
def repWordOf (count mask sd sa sb k : Nat) : Word :=
  w32 (2 ^ 31 + count % 64 * 2 ^ 19 + mask % 8 * 2 ^ 16 + sd % 4 * 2 ^ 14 + sa % 4 * 2 ^ 12 + sb % 4 * 2 ^ 10 + k % 64)

/-- The prefix's own effect (R20): the repeat begins for the lanes of Active, which stand at the next word. -/
def beginRepeat (s : State) (rep : Word) : State :=
  { s with w := { mapLanes s.w s.iss.active (fun _ ln => { ln with pc := s.iss.pc + 1, inRep := true }) with rep := rep } }

/-- R18 to R20: the checks of R19 on the word after it, then the repeat begins; the repeats themselves issue in later
steps (REPEAT_ISSUE). -/
def execRep (count mask sd sa sb : Nat) (s : State) : Out :=
  .next (match fetchWord s s.c s.w (s.iss.pc.toNat + 1) with
    | none => noFetch s (s.iss.pc.toNat + 1)
    | some w =>
      match prefixCheck s.w.window ((encode (.rep count mask sd sa sb)).getD 0) w (decide (s.iss.words ≠ 1)) with
      | some k => kill k s
      | none => beginRepeat s (repWordOf count mask sd sa sb 0))

end Sys2Proof.Machine
end

