-- ==== Sys2Proof/Machine/Tensor.lean ====
section
/-! DEFINITION. Tensor descriptors and their caches (R161 to R163), elements, tiles and lines (R164 to R167, R185), reach
records and homes (R131, R169). -/

namespace Sys2Proof.Machine

/-- A tensor descriptor (R162). -/
structure TDesc where
  base : Nat
  ext : List Nat
  xval : Nat
  v : Bool
  scale : Nat
  nostore : Bool
  layout : Nat
  fmt : Nat
  resv : Nat
  stride : List Nat
  nreach : Nat
  tc : Nat
  tr : Nat
  place : Nat
  deriving DecidableEq, Repr

def parseDesc (bs : List Byte) : TDesc :=
  let w := leAt bs 0x1C 4
  let r := leAt bs 0x34 4
  { base := leAt bs 0 8
    ext := (List.range 5).map fun i => leAt bs (8 + 4 * i) 4
    xval := w / 2 ^ 16
    v := bitB w 15
    resv := fld w 11 4
    scale := fld w 8 3
    nostore := bitB w 7
    layout := fld w 5 2
    fmt := fld w 0 5
    stride := (List.range 4).map fun i => leAt bs (0x20 + 5 * i) 5
    nreach := r / 2 ^ 8
    tc := fld r 4 4
    tr := fld r 0 4
    place := leAt bs 0x38 8 }

/-- Width in bits of an element format (R162), 0 where reserved. -/
def fmtBits (f : Nat) : Nat :=
  [64, 32, 32, 16, 16, 8, 8, 8, 6, 6, 4, 8, 8, 16, 8, 8, 4, 4, 2, 2, 32, 32].getD f 0
def TDesc.w (d : TDesc) : Nat := fmtBits d.fmt
def TDesc.e (d : TDesc) (i : Nat) : Nat := d.ext.getD i 1
/-- Elements of a 64-byte line row (R164). -/
def TDesc.q (d : TDesc) : Nat := 512 / d.w
def ceilDiv (a b : Nat) : Nat := (a + b - 1) / b
/-- T0 to T3 (R164). -/
def TDesc.grid (d : TDesc) : List Nat :=
  [ceilDiv (d.e 3) (16 * 2 ^ d.tr), ceilDiv (d.e 4) (d.q * 2 ^ d.tc), d.e 2, d.e 0 * d.e 1]
def TDesc.tiles (d : TDesc) : Nat := d.grid.foldl (· * ·) 1
/-- Linear index of a tile, and the tile of an index (R129). -/
def TDesc.tileIndex (d : TDesc) (t : List Nat) : Nat :=
  ((t.getD 0 0 * d.grid.getD 1 1 + t.getD 1 0) * d.grid.getD 2 1 + t.getD 2 0) * d.grid.getD 3 1 + t.getD 3 0
def TDesc.tileAt (d : TDesc) (n : Nat) : List Nat :=
  let t3 := d.grid.getD 3 1; let t2 := d.grid.getD 2 1; let t1 := d.grid.getD 1 1
  [n / t3 / t2 / t1, n / t3 / t2 % t1, n / t3 % t2, n % t3]

/-- R163 without regard to NREACH. A reserved SCALE is no reason of R163. DEDUCED: log entry 85. BASE of an index tensor counts
for its alignment test. DESIGN CHOICE: log entry 101. -/
def TDesc.valid (d : TDesc) : Bool :=
  d.v && d.resv == 0 && d.w != 0 && decide (d.layout < 2) && decide (d.place < 2 ^ 56) &&
  (d.nostore || decide (d.base < 2 ^ 56)) && d.ext.all (· != 0) && decide (d.e 3 ≤ 65536) && decide (d.e 4 ≤ 65536) &&
  decide (d.e 0 * d.e 1 * d.e 2 ≤ 65536) && decide (d.tr + d.tc ≤ 10) &&
  !(d.layout == 1 && !d.nostore && d.base % 1024 != 0) &&
  !(d.layout == 0 && (d.base % 64 != 0 || d.stride.getD 3 0 % 64 != 0))
/-- A descriptor that accesses may use: a BASE or PLACE in the peer window makes the tensor invalid for them (R326). -/
def TDesc.usable (d : TDesc) : Bool := d.valid && !inPeerWindow d.place && (d.nostore || !inPeerWindow d.base)

/-- The descriptor a die has cached: none where it has not read it, `some none` where its entry cannot be read. -/
def cachedDesc (s : State) (die vf t : Nat) : Option (Option (List Byte)) :=
  ((dieAt s die).descs.find? fun c => c.1 == vf && c.2.1 == t).map (·.2.2)

/-- Fills a die's descriptor cache for a tensor (R161); none while the table lies on a die out of service (R315). -/
def fillDesc (s : State) (die vf t : Nat) : Option State :=
  match cachedDesc s die vf t with
  | some _ => some s
  | none =>
    match readVa s vf ((vfAt s vf).ttbase + 64 * t) 64 with
    | .error (0, _, _) => none
    | .error _ => some (updDie s die fun d => { d with descs := (vf, t, none) :: d.descs })
    | .ok bs => some (updDie s die fun d => { d with descs := (vf, t, some bs) :: d.descs })

/-- The descriptor as a die has it, if it is valid. Tensor 0 has none (R161, R182). -/
def validDesc (s : State) (die vf t : Nat) : Option TDesc :=
  if t = 0 then none
  else match cachedDesc s die vf t with
    | some (some bs) => let d := parseDesc bs; if d.valid then some d else none
    | _ => none
/-- The same for an access. -/
def descOf (s : State) (die vf t : Nat) : Option TDesc :=
  match validDesc s die vf t with
  | some d => if d.usable then some d else none
  | none => none

/-- Plane, line row and line column of an element, and its tile (R164). -/
def TDesc.tileOf (d : TDesc) (p i3 i4 : Nat) : List Nat :=
  [i3 / 16 / 2 ^ d.tr, i4 / d.q / 2 ^ d.tc, p % d.e 2, p / d.e 2]

/-- Byte address of the line row that holds an element (R164). -/
def TDesc.rowAddr (d : TDesc) (p i3 i4 : Nat) : Nat :=
  let lr := i3 / 16
  let lc := i4 / d.q
  if d.layout = 0 then
    d.base + p / d.e 2 / d.e 1 * d.stride.getD 0 0 + p / d.e 2 % d.e 1 * d.stride.getD 1 0 + p % d.e 2 * d.stride.getD 2 0
      + i3 * d.stride.getD 3 0 + lc * 64
  else
    d.base + d.tileIndex (d.tileOf p i3 i4) * 2 ^ (d.tr + d.tc) * 1024
      + ((lr % 2 ^ d.tr) * 2 ^ d.tc + lc % 2 ^ d.tc) * 1024 + i3 % 16 * 64

/-- Byte address of an element whose bits start on a byte. -/
def TDesc.elemAddr (d : TDesc) (p i3 i4 : Nat) : Nat := d.rowAddr p i3 i4 + i4 % d.q * d.w / 8

/-- The tag of an element's line (R167). -/
def TDesc.tag (d : TDesc) (vf t p i3 i4 : Nat) : Tag :=
  { vf := vf, tensor := t, plane := p, row := i3 / 16, col := i4 / d.q }

/-- A reach record (R131). -/
structure ReachRec where
  stamp : Nat
  replicas : Nat
  tensor : Nat
  st : Nat
  hdie : Nat
  hbay : Nat
  count : Nat
  gen : Nat
  first : Nat
  deriving DecidableEq, Repr

def parseReach (bs : List Byte) : ReachRec :=
  let w := leAt bs 0x10 8
  { stamp := leAt bs 0 8, replicas := leAt bs 8 8, tensor := fld w 48 16, st := fld w 46 2, hdie := fld w 43 3, hbay := fld w 40 3,
    count := fld w 34 6 + 1, gen := fld w 0 32, first := leAt bs 0x18 8 }

/-- The word at 0x10 of a record. -/
def ReachRec.word (r : ReachRec) : Nat :=
  r.tensor * 2 ^ 48 + r.st * 2 ^ 46 + r.hdie * 2 ^ 43 + r.hbay * 2 ^ 40 + (r.count - 1) * 2 ^ 34 + r.gen

/-- The reach that covers a tile (R169): the first of the tensor's own records that spans it, if there is one; no answer
while a record lies on a die out of service (R315). -/
def findReach (s : State) (vf t place tile : Nat) : Nat → Nat → Option (Option ReachRec)
  | 0, _ => some none
  | n + 1, i =>
    match readVa s vf (place + 32 * i) 32 with
    | .ok bs =>
      let r := parseReach bs
      if r.tensor = t ∧ r.first ≤ tile ∧ tile < r.first + r.count then some (some r) else findReach s vf t place tile n (i + 1)
    | .error (0, _, _) => none
    | .error _ => findReach s vf t place tile n (i + 1)

/-- Where a tensor line is at home: the slice of its reach's bay and the replica bays, nowhere (no reach, or an INVALID
one), or not to be found out yet (R169, R170, R315). -/
inductive LineHome where
  | wait
  | absent
  | slice (n replicas : Nat)
  deriving DecidableEq, Repr

/-- The home of an element's line (R169). DEDUCED: log entry 30. -/
def lineHome (s : State) (vf t : Nat) (d : TDesc) (p i3 i4 : Nat) : LineHome :=
  match findReach s vf t d.place (d.tileIndex (d.tileOf p i3 i4)) d.nreach 0 with
  | none => .wait
  | some none => .absent
  | some (some r) =>
    if r.st = 1 ∨ r.st = 2 then
      .slice ((r.hdie * 8 + r.hbay) * 16 + Nat.xor (Nat.xor (i3 / 16) (i4 / d.q)) p % 16) r.replicas
    else .absent

/-- Elements of a thread's run of `b` bytes (R185). -/
def TDesc.run (d : TDesc) (b : Nat) : Nat := 8 * b / d.w
/-- Bits of a run from column `i4` that lie below EXT4. -/
def TDesc.runBits (d : TDesc) (b i4 : Nat) : Nat := min (d.run b) (d.e 4 - i4) * d.w

/-- The checks of R183 on one lane's element access of `b` bytes (R184 to R186). -/
def reachTensor (s : State) (lane : Nat) (wr : Bool) (handle c : Word) (b : Nat) : Reach :=
  let t := handle.toNat % 2 ^ 16
  let p := handle.toNat / 2 ^ 16
  let i3 := c.toNat / 2 ^ 16
  let i4 := c.toNat % 2 ^ 16
  let entry := ((vfAt s s.c.vf).ttbase + 64 * t) % 2 ^ 56
  let bad (code : Nat) : Reach := .bad ⟨lane, 4, code, entry, entry⟩
  match descOf s (dieOfCore s.c.core) s.c.vf t with
  | none => bad 5
  | some d =>
    if d.nostore then bad 6
    else if 8 * b % d.w != 0 then bad 7
    else if decide (d.e 0 * d.e 1 * d.e 2 ≤ p) || decide (d.e 3 ≤ i3) || decide (d.e 4 ≤ i4) then bad 4
    else if i4 % d.run b != 0 then bad 8
    else
      let a := d.elemAddr p i3 i4 % 2 ^ 56
      match lineHome s s.c.vf t d p i3 i4 with
      | .wait => .hold
      | .absent => .bad ⟨lane, 4, 9, a, a⟩
      | .slice h _ =>
        if (dieAt s (dieOfBay (h / 16))).st ≠ .active then .hold
        else checkBytes s (some (h / 16)) lane (!wr) wr wr ((List.range (ceilDiv (d.runBits b i4) 8)).map (a + ·))

/-- What an element load moves into L1 (R167, R170): the sector of two rows that holds it, as far as its rows can be
reached, and whether the core's bay keeps replicas of the line. -/
def tensorFetch (s : State) (t : Nat) (d : TDesc) (p i3 i4 : Nat) (ls : List Loc) : Fetch :=
  let tag := d.tag s.c.vf t p i3 i4
  if ls.all fun l => match l with | .dev _ => true | _ => false then
    let row (r : Nat) : List (Nat × Nat) :=
      let a := d.rowAddr p r i4 % 2 ^ 56
      if a % 64 ≠ 0 then []
      else match xlateNow s (coreTlbs s s.c.core) s.c.vf a with
        | .ok (.dev k) true _ _ => [(k, 64)]
        | _ => []
    let own := ls.filterMap fun l => match l with | .dev k => some (k, 1) | _ => none
    { tags := [tag]
      pieces := [(tag, match row i3 with
        | [] => own
        | ps => ps ++ row (i3 / 2 * 2 + (1 - i3 % 2)))]
      replica := match lineHome s s.c.vf t d p i3 i4 with
        | .slice _ rs => bitB rs (bayOfCore s.c.core)
        | _ => false }
  else { tags := placeTags ls, pieces := [], replica := false }

end Sys2Proof.Machine
end

