-- ==== Sys2Proof/Machine/Memory.lean ====
section
/-! DEFINITION. Meanings of the memory words: flat, tensor, scratchpad and weight-store accesses (R79 to R85, R184 to
R188), atomics (R189 to R192), cache and descriptor control (R193, R194), and barrier objects (R172, R173, R195 to R200). -/

namespace Sys2Proof.Machine

/-- The value of the address register in a lane (R34, R80). -/
def addrOf (s : State) (v : Bool) (a l : Nat) : Nat := (if v then rdV s.old a l else rdS s.old a).toNat

/-- The bytes a store writes from its data register, pair or quad (R82). -/
def dataBytes (s : State) (d n l : Nat) : List Byte :=
  if n < 4 then bytesOfNat n (rdV s.old d l).toNat else (List.range (n / 4)).flatMap fun i => bytesOfNat 4 (rdV s.old (d + i) l).toNat

/-- Reads bytes at virtual addresses: one access when aligned, else byte by byte in ascending order (R83). -/
def loadAt (s : State) (poll aligned : Bool) (as : List Nat) (ls : List Loc) : List Byte × State :=
  if aligned then loadBytes s (flatFetch s.c.vf as ls) poll ls
  else (as.zip ls).foldl (fun acc x =>
    let r := loadBytes acc.2 (flatFetch s.c.vf [x.1] [x.2]) poll [x.2]
    (acc.1 ++ r.1, r.2)) ([], s)

/-- The stores of one lane, `tags` those of its line by line: one access when aligned, else one for each byte (R83). -/
def storeAt (s : State) (l : Nat) (tags : List Nat → List Tag) (aligned : Bool) (xs : List (Loc × Byte × Byte)) : State :=
  if aligned then enqueue s (.store 0 l (tags (List.range xs.length)) xs)
  else (xs.mapIdx fun i x => (i, x)).foldl (fun s x => enqueue s (.store 0 l (tags [x.1]) [x.2])) s
/-- The lines of some bytes of a flat access, and of one that is never cached. -/
def flatPick (vf : Nat) (as : List Nat) (ls : List Loc) (is : List Nat) : List Tag :=
  flatTags vf (is.map fun i => as.getD i 0) (is.filterMap fun i => ls[i]?)
def placePick (ls : List Loc) (is : List Nat) : List Tag := placeTags (is.filterMap fun i => ls[i]?)

/-- Folds over the lanes whose checks passed and that are outside F, in ascending order (R176). -/
def forGo {α : Type} (s : State) (rs : List (Nat × Reach)) (init : α) (f : State → α → Nat → Reach → α × State) : α × State :=
  rs.foldl (fun acc r =>
    match r.2 with
    | .go _ | .peer _ => if acc.2.iss.faulted.getLsbD r.1 then acc else f acc.2 acc.1 r.1 r.2
    | _ => acc) (init, s)

/-- The frame of every memory word: checks of all lanes, faults, then the accesses of the lanes that pass. -/
def memOp (s : State) (f : Nat → Reach) (kind : Nat) (ask : Nat → List Byte × List Byte) (go : State → List (Nat × Reach) → State) :
    State :=
  match gather s f kind ask with
  | .error s => s
  | .ok rs =>
    let s := closeChecks s rs
    if s.iss.abort || s.iss.stall then s else go s rs

/-- A load: the result of each lane is read now and arrives with the window (R81, R84). -/
def loadOp (s : State) (i : Instr) (d : Nat) (sz : Size) (sx : Bool) (f : Nat → Reach)
    (rd : State → Nat → List Loc → List Byte × State) : State :=
  memOp s f 0 (fun _ => ([], [])) fun s rs =>
    let r := forGo s rs [] fun s acc l re =>
      match re with
      | .peer bs => (acc ++ regWrites d l (loadRegs sz sx bs), s)
      | .go ls => let x := rd s l ls; (acc ++ regWrites d l (loadRegs sz sx x.1), x.2)
      | _ => (acc, s)
    addPend r.2 i r.1 0 false 0 false

/-- A store: the bytes wait to be performed (R82, R178). -/
def storeOp (s : State) (i : Instr) (d n : Nat) (f : Nat → Reach) (put : State → Nat → List Loc → State) : State :=
  memOp s f 1 (fun l => ([], dataBytes s d n l)) fun s rs =>
    let r := forGo s rs () fun s _ l re =>
      match re with
      | .go ls => ((), put s l ls)
      | _ => ((), s)
    addPend r.2 i [] 0 false 0 false

/-- Whole bytes with a full mask. -/
def fullMask (ls : List Loc) (bs : List Byte) : List (Loc × Byte × Byte) := (ls.zip bs).map fun x => (x.1, x.2, 0xFF)

/-- R79 to R81. -/
def execLd (la d a : Nat) (v sx poll : Bool) (sz : Size) (s : State) : Out :=
  issue (.ld la d a v sx poll sz) s fun s =>
    let n := Size.bytes sz
    let as (l : Nat) := flatBytes s.c (addrOf s v a l) n
    loadOp s (.ld la d a v sx poll sz) d sz sx (fun l => reachVa s l true false false true (as l))
      fun s l ls => loadAt s poll (addrOf s v a l % n == 0) (as l) ls

/-- R79, R82. -/
def execSt (la d a : Nat) (v : Bool) (sz : Size) (s : State) : Out :=
  issue (.st la d a v sz) s fun s =>
    let n := Size.bytes sz
    let as (l : Nat) := flatBytes s.c (addrOf s v a l) n
    storeOp s (.st la d a v sz) d n (fun l => reachVa s l false true true true (as l))
      fun s l ls => storeAt s l (flatPick s.c.vf (as l) ls) (addrOf s v a l % n == 0) (fullMask ls (dataBytes s d n l))

/-- The element access of LDT and STT needs the die's descriptor; while its table cannot be reached the word waits.
Entry 0 is never read (R161). -/
def withDesc (s : State) (handle : Word) (f : State → State) : State :=
  if handle.toNat % 2 ^ 16 = 0 then f s
  else match fillDesc s (dieOfCore s.c.core) s.c.vf (handle.toNat % 2 ^ 16) with
    | some s => f s
    | none => stalled s

/-- Bits of a run, what a load of it moves, and its line (R185, R186). -/
def runBitsOf (s : State) (handle c : Word) (b : Nat) : Nat :=
  match descOf s (dieOfCore s.c.core) s.c.vf (handle.toNat % 2 ^ 16) with
  | some d => d.runBits b (c.toNat % 2 ^ 16)
  | none => 0
def runFetch (s : State) (handle c : Word) (ls : List Loc) : Fetch :=
  let t := handle.toNat % 2 ^ 16
  match descOf s (dieOfCore s.c.core) s.c.vf t with
  | some d => tensorFetch s t d (handle.toNat / 2 ^ 16) (c.toNat / 2 ^ 16) (c.toNat % 2 ^ 16) ls
  | none => placeFetch ls
def runTags (s : State) (handle c : Word) (ls : List Loc) : List Tag :=
  let t := handle.toNat % 2 ^ 16
  match descOf s (dieOfCore s.c.core) s.c.vf t with
  | some d => tensorTags (d.tag s.c.vf t (handle.toNat / 2 ^ 16) (c.toNat / 2 ^ 16) (c.toNat % 2 ^ 16)) ls
  | none => placeTags ls

/-- The coordinate register in a lane. -/
def coordOf (s : State) (v : Bool) (a l : Nat) : Word := if v then rdV s.old a l else rdS s.old a

/-- R184 to R186: elements beyond EXT4 read as zero. -/
def execLdt (la d a : Nat) (v : Bool) (sz : Size) (hs : Nat) (s : State) : Out :=
  issue (.ldt la d a v sz hs) s fun s =>
    let h := rdS s.old hs
    withDesc s h fun s =>
      loadOp s (.ldt la d a v sz hs) d sz false (fun l => reachTensor s l false h (coordOf s v a l) (Size.bytes sz))
        fun s l ls =>
          let r := loadBytes s (runFetch s h (coordOf s v a l) ls) false ls
          (bytesOfNat (Size.bytes sz) (wordOfBytes r.1 % 2 ^ runBitsOf s h (coordOf s v a l) (Size.bytes sz)), r.2)

/-- R186: elements at or above EXT4 are never written. -/
def execStt (la d a : Nat) (v : Bool) (sz : Size) (hs : Nat) (s : State) : Out :=
  issue (.stt la d a v sz hs) s fun s =>
    let h := rdS s.old hs
    withDesc s h fun s =>
      storeOp s (.stt la d a v sz hs) d (Size.bytes sz) (fun l => reachTensor s l true h (coordOf s v a l) (Size.bytes sz))
        fun s l ls =>
          let mask := bytesOfNat ls.length (2 ^ runBitsOf s h (coordOf s v a l) (Size.bytes sz) - 1)
          enqueue s (.store 0 l (runTags s h (coordOf s v a l) ls)
            ((ls.zip ((dataBytes s d (Size.bytes sz) l).zip mask))))

/-- R187: scratchpad loads. -/
def execLds (la d a : Nat) (v sx : Bool) (sz : Size) (s : State) : Out :=
  issue (.lds la d a v sx sz) s fun s =>
    loadOp s (.lds la d a v sx sz) d sz sx (fun l => reachSp s l false false (addrOf s v a l) (Size.bytes sz))
      fun s _ ls => loadBytes s (placeFetch ls) false ls

/-- R187, R188: scratchpad stores. -/
def execSts (la d a : Nat) (v : Bool) (sz : Size) (s : State) : Out :=
  issue (.sts la d a v sz) s fun s =>
    let n := Size.bytes sz
    storeOp s (.sts la d a v sz) d n (fun l => reachSp s l true false (addrOf s v a l) n)
      fun s l ls => storeAt s l (placePick ls) (addrOf s v a l % n == 0) (fullMask ls (dataBytes s d n l))

/-- R187, R188: weight-store loads. From the first lane on whose bank is in its refresh window, the reads wait (R175). -/
def execLdw (la d a : Nat) (v sx : Bool) (sz : Size) (s : State) : Out :=
  issue (.ldw la d a v sx sz) s fun s =>
    memOp s (fun l => reachWs s l (addrOf s v a l) (Size.bytes sz)) 0 (fun _ => ([], [])) fun s rs =>
      let id := s.w.nextId
      let r := forGo s rs (0, []) fun s acc l re =>
        match re with
        | .go ls =>
          if 0 < acc.1 || ls.any (locHeld s (dieOfCore s.c.core)) then
            ((acc.1 + 1, acc.2), enqueue s (.wread id l d sz sx ls (placeTags ls)))
          else
            let x := loadBytes s (placeFetch ls) false ls
            ((0, acc.2 ++ regWrites d l (loadRegs sz sx x.1)), x.2)
        | _ => (acc, s)
      addPend r.2 (.ldw la d a v sx sz) r.1.2 0 false r.1.1 false

/-! ### Atomics -/

/-- Code of an atomic's operation in a peer request (R321). -/
def rmwCode : RmwOp → Nat
  | .int o => atomCode o
  | .flt o => 16 + atomfCode o
  | .cas => 32

/-- An atomic in each lane (R189 to R192): it waits to be performed, and the old value is its result. -/
def rmwOp (s : State) (i : Instr) (op : RmwOp) (d n : Nat) (tags : Nat → List Loc → List Tag) (f : Nat → Reach) : State :=
  let x (l : Nat) : Nat := if n = 8 then rdV2 s.old d l else (rdV s.old d l).toNat
  let y (l : Nat) : Nat := if n = 8 then rdV2 s.old (d + 2) l else (rdV s.old (d + 1) l).toNat
  memOp s f 2 (fun l => atomParts (rmwCode op) (bytesOfNat n (x l) ++ (if op = .cas then bytesOfNat n (y l) else []))) fun s rs =>
    let id := s.w.nextId
    let r := forGo s rs (0, []) fun s acc l re =>
      match re with
      | .peer bs => ((acc.1, acc.2 ++ regWrites d l ((List.range (n / 4)).map fun k => w32 (wordOfBytes bs / 2 ^ (32 * k)))), s)
      | .go ls => ((acc.1 + 1, acc.2), enqueue s (.rmw id l d op n ls (tags l ls) (x l) (if op = .cas then y l else 0)))
      | _ => (acc, s)
    addPend r.2 i r.1.2 0 false r.1.1 false

/-- The checks of an atomic on flat memory: alignment (MISALIGN), then the bytes (R183, R189). -/
def reachAtom (s : State) (l o n : Nat) : Reach :=
  let as := flatBytes s.c o n
  if o % n != 0 then .bad ⟨l, 4, 1, as.headD 0, as.headD 0⟩ else reachVa s l true true true true as

def flatRmw (s : State) (i : Instr) (op : RmwOp) (d a n : Nat) (v : Bool) : State :=
  rmwOp s i op d n (fun l ls => flatTags s.c.vf (flatBytes s.c (addrOf s v a l) n) ls) fun l => reachAtom s l (addrOf s v a l) n
def spRmw (s : State) (i : Instr) (op : RmwOp) (d a n : Nat) (v : Bool) : State :=
  rmwOp s i op d n (fun _ ls => placeTags ls) fun l => reachSp s l true true (addrOf s v a l) n

/-- R189. -/
def execAtom (la d a : Nat) (v dbl : Bool) (op : AtomOp) (s : State) : Out :=
  issue (.atom la d a v dbl op) s fun s => flatRmw s (.atom la d a v dbl op) (.int op) d a (4 * dreg dbl) v
/-- R190. -/
def execAtomf (la d a : Nat) (v : Bool) (op : AtomFOp) (s : State) : Out :=
  issue (.atomf la d a v op) s fun s => flatRmw s (.atomf la d a v op) (.flt op) d a 4 v
/-- R191. -/
def execCas (la d a : Nat) (v dbl : Bool) (s : State) : Out :=
  issue (.cas la d a v dbl) s fun s => flatRmw s (.cas la d a v dbl) .cas d a (4 * dreg dbl) v
/-- R192. -/
def execSatom (la d a : Nat) (v dbl : Bool) (op : AtomOp) (s : State) : Out :=
  issue (.satom la d a v dbl op) s fun s => spRmw s (.satom la d a v dbl op) (.int op) d a (4 * dreg dbl) v
/-- R192, with the effect of R191. -/
def execSatomCas (la d a : Nat) (v dbl : Bool) (s : State) : Out :=
  issue (.satomCas la d a v dbl) s fun s => spRmw s (.satomCas la d a v dbl) .cas d a (4 * dreg dbl) v

/-! ### MCTL -/

/-- The start of the flat line that holds a lane's offset (R167, R193). -/
def lineVa (s : State) (v : Bool) (a l : Nat) : Nat := (s.c.flat + addrOf s v a l) % 2 ^ 56 / 1024 * 1024

/-- The lines that lanes name, each with its lowest lane (R193). -/
def linesOf (s : State) (v : Bool) (a : Nat) : List (Nat × Nat) :=
  (lanesOf (liveMask s)).foldl (fun xs l => if xs.any (·.2 == lineVa s v a l) then xs else xs ++ [(l, lineVa s v a l)]) []

/-- R193: fetches a line into L1 under a normal lease, with no effect on S; one that cannot be read is ignored. -/
def prefetchLine (s : State) (lane va : Nat) : State :=
  match threadXl s none lane va with
  | some (.ok (.dev k) true _ _) =>
    fetchHome s { tags := [flatTag s.c.vf va], pieces := [(flatTag s.c.vf va, [(k, 1024)])], replica := false } Config.lease
  | _ => s

/-- R193: walks are made for the lines first. -/
def execPrefetch (a : Nat) (v : Bool) (s : State) : Out :=
  issue (.prefetch a v) s fun s =>
    let xs := linesOf s v a
    let miss := xs.filter fun x => (threadXl s none x.1 x.2).isNone
    if miss.isEmpty then closeChecks (xs.foldl (fun s x => prefetchLine s x.1 x.2) s) []
    else stalled (miss.foldl (fun s x => wantWalk s x.1 (wantOf s none x.1 x.2)) s)

/-- Drops every L1 copy and replica of the device, and the copies of peer lines. DESIGN CHOICE: log entry 26. -/
def dropCopies (s : State) : State :=
  { s with
    cores := s.cores.map fun k => if k.copies.isEmpty then k else { k with copies := [] }
    bays := s.bays.map fun b => if b.copies.isEmpty then b else { b with copies := [] }
    fabric := { s.fabric with peerCopies := [] } }

/-- The frame of `discard` and `writeback`: TRANSLATION and NOWRITE (or NOIMPORT) are checked; the write-back stands in S
as a store to the lines without new data, and later memory words wait for it. -/
def cacheOp (s : State) (v : Bool) (a : Nat) (drop : Bool) : State :=
  memOp s (fun l => reachVa s l false true false false [(s.c.flat + addrOf s v a l) % 2 ^ 56]) 0 (fun _ => ([], [])) fun s _ =>
    let s := if liveMask s = 0 then s
      else enqueue s (.store 0 0 (((linesOf s v a).filter fun x => !inPeerWindow x.2).map fun x => flatTag s.c.vf x.2) [])
    if drop then dropCopies s else s

/-- R193. DESIGN CHOICE: log entry 26. -/
def execDiscard (a : Nat) (v : Bool) (s : State) : Out := issue (.discard a v) s fun s => cacheOp s v a true
/-- R193. -/
def execWriteback (a : Nat) (v : Bool) (s : State) : Out := issue (.writeback a v) s fun s => cacheOp s v a false

/-- The word of lane `l` in `tdesc` (R194). Lanes 0 to 15 hold 0 for tensor 0, whose entry is never read.
DESIGN CHOICE: log entry 103. -/
def tdescLane (s : State) (t l : Nat) : Word :=
  let die := dieOfCore s.c.core
  let bs := match cachedDesc s die s.c.vf t with
    | some (some bs) => bs
    | _ => List.replicate 64 0
  let d := validDesc s die s.c.vf t
  if l < 16 then (if t = 0 then 0 else w32 (leAt bs (4 * l) 4))
  else if l = 22 then (if t = 0 then 1 else if d.isSome then 0 else 2)
  else match d with
    | none => 0
    | some d =>
      if l < 20 then w32 (d.grid.getD (l - 16) 0) else if l = 20 then w32 d.q else if l = 21 then w32 d.tiles else 0

/-- R194. -/
def execTdesc (la d a : Nat) (s : State) : Out :=
  issue (.tdesc la d a) s fun s =>
    let h := rdS s.old a
    let go (s : State) : State := resV s (.tdesc la d a) d (tdescLane s (h.toNat % 2 ^ 16)) 0 false
    if h.toNat % 2 ^ 16 = 0 then go s else withDesc s h go

/-! ### Barrier objects -/

/-- A barrier object in its place: `key` names it to the waiting lanes. -/
structure ObjRef where
  key : Nat
  locs : List Loc
  tags : List Tag
  slice : Nat
  deriving DecidableEq, Repr

def objKey : Loc → Nat
  | .dev k => 2 * k
  | .sp q o => 2 * (q * 2 ^ 40 + o) + 1
  | _ => 0

/-- An object at 16 consecutive places. -/
def objAt (vf va : Nat) (ls : List Loc) : ObjRef :=
  match ls with
  | .dev k :: _ => { key := objKey (.dev k), locs := ls, tags := [flatTag vf va], slice := flatSlice (dieOfKey k) va }
  | l :: _ => { key := objKey l, locs := ls, tags := placeTags ls, slice := 0 }
  | [] => { key := 0, locs := [], tags := [], slice := 0 }

/-- The fields of R172: EXPECT, PENDING, PHASE and WAITERS; ARMED stands in the unit's own list. -/
structure Obj where
  expect : Nat
  pending : Nat
  phase : Nat
  armed : Bool
  waiters : Nat
  deriving DecidableEq, Repr

def objArmed (s : State) (o : ObjRef) : Bool := match o.locs with
  | l :: _ => armedAt s l
  | [] => false

def getObj (s : State) (vf : Nat) (o : ObjRef) : Obj :=
  let bs := o.locs.map (locGet s vf)
  { expect := leAt bs 0 4, pending := leAt bs 4 4, phase := leAt bs 8 4, armed := objArmed s o, waiters := leAt bs 12 4 % 2 ^ 16 }

/-- Reads and writes of an object by a core, or by an engine where `core` is none. -/
def sawObj (s : State) (core : Option Nat) (o : ObjRef) : State :=
  match core with
  | some c => readBy s c o.tags 0
  | none => engRead s o.tags
/-- Writes the fields at the home or bank, and arms or disarms. -/
def putObj (s : State) (vf : Nat) (core : Option Nat) (o : ObjRef) (x : Obj) : State :=
  let bs := bytesOfNat 4 x.expect ++ bytesOfNat 4 x.pending ++ bytesOfNat 4 x.phase ++
    bytesOfNat 4 ((if x.armed then 2 ^ 31 else 0) + x.waiters % 2 ^ 16)
  let s := putLocs s vf (o.locs.zip bs)
  let s := match core with
    | some c => writtenBy s c o.tags (o.locs.zip bs)
    | none => engWrite s o.tags
  match o.locs with
  | .dev k :: _ => { s with armed := if x.armed then (k, o.slice) :: s.armed.filter (·.1 != k) else s.armed.filter (·.1 != k) }
  | .sp q off :: _ => updQuad s q fun t =>
      { t with armed := if x.armed then off :: t.armed.filter (· != off) else t.armed.filter (· != off) }
  | _ => s

/-- A barrier result word (R195). -/
def objWord (status phase : Nat) : Word := w32 (status * 2 ^ 24 + phase % 2 ^ 24)

/-- Releases every lane that waits on an object, with a result word (R197, R196): after the write that releases it. -/
def releaseObj (s : State) (o : ObjRef) (x : Word) : State :=
  release s (readTime s o.tags 0) (fun _ _ => true) (fun w => match w with
    | .obj key _ _ _ => key == o.key
    | _ => false) fun w ln => match w with
      | .obj _ _ d _ => { ln with v := ln.v.set d x }
      | _ => ln

/-- Room for one more armed object (R173). -/
def armRoom (s : State) (o : ObjRef) : Bool := match o.locs with
  | .dev _ :: _ => decide ((s.armed.countP fun a => a.2 == o.slice) < 256)
  | .sp q _ :: _ => decide ((quadAt s q).armed.length < 64)
  | _ => false

/-- An access that has not been performed touches the object: it must be performed before the object is armed (R173). -/
def objBusy (s : State) (o : ObjRef) : Bool :=
  (merged s).any fun k => k.warps.any fun w => w.memq.any fun m => m.locs.any fun l => o.locs.contains l

/-- `binit` (R196): the result word and the state. -/
def objInit (s : State) (vf : Nat) (core : Option Nat) (o : ObjRef) (n : Nat) : Word × State :=
  let x := getObj s vf o
  if n = 0 then
    let s := putObj s vf core o { x with expect := 0, pending := 0, armed := false, waiters := 0 }
    (objWord 0 x.phase, releaseObj s o (objWord 5 x.phase))
  else if x.armed then (objWord 2 x.phase, s)
  else if !armRoom s o then (objWord 3 x.phase, s)
  else (objWord 0 x.phase, putObj s vf core o { x with expect := n, pending := n, armed := true, waiters := 0 })

/-- `barrive` (R197): status, PH and the state. -/
def objArrive (s : State) (vf : Nat) (core : Option Nat) (o : ObjRef) (n : Nat) : Nat × Nat × State :=
  let x := getObj s vf o
  if !x.armed then (1, x.phase, s)
  else if n = 0 then (0, x.phase, s)
  else if x.pending < n then (4, x.phase, s)
  else if x.pending = n then
    let ph := (x.phase + 1) % 2 ^ 32
    let s := putObj s vf core o { x with pending := x.expect, phase := ph, waiters := 0 }
    (0, x.phase, releaseObj s o (objWord 0 ph))
  else (0, x.phase, putObj s vf core o { x with pending := x.pending - n })

/-- An engine signal to a device object at a virtual address: a `barrive` of 1, lost where it cannot be made (R197, R214). -/
def signalVa (s : State) (who : Requester) (vf va : Nat) : Bool × State :=
  if va % 16 ≠ 0 then (true, s)
  else match spanAt (xlateFor s who vf) true true va 16 with
    | .ok ls => let r := objArrive s vf none (objAt vf va ls) 1; (r.1 != 0, r.2.2)
    | .error _ => (true, s)
/-- The object of a signal lies on a die out of service, its translation needs a walk, or another device holds its line: the
signal waits (R278, R315, R328). -/
def signalHeld (s : State) (who : Requester) (vf va : Nat) : Bool × State :=
  if va % 16 ≠ 0 then (false, s)
  else match spanAt (xlateFor s who vf) true true va 16 with
    | .error (0, _, _) => (true, askFor s who vf va)
    | .error _ => (false, s)
    | .ok ls => let h := homeClear s vf ls; (!h.1, h.2)

/-- An engine signal to an object in a scratchpad share. -/
def signalSp (s : State) (vf core base size off : Nat) : Bool × State :=
  if off % 16 ≠ 0 || decide (size < off + 16) then (true, s)
  else
    let r := objArrive s vf none (objAt vf 0 ((List.range 16).map fun i => .sp (quadOfCore core) (base + off + i))) 1
    (r.1 != 0, r.2.2)

/-- The object of a BOBJ word, with the checks of R183 and R195 made for the lowest Active lane.
DEDUCED: log entry 27. -/
def reachObj (s : State) (a : Nat) (sp : Bool) (wr : Bool) (l : Nat) : Reach :=
  let o := (rdS s.old a).toNat
  if sp then reachSp s l false true o 16
  else
    let as := flatBytes s.c o 16
    if as.headD 0 % 16 != 0 then .bad ⟨l, 4, 1, as.headD 0, as.headD 0⟩
    else if inPeerWindow (as.headD 0) then .bad ⟨l, 4, 0x0A, as.headD 0, as.headD 0⟩
    else reachVa s l true wr false false as

/-- The atomic unit of an object in device memory serves the core (R180, R195). -/
def objServes (s : State) (o : ObjRef) : State :=
  match o.locs with
  | .dev _ :: _ => unitServes s (some o.slice) (sourceRank o.slice (dieOfCore s.c.core))
  | _ => s

/-- The frame of a BOBJ word: it acts once, on the input of the lowest Active lane; a failed check faults them all, and
the word's window still opens (R255). -/
def bobj (s : State) (i : Instr) (a : Nat) (sp wr : Bool) (go : State → ObjRef → State) : State :=
  let l := (lowest s.iss.active).getD 0
  match reachObj s a sp wr l with
  | .walk w => stalled (wantWalk s l w)
  | .hold | .ask .. => stalled s
  | .bad f => addFaulted (closeChecks s ((lanesOf s.iss.active).map fun l => (l, .bad { f with lane := l }))) i
  | .go ls =>
    let o := objAt s.c.vf ((flatBytes s.c (rdS s.old a).toNat 16).headD 0) ls
    let h := if wr then homeClear s s.c.vf ls else (true, s)
    if !h.1 then stalled h.2
    else
    let s := h.2
    go (sawObj (objServes (closeChecks s []) o) (some s.c.core) o) o
  | .peer _ => s
/-- The input x of a BOBJ word (R195). -/
def bobjIn (s : State) (d : Nat) : Nat := (rdV s.old d ((lowest s.iss.active).getD 0)).toNat

/-- R196. DEDUCED: log entry 76. -/
def execBinit (la d a : Nat) (sp : Bool) (s : State) : Out :=
  issue (.binit la d a sp) s fun s => bobj s (.binit la d a sp) a sp true fun s o =>
    let s := settleAll s
    if objBusy s o then stalled s
    else
      let r := objInit s s.c.vf (some s.c.core) o (bobjIn s d)
      resV r.2 (.binit la d a sp) d (fun _ => r.1) 0 false
/-- R197. -/
def execBarrive (la d a : Nat) (sp : Bool) (s : State) : Out :=
  issue (.barrive la d a sp) s fun s => bobj s (.barrive la d a sp) a sp true fun s o =>
    let r := objArrive s s.c.vf (some s.c.core) o (bobjIn s d)
    resV r.2.2 (.barrive la d a sp) d (fun _ => objWord r.1 r.2.1) 0 false
/-- R198: the check and the wait are one element of S. -/
def execBwait (la d a : Nat) (sp : Bool) (s : State) : Out :=
  issue (.bwait la d a sp) s fun s => bobj s (.bwait la d a sp) a sp true fun s o =>
    let x := getObj s s.c.vf o
    if !x.armed then resV s (.bwait la d a sp) d (fun _ => objWord 1 x.phase) 0 false
    else if x.phase % 2 ^ 24 ≠ bobjIn s d % 2 ^ 24 then resV s (.bwait la d a sp) d (fun _ => objWord 0 x.phase) 0 false
    else waitLanes (addWait (putObj s s.c.vf (some s.c.core) o { x with waiters := x.waiters + 1 }) (.bwait la d a sp))
      (.obj o.key (bobjIn s d % 2 ^ 24) d s.w.nextId)
/-- R199. -/
def execBquery (la d a : Nat) (sp : Bool) (s : State) : Out :=
  issue (.bquery la d a sp) s fun s => bobj s (.bquery la d a sp) a sp false fun s o =>
    let x := getObj s s.c.vf o
    let f (l : Nat) : Word := w32 (match l % 4 with
      | 0 => x.expect | 1 => x.pending | 2 => x.phase | _ => (if x.armed then 2 ^ 31 else 0) + x.waiters)
    resV s (.bquery la d a sp) d f 0 false

end Sys2Proof.Machine
end

