-- ==== Sys2Proof/Machine/Bte.lean ====
section
/-! DEFINITION. The block-transfer engine (R202 to R215): shares as engines reach them, slices, panels, chunks, completion
records and rings, and the words of XCOPY and CRING (R227 to R232). -/

namespace Sys2Proof.Machine

/-! ### Shares as an engine reaches them (R242, R286) -/

/-- The share of a crew: in a scratchpad, or in the image of a saved crew (bay and place in its queue). -/
inductive ShareAt where
  | pad (quad base size : Nat)
  | image (bay i size : Nat)
  /-- The image of a saved crew that was ended: nothing reads it any more. -/
  | gone (size : Nat)
  deriving DecidableEq, Repr

/-- Bay and place of a saved crew. -/
def findSaved (s : State) (crew : Nat) : Option (Nat × Nat × Crew) :=
  (s.bays.mapIdx fun b bay => (b, bay)).findSome? fun x =>
    (x.2.queue.mapIdx fun i q => (i, q)).findSome? fun y => match y.2.saved with
      | some k => if k.id = crew then some (x.1, y.1, k) else none
      | none => none

/-- The kept share of an ended crew (R242): quad, base and size. -/
def findKept (s : State) (crew : Nat) : Option (Nat × Nat × Nat) :=
  (s.quads.mapIdx fun q t => (q, t)).findSome? fun x => (x.2.kept.find? (·.1 == crew)).map fun k => (x.1, k.2.1, k.2.2)

/-- Where a crew's share stands now: with the crew, in its image, or kept where the crew ended. -/
def shareAt (s : State) (crew size : Nat) : ShareAt :=
  match (merged s).find? (·.id == crew) with
  | some k => .pad (quadOfCore k.core) k.shareBase k.shareSize
  | none => match findSaved s crew with
    | some x => .image x.1 x.2.1 x.2.2.shareSize
    | none => match findKept s crew with
      | some k => .pad k.1 k.2.1 k.2.2
      | none => .gone size

def ShareAt.size : ShareAt → Nat
  | .pad _ _ n => n
  | .image _ _ n => n
  | .gone n => n
def imageAt (s : State) (b i : Nat) : Option QCrew := (bayAt s b).queue[i]?
def updImage (s : State) (b i : Nat) (f : QCrew → QCrew) : State := updBay s b fun y => { y with queue := y.queue.modify i f }

def shGet (s : State) (a : ShareAt) (o : Nat) : Byte :=
  match a with
  | .pad q base _ => memGet (quadAt s q).sp (base + o)
  | .image b i _ => ((imageAt s b i).map fun c => memGet c.share o).getD 0
  | .gone _ => 0
def shRead (s : State) (a : ShareAt) (o n : Nat) : List Byte := (List.range n).map fun i => shGet s a (o + i)
def shWrite (s : State) (a : ShareAt) (o : Nat) (bs : List Byte) : State :=
  match a with
  | .pad q base _ => updQuad s q fun t => { t with sp := memWrite t.sp (base + o) bs }
  | .image b i _ => updImage s b i fun c => { c with share := memWrite c.share o bs }
  | .gone _ => s
/-- The lines of a span of a share in S. -/
def shTags (a : ShareAt) (o n : Nat) : List Tag :=
  match a with
  | .pad q base _ => placeTags ((List.range n).map fun i => .sp q (base + o + i))
  | _ => []
/-- A byte of the share is pinned (R219), or belongs to an armed object (R173). -/
def shPinned (s : State) (a : ShareAt) (o : Nat) : Bool :=
  match a with
  | .pad q base _ => pinned s (.sp q (base + o))
  | _ => false
def shArmed (s : State) (a : ShareAt) (o : Nat) : Bool :=
  match a with
  | .pad q base _ => armedAt s (.sp q (base + o))
  | .image b i _ => ((imageAt s b i).map fun c => c.armed.any fun x => decide (x ≤ o) && decide (o < x + 16)).getD false
  | .gone _ => false
/-- Bytes come into a share; those of an armed object stay as they are (R172, R173). DEDUCED: log entry 88. -/
def shFree (s : State) (a : ShareAt) (o : Nat) (bs : List Byte) : State :=
  (bs.mapIdx fun i b => (o + i, b)).foldl (fun s x => if shArmed s a x.1 then s else shWrite s a x.1 [x.2]) s
/-- An engine reads, and writes, bytes of a share: each is an element of S (R202). -/
def shSeen (s : State) (a : ShareAt) (o n : Nat) : State := engRead s (shTags a o n)
def shEng (s : State) (a : ShareAt) (o : Nat) (bs : List Byte) : State := engWrite (shFree s a o bs) (shTags a o bs.length)
/-- A thread's word writes bytes of its share at once. -/
def shCore (s : State) (a : ShareAt) (o : Nat) (bs : List Byte) : State := writtenBy (shFree s a o bs) s.c.core (shTags a o bs.length) []
def shWord (s : State) (a : ShareAt) (o : Nat) : Nat := wordOfBytes (shRead s a o 4)

/-- An engine signal to an object of a share: a `barrive` of 1; whether it was lost (R197, R214, R242). -/
def signalShare (s : State) (vf : Nat) (a : ShareAt) (off : Nat) : Bool × State :=
  match a with
  | .pad q base size => signalSp s vf (4 * q) base size off
  | .image b i size =>
    if off % 16 ≠ 0 || decide (size < off + 16) then (true, s)
    else match imageAt s b i with
      | none => (true, s)
      | some c =>
        let pend := shWord s a (off + 4)
        let put (p ph : Nat) : State := shWrite s a (off + 4) (bytesOfNat 4 p ++ bytesOfNat 4 ph)
        if !c.armed.contains off || pend = 0 then (true, s)
        else if pend = 1 then (false, put (shWord s a off) ((shWord s a (off + 8) + 1) % 2 ^ 32))
        else (false, put (pend - 1) (shWord s a (off + 8)))
  | .gone _ => (true, s)

/-! ### Slices (R206, R207) -/

structure SliceD where
  kind : Nat
  ssp : Nat
  dsp : Nat
  role : Bool
  tgt : Nat
  sig : Bool
  sigsp : Bool
  resv : Nat
  len : Nat
  src : Nat
  dst : Nat
  row0 : Nat
  col0 : Nat
  scl : Nat
  sstr : Nat
  sigaddr : Nat
  deriving DecidableEq, Repr

def parseSlice (bs : List Byte) : SliceD :=
  let w := leAt bs 0 4
  { kind := fld w 0 4, ssp := fld w 4 2, dsp := fld w 6 2, role := bitB w 8, tgt := fld w 9 2, sig := bitB w 11,
    sigsp := bitB w 12, resv := fld w 13 19, len := leAt bs 4 4, src := leAt bs 8 4, dst := leAt bs 12 4,
    row0 := leAt bs 18 2, col0 := leAt bs 16 2, scl := leAt bs 20 4, sstr := leAt bs 24 4, sigaddr := leAt bs 28 4 }

/-- The slices that can give a header: supplied by `xcopy` and readable, in warp order. -/
def ChanEntry.readable (e : ChanEntry) : List SliceD := e.slices.filterMap fun x => match x.bytes with
  | some (b :: bs) => some (parseSlice (b :: bs))
  | _ => none
/-- The header of an operation (R206). -/
def ChanEntry.header (e : ChanEntry) : Option SliceD :=
  match e.readable.find? (·.kind != 0) with
  | some d => some d
  | none => e.readable.head?

/-- The tensor a slice moves. -/
def SliceD.handle (d : SliceD) : Nat := if d.kind = 2 then d.src else d.dst
def sliceDesc (s : State) (e : ChanEntry) (d : SliceD) : Option TDesc := descOf s (dieOfCore e.core) e.vf (d.handle % 2 ^ 16)
/-- Bytes of the scale strip before padding (R208); none for a reserved SCALE. DEDUCED: log entry 85. -/
def stripLen (scale k : Nat) : Nat := [0, 2 * k, 4 * k, 256, 4].getD scale 0
def pad64 (n : Nat) : Nat := (n + 63) / 64 * 64

/-- Byte count of a slice (R209); a tensor without a descriptor has one byte, at which the slice faults. -/
def sliceSize (s : State) (e : ChanEntry) (x : Slice) : Nat :=
  match x.bytes with
  | none => 0
  | some bs =>
    let d := parseSlice bs
    if d.kind = 1 then d.len
    else if d.kind = 2 ∨ d.kind = 3 then
      match sliceDesc s e d with
      | none => 1
      | some t => 8 * t.w * d.len + (if d.kind = 2 then pad64 (stripLen t.scale d.len) else 0)
    else 0
/-- The sizes of an operation's slices (R207); all bytes of a scattered panel count. DESIGN CHOICE: log entry 104. -/
def opSizes (s : State) (e : ChanEntry) : List Nat := e.slices.map (sliceSize s e)

/-- R207: the slice is invalid. DEDUCED: log entry 35. -/
def badSlice (s : State) (e : ChanEntry) (x : Slice) : Bool :=
  match x.bytes with
  | none => false
  | some [] => true
  | some bs =>
    let d := parseSlice bs
    d.resv != 0 || decide (3 < d.kind) || d.ssp == 3 || d.dsp == 3 || (d.kind == 1 && d.ssp == 2 && d.dsp == 2) ||
    (decide (2 ≤ d.kind) && (d.len % 32 != 0 || d.len == 0 || decide (512 < d.len))) ||
    (d.kind == 2 && match sliceDesc s e d with
      | some t =>
        let start := if d.role then d.row0 else d.col0
        (t.scale == 1 && start % 32 != 0) || (t.scale == 2 && start % 16 != 0)
      | none => false)
def badOp (s : State) (e : ChanEntry) : Bool :=
  e.slices.any (badSlice s e) || (e.header.any (·.tgt == 3)) || decide (2 ^ 26 ≤ (opSizes s e).sum)

/-- The descriptors an operation needs are read (R161); none while a table lies on a die out of service. -/
def opDescs (s : State) (e : ChanEntry) : Option State :=
  e.readable.foldl (fun s d => s.bind fun s =>
    if (d.kind = 2 ∨ d.kind = 3) ∧ d.handle % 2 ^ 16 ≠ 0 then fillDesc s (dieOfCore e.core) e.vf (d.handle % 2 ^ 16) else some s)
    (some s)

/-! ### Moving bytes -/

/-- What moving a byte gives: it waits, it is moved, or it ends the operation (status, class, code, address). -/
inductive Moved (α : Type) where
  | ok (a : α)
  | wait (s : State)
  | stop (status cls code addr : Nat)

/-- A flat window address (R80). -/
def ChanEntry.va (e : ChanEntry) (o : Nat) : Nat := (e.flat + o % 2 ^ 32) % 2 ^ 56
def ChanEntry.share (s : State) (e : ChanEntry) : ShareAt := shareAt s e.crew e.shareSize
/-- The bay whose BTE performs an operation, and the channel that translates for it (R276, R278). -/
def ChanEntry.bay (e : ChanEntry) : Nat := bayOfCore e.core
def ChanEntry.req (e : ChanEntry) : Requester := some (e.bay, e.opid % 16)

/-- Reads a byte of virtual memory. -/
def vaByte (s : State) (who : Requester) (vf va : Nat) : Moved Byte :=
  match rights (xlateFor s who vf va) true false with
  | .ok l _ _ _ => if locsPoisoned s [l] then .stop 1 1 32 va else .ok (locGet s vf l)
  | .fail cls code _ => .stop 1 cls code va
  | .wait => .wait (askFor s who vf va)
/-- Writes bits of a byte of virtual memory under a line's tag: never onto an armed object (R173). -/
def vaPut (s : State) (who : Requester) (vf va : Nat) (tag : Tag) (b mask : Byte) : Moved State :=
  match rights (xlateFor s who vf va) false true with
  | .ok l _ _ _ =>
    let h := homeClear s vf [l]
    if armedAt s l then .stop 3 3 1 va
    else if !h.1 then .wait h.2
    else
      let s := h.2
      .ok (engWrite (locPut s vf l ((locGet s vf l &&& ~~~mask) ||| (b &&& mask))) [tag])
  | .fail cls code _ => .stop 1 cls code va
  | .wait => .wait (askFor s who vf va)

/-- Bytes of a share for an operation, with its bound (R171). -/
def shByte (s : State) (e : ChanEntry) (o : Nat) : Moved Byte :=
  let a := e.share s
  if o < a.size then .ok (shGet s a o) else .stop 1 4 2 o
def shPut (s : State) (e : ChanEntry) (o : Nat) (b : Byte) : Moved State :=
  let a := e.share s
  if a.size ≤ o then .stop 1 4 2 o
  else if shArmed s a o then .stop 3 3 1 o
  else if shPinned s a o then .wait s
  else .ok (shEng s a o [b])

/-- R153, R174: a launch of the VF binds the weight stores. -/
def binds (s : State) (vf : Nat) : Bool :=
  s.launches.any fun l => l.vf == vf && (l.st == .walking || l.st == .draining || l.st == .faulted)
/-- Bank groups that a span of weight-store offsets touches (R174, R302). -/
def wsGroups (o n : Nat) : List Nat :=
  (List.range 8).filter fun g => (List.range 64).any fun b => b / 8 == g && ((o / 1024 + (b + 64 - o / 1024 % 64) % 64) * 1024 < o + n : Bool)
/-- R302: every group of the span has an open window on the die, and nothing binds it. -/
def wsOpen (s : State) (vf die o n : Nat) : Bool :=
  !binds s vf && (wsGroups o n).all fun g => (vfAt s vf).windows.contains (die, g)

/-- A byte of a weight store (R174, R187). -/
def wsAt (s : State) (vf o : Nat) : Option Nat :=
  let v := vfAt s vf
  if o < v.wsLen then some (v.wsbase * 2 ^ 20 + o) else none

/-- The request of an operation whose piece holds byte `pos`. -/
def btePiece (s : State) (op kind pos : Nat) : Option (PeerReq × Nat) :=
  s.fabric.reqs.findSome? fun r => match r.who with
    | .bte o p => if o = op ∧ r.kind = kind ∧ p ≤ pos ∧ pos < p + leAt r.body 6 1 then some (r, pos - p) else none
    | _ => none

/-- Bytes of a LINEAR slice's next peer access: no more than are left, inside 16 aligned bytes, which have one import slot, one
page of the home and one barrier object (R173, R325, R326). -/
def peerPiece (va n : Nat) : Nat := min n (16 - va % 16)

/-- A source byte of a LINEAR slice: local byte `j`, operation byte `pos`, `n` bytes left in the chunk. -/
def linSrc (s : State) (e : ChanEntry) (d : SliceD) (j pos n : Nat) : Moved Byte :=
  match d.ssp with
  | 1 => shByte s e (d.src + j)
  | 2 => match wsAt s e.vf (d.src + j) with
    | some a => .ok (memGet (dieAt s (dieOfCore e.core)).ws a)
    | none => .stop 1 4 3 (d.src + j)
  | _ =>
    let va := e.va (d.src + j)
    if inPeerWindow va then
      match btePiece s e.op 0 pos with
      | some (r, i) => match r.answer with
        | none => .wait s
        | some (0, bs) => .ok (bs.getD i 0)
        | some (2, _) => .stop 1 4 0x0C va
        | some _ => .stop 1 4 0x0B va
      | none => match importHandle s e.vf va with
        | .wait => .wait s
        | .absent => .stop 1 4 0x0A va
        | .handle h => .wait (peerAsk s e.vf (.bte e.op pos) h 0 va (peerPiece va n) [] [])
    else vaByte s e.req e.vf va

/-- The line in S that a source byte of a LINEAR slice lies in (R202). -/
def linTags (s : State) (e : ChanEntry) (d : SliceD) (j : Nat) : List Tag :=
  match d.ssp with
  | 1 => shTags (e.share s) (d.src + j) 1
  | 2 => placeTags (((wsAt s e.vf (d.src + j)).map fun a => Loc.ws (dieOfCore e.core) a).toList)
  | _ => if inPeerWindow (e.va (d.src + j)) then [] else [flatTag e.vf (e.va (d.src + j))]

/-- The source bytes of a piece that can be had now. -/
def linRun (s : State) (e : ChanEntry) (d : SliceD) (j pos : Nat) : Nat → List Byte
  | 0 => []
  | n + 1 => match linSrc s e d j pos (n + 1) with
    | .ok b => b :: linRun s e d (j + 1) (pos + 1) n
    | _ => []

/-- Moves one byte of a LINEAR slice. DEDUCED: log entry 33. -/
def linByte (s : State) (e : ChanEntry) (d : SliceD) (j pos n : Nat) : Moved State :=
  let va := e.va (d.dst + j)
  let toPeer := d.dsp = 0 && inPeerWindow va
  match (if toPeer then btePiece s e.op 1 pos else none) with
  | some (r, _) => match r.answer with
    | none => .wait s
    | some (0, _) => .ok s
    | some (2, _) => .stop 1 4 0x0C va
    | some _ => .stop 1 4 0x0B va
  | none =>
    match linSrc s e d j pos n with
    | .wait s => .wait s
    | .stop a b c f => .stop a b c f
    | .ok b =>
      if toPeer then
        match importHandle s e.vf va with
        | .wait => .wait s
        | .absent => .stop 1 4 0x0A va
        | .handle h =>
          let bs := linRun s e d j pos (peerPiece va n)
          .wait (peerAsk s e.vf (.bte e.op pos) h 1 va bs.length [] bs)
      else
        let s := engRead s (linTags s e d j)
        match d.dsp with
        | 1 => shPut s e (d.dst + j) b
        | 2 => match wsAt s e.vf (d.dst + j) with
          | some a =>
            if (dieAt s (dieOfCore e.core)).st = .active ∨ (dieAt s (dieOfCore e.core)).st = .draining then
              .ok (engWrite (updDie s (dieOfCore e.core) fun k => { k with ws := memSet k.ws a b }) (placeTags [.ws (dieOfCore e.core) a]))
            else .wait s
          | none => .stop 1 4 3 (d.dst + j)
        | _ => vaPut s e.req e.vf va (flatTag e.vf va) b 0xFF

/-- Row and column of panel element `n` (R207, R208): groups of 32 along k, then x. -/
def panelPos (d : SliceD) (n : Nat) : Nat × Nat :=
  let x := n % 2048 / 32
  let k := n / 2048 * 32 + n % 32
  if d.role then (d.row0 + k, d.col0 + x) else (d.row0 + x, d.col0 + k)

/-- The checks on a tensor for an engine (R182, R183) and the bits of an element: address of its first byte, bit in it. -/
def elemPlace (s : State) (e : ChanEntry) (d : SliceD) (t : TDesc) (i3 i4 : Nat) : Moved (Nat × Nat) :=
  let p := d.handle / 2 ^ 16
  let a := t.rowAddr p i3 i4 + i4 % t.q * t.w / 8
  match lineHome s e.vf (d.handle % 2 ^ 16) t p i3 i4 with
  | .wait => .wait s
  | .absent => .stop 1 4 9 (a % 2 ^ 56)
  | .slice h _ => if (dieAt s (dieOfBay (h / 16))).st ≠ .active then .wait s else .ok (a % 2 ^ 56, i4 % t.q * t.w % 8)

/-- Reads bytes of virtual memory as one number. -/
def vaNat (s : State) (who : Requester) (vf va : Nat) : Nat → Moved Nat
  | 0 => .ok 0
  | n + 1 => match vaByte s who vf va with
    | .ok b => match vaNat s who vf (va + 1) n with
      | .ok x => .ok (b.toNat + 256 * x)
      | r => r
    | .wait s => .wait s
    | .stop a b c f => .stop a b c f

/-- The bits of panel element `n`: zero beyond the extents (R207). -/
def gatherElem (s : State) (e : ChanEntry) (d : SliceD) (t : TDesc) (n : Nat) : Moved Nat :=
  let (i3, i4) := panelPos d n
  if t.e 3 ≤ i3 ∨ t.e 4 ≤ i4 then .ok 0
  else match elemPlace s e d t i3 i4 with
    | .ok (a, bit) => match vaNat s e.req e.vf a ((bit + t.w + 7) / 8) with
      | .ok x => .ok (x / 2 ^ bit % 2 ^ t.w)
      | r => r
    | .wait s => .wait s
    | .stop a b c f => .stop a b c f

/-- Byte `j` of a panel: the elements whose bits it holds. -/
def gatherPanel (s : State) (e : ChanEntry) (d : SliceD) (t : TDesc) (j n : Nat) : Nat → Moved Nat
  | 0 => .ok 0
  | fuel + 1 =>
    if 8 * j + 8 ≤ n * t.w then .ok 0
    else match gatherElem s e d t n with
      | .ok x => match gatherPanel s e d t j (n + 1) fuel with
        | .ok y => .ok (y + (if 8 * j ≤ n * t.w then x * 2 ^ (n * t.w - 8 * j) else x / 2 ^ (8 * j - n * t.w)))
        | r => r
      | r => r

/-- Where the device reads byte `j` of a scale strip; none beyond the strip, where it is zero (R208). -/
def stripVa (e : ChanEntry) (d : SliceD) (t : TDesc) (j : Nat) : Option Nat :=
  let x0 := if d.role then d.col0 else d.row0
  let k0 := if d.role then d.row0 else d.col0
  if stripLen t.scale d.len ≤ j then none
  else some (e.va (match t.scale with
    | 1 => d.scl + (x0 + j % 64) * d.sstr + (k0 / 32 + j / 64)
    | 2 => d.scl + (x0 + j % 128 / 2) * d.sstr + (k0 / 16 + 2 * (j / 128) + j % 2)
    | 3 => d.scl + 4 * (x0 + j / 4) + j % 4
    | _ => d.scl + j))

/-- The tensor of a slice and its plane are usable (R182: TINVALID, NOSTORE, TBOUNDS). -/
def tensorStop (s : State) (e : ChanEntry) (d : SliceD) : Moved TDesc :=
  let entry := ((vfAt s e.vf).ttbase + 64 * (d.handle % 2 ^ 16)) % 2 ^ 56
  match sliceDesc s e d with
  | none => .stop 1 4 5 entry
  | some t =>
    if t.nostore then .stop 1 4 6 entry
    else if t.e 0 * t.e 1 * t.e 2 ≤ d.handle / 2 ^ 16 then .stop 1 4 4 entry
    else .ok t

/-- The lines that panel elements from `n` lie in, as far as byte `j` holds their bits. -/
def panelTags (e : ChanEntry) (d : SliceD) (t : TDesc) (j n : Nat) : Nat → List Tag
  | 0 => []
  | fuel + 1 =>
    if 8 * j + 8 ≤ n * t.w then []
    else
      let x := panelPos d n
      t.tag e.vf (d.handle % 2 ^ 16) (d.handle / 2 ^ 16) x.1 x.2 :: panelTags e d t j (n + 1) fuel

/-- Moves one byte of a GATHER. -/
def gatherByte (s : State) (e : ChanEntry) (d : SliceD) (j : Nat) : Moved State :=
  match tensorStop s e d with
  | .ok t =>
    let panel := 8 * t.w * d.len
    if j < panel then
      match gatherPanel s e d t j (8 * j / t.w) 9 with
      | .ok x => shPut (engRead s (panelTags e d t j (8 * j / t.w) 9).eraseDups) e (d.dst + j) (BitVec.ofNat 8 x)
      | .wait s => .wait s
      | .stop a b c f => .stop a b c f
    else match stripVa e d t (j - panel) with
      | none => shPut s e (d.dst + j) 0
      | some va => match vaByte s e.req e.vf va with
        | .ok b => shPut (engRead s [flatTag e.vf va]) e (d.dst + j) b
        | .wait s => .wait s
        | .stop a b c f => .stop a b c f
  | .wait s => .wait s
  | .stop a b c f => .stop a b c f

/-- Writes bits at a byte address and upwards: `w` bits of `x` from bit `bit`. -/
def putBits (s : State) (who : Requester) (vf va : Nat) (tag : Tag) (x m : Nat) : Nat → Moved State
  | 0 => .ok s
  | n + 1 => match vaPut s who vf va tag (BitVec.ofNat 8 x) (BitVec.ofNat 8 m) with
    | .ok s => putBits s who vf (va + 1) tag (x / 256) (m / 256) n
    | r => r

/-- Writes panel element `n` into the tensor, unless it lies beyond the extents. -/
def scatterElem (s : State) (e : ChanEntry) (d : SliceD) (t : TDesc) (n : Nat) : Moved State :=
  let (i3, i4) := panelPos d n
  if t.e 3 ≤ i3 ∨ t.e 4 ≤ i4 then .ok s
  else match elemPlace s e d t i3 i4 with
    | .ok (a, bit) =>
      let first := n * t.w / 8
      let bs := shRead s (e.share s) (d.src + first) ((n * t.w + t.w - 1) / 8 - first + 1)
      let x := wordOfBytes bs / 2 ^ (n * t.w % 8) % 2 ^ t.w
      putBits s e.req e.vf a (t.tag e.vf (d.handle % 2 ^ 16) (d.handle / 2 ^ 16) i3 i4) (x * 2 ^ bit) ((2 ^ t.w - 1) * 2 ^ bit)
        ((bit + t.w + 7) / 8)
    | .wait s => .wait s
    | .stop a b c f => .stop a b c f

/-- The elements from `n` on whose last bit lies in panel byte `j`. -/
def scatterElems (s : State) (e : ChanEntry) (d : SliceD) (t : TDesc) (j n : Nat) : Nat → Moved State
  | 0 => .ok s
  | fuel + 1 =>
    if 8 * j + 8 < n * t.w + t.w then .ok s
    else if n * t.w + t.w ≤ 8 * j then scatterElems s e d t j (n + 1) fuel
    else match scatterElem s e d t n with
      | .ok s => scatterElems s e d t j (n + 1) fuel
      | r => r

/-- Moves one byte of a SCATTER: reads a panel byte and writes the elements it completes. -/
def scatterByte (s : State) (e : ChanEntry) (d : SliceD) (j : Nat) : Moved State :=
  match tensorStop s e d with
  | .ok t =>
    if (e.share s).size ≤ d.src + j then .stop 1 4 2 (d.src + j)
    else scatterElems (shSeen s (e.share s) (d.src + j) 1) e d t j (8 * j / t.w) 9
  | .wait s => .wait s
  | .stop a b c f => .stop a b c f

/-- The slice that byte `pos` of an operation belongs to, with its local byte and the slice's bytes (R209). -/
def whichSlice : List Slice → List Nat → Nat → Option (Slice × Nat × Nat)
  | x :: xs, n :: ns, pos => if pos < n then some (x, pos, n) else whichSlice xs ns (pos - n)
  | _, _, _ => none

/-- A slice that is about to write the weight store meets a binding launch, or a bank group without an open window: nothing of
it is written (R174, R212, R302). DEDUCED: log entry 86. -/
def wsBusy (s : State) (e : ChanEntry) (d : SliceD) (len : Nat) : Bool :=
  !wsOpen s e.vf (dieOfCore e.core) d.dst (min len ((vfAt s e.vf).wsLen - d.dst))

/-- Moves byte `pos` of an operation; `n` bytes of the chunk are left. -/
def moveByte (s : State) (e : ChanEntry) (sizes : List Nat) (pos n : Nat) : Moved State :=
  match whichSlice e.slices sizes pos with
  | none => .ok s
  | some (x, j, len) =>
    let d := parseSlice (x.bytes.getD [])
    if d.kind = 1 then
      if d.dsp = 2 ∧ j = 0 ∧ wsBusy s e d len then .stop 2 0 0 0
      else linByte s e d j pos (min n (len - j))
    else if d.kind = 2 then gatherByte s e d j
    else scatterByte s e d j

/-- Moves up to `n` bytes from `pos`: the new place and how the operation ended, if it did. -/
def moveRun (s : State) (e : ChanEntry) (sizes : List Nat) (pos : Nat) : Nat → State × Nat × Option (Nat × Nat × Nat × Nat)
  | 0 => (s, pos, none)
  | n + 1 => match moveByte s e sizes pos (n + 1) with
    | .ok s => moveRun s e sizes (pos + 1) n
    | .wait s => (s, pos, none)
    | .stop a b c f => (s, pos, some (a, b, c, f))

/-! ### Channels -/

def chanAt (s : State) (bay ch : Nat) : Channel := (bayAt s bay).ch.getD ch {}
def updChan (s : State) (bay ch : Nat) (f : Channel → Channel) : State := updBay s bay fun b => { b with ch := b.ch.modify ch f }
def updHead (s : State) (bay ch : Nat) (f : ChanEntry → ChanEntry) : State :=
  updChan s bay ch fun c => { c with entries := c.entries.modify 0 f }

/-- The operation at the head of a channel begins: its descriptors are read, its slices checked (R207, R210). -/
def beginCopy (s : State) (bay ch : Nat) (e : ChanEntry) : State :=
  match opDescs s e with
  | none => s
  | some s =>
    let s := updChan s bay ch fun c => { c with opn := e.opid / 16 % 2 ^ 12, units := 0 }
    updHead s bay ch fun x => { x with started := true, ended := if badOp s e then some (4, 0, 0, 0) else none }

/-- A channel has come on to byte `done` of operation `op`: the outcomes of its walks and the peers' answers are used. -/
def usedUpTo (s : State) (bay ch op done : Nat) : State :=
  dropReqs (usedWalks s bay ch) fun r => match r.who with
    | .bte o p => o == op && r.answer.isSome && decide (p + leAt r.body 6 1 ≤ done)
    | _ => false

/-- One chunk of the copy at the head of a channel (R209, R213, R215). DEDUCED: log entry 33. -/
def copyChunk (s : State) (bay ch n : Nat) : State :=
  match (chanAt s bay ch).entries.head? with
  | none => s
  | some e0 =>
    let s := if e0.started then s else beginCopy s bay ch e0
    match (chanAt s bay ch).entries.head? with
    | none => s
    | some e =>
      if !e.started || e.ended.isSome then s
      else
        let r := moveRun s e (opSizes s e) e.done n
        let s := updHead r.1 bay ch fun x => { x with done := r.2.1, ended := r.2.2 }
        let s := if r.2.1 = e.done then s else usedUpTo s bay ch e.op r.2.1
        updChan s bay ch fun c => { c with units := r.2.1 / 64 % 2 ^ 20 }

/-- Bytes a copy still has to move. -/
def copyLeft (s : State) (e : ChanEntry) : Nat := (opSizes s e).sum - e.done

/-- A channel waits for a walk (R278). -/
def chanWalks (s : State) (bay ch : Nat) : Bool :=
  let me := (0, bay, ch)
  s.dies.any fun d => (d.walks.any fun k => k.waiting.contains me) || d.misses.any fun m => m.2 == me

/-- The next byte falls on a pin (R213), or a peer has not answered. -/
def copyHeld (s : State) (e : ChanEntry) : Bool :=
  match whichSlice e.slices (opSizes s e) e.done with
  | none => false
  | some (x, j, _) =>
    let d := parseSlice (x.bytes.getD [])
    ((d.kind == 2 || (d.kind == 1 && d.dsp == 1)) && shPinned s (e.share s) (d.dst + j)) ||
      (match btePiece s e.op 0 e.done, btePiece s e.op 1 e.done with
        | some (r, _), none => r.answer.isNone
        | _, some (r, _) => r.answer.isNone
        | _, _ => false)

/-! ### Rings and records (R211, R212, R230) -/

/-- The control block of a ring: BASE, SP, LOG2N, HEAD, TAIL; none where it lies outside the share or LOG2N is
reserved. -/
def ringOf (s : State) (a : ShareAt) (n : Nat) : Option (Nat × Bool × Nat × Nat × Nat) :=
  if 1 < n ∨ a.size < 32 * n + 32 then none
  else
    let w := shWord s a (32 * n + 4)
    if 12 < w % 16 then none
    else some (shWord s a (32 * n), bitB w 31, w % 16, shWord s a (32 * n + 8), shWord s a (32 * n + 12))

/-- Records in a ring, modulo 2^32. -/
def ringCount (head tail : Nat) : Nat := (head + 2 ^ 32 - tail) % 2 ^ 32
/-- A ring status word (R230). -/
def ringWord (status avail : Nat) : Word := w32 (status * 2 ^ 24 + min avail 8191)

/-- HEAD of a ring has changed: sleeping lanes go on with the status as it stands (R231). -/
def wakeRing (s : State) (crew n : Nat) (x : Word) : State :=
  let on (w : Wait) : Bool := match w with
    | .ring m _ _ => m == n
    | _ => false
  let dOf (ln : Lane) : Option Nat := match ln.wait with
    | .ring _ d _ => if ln.st = .waiting && on ln.wait then some d else none
    | _ => none
  let s := (((merged s).filter (·.id == crew)).map (·.core)).foldl syncCore s
  mapAllWarps s fun k w =>
    if k.id = crew then releaseWarp on (fun _ ln => ln) ((w.lanes.filterMap dOf).foldl (fun w d => setS w d x) w) else w

/-- What a lane of a crew reads of its ring now: HEAD and the status word (R230). -/
def ringNow (s : State) (k : Crew) (n : Nat) : Nat × Word :=
  let a : ShareAt := .pad (quadOfCore k.core) k.shareBase k.shareSize
  (shWord s a (32 * n + 8), match ringOf s a n with
    | none => ringWord 2 0
    | some (_, _, _, head, tail) => ringWord 0 (ringCount head tail))
/-- Lanes whose ring has a new HEAD, by whatever write, go on (R231). -/
def settleRings (s : State) : State :=
  let waits := (merged s).flatMap fun k => k.warps.flatMap fun w => w.lanes.filterMap fun ln => match ln.st, ln.wait with
    | .waiting, .ring n _ h => if (ringNow s k n).1 ≠ h then some (k.id, n, (ringNow s k n).2) else none
    | _, _ => none
  waits.eraseDups.foldl (fun s x => wakeRing s x.1 x.2.1 x.2.2) s

/-- The record of an operation (R212). -/
def opRecord (opid status cls code : Nat) (lost : Bool) (bytes addr time : Nat) : List Byte :=
  bytesOfNat 4 opid ++ bytesOfNat 4 ((if lost then 2 ^ 20 else 0) + cls * 2 ^ 16 + code * 2 ^ 8 + status) ++ bytesOfNat 4 bytes ++
    bytesOfNat 4 0 ++ bytesOfNat 8 addr ++ bytesOfNat 8 time

/-- Writes a record into a crew's ring: false where it must wait for room, a pin or a walk; a ring that cannot take it gets
none (R212). -/
def putRecord (s : State) (who : Requester) (vf flat crew : Nat) (a : ShareAt) (n : Nat) (rec_ : Nat → List Byte) : Bool × State :=
  match ringOf s a n with
  | none => (true, s)
  | some (base, sp, lg, head, tail) =>
    let slot := base + 32 * (head % 2 ^ lg)
    let bump (s : State) : State :=
      wakeRing (shEng s a (32 * n + 8) (bytesOfNat 4 (head + 1))) crew n (ringWord 0 (ringCount ((head + 1) % 2 ^ 32) tail))
    if (List.range 4).any fun i => shArmed s a (32 * n + 8 + i) then (true, s)
    else if 2 ^ lg ≤ ringCount head tail then (false, s)
    else if (List.range 4).any fun i => shPinned s a (32 * n + 8 + i) then (false, s)
    else if sp then
      if a.size < slot + 32 || (List.range 32).any fun i => shArmed s a (slot + i) then (true, s)
      else if (List.range 32).any fun i => shPinned s a (slot + i) then (false, s)
      else (true, bump (shEng s a slot (rec_ (writeTime s (shTags a slot 32) (engTime s)))))
    else
      let va := (flat + slot % 2 ^ 32) % 2 ^ 56
      match spanAt (xlateFor s who vf) false true va 32 with
      | .error (0, _, a) => (false, askFor s who vf a)
      | .error _ => (true, s)
      | .ok ls =>
        let h := homeClear s vf ls
        if ls.any (armedAt s) then (true, s)
        else if !h.1 then (false, h.2)
        else (true, bump (writeSpan h.2 vf va ls (rec_ (writeTime h.2 (spanTags vf va ls) (engTime h.2)))))

/-- Makes the signal of a header, once; whether it was lost (R214). DEDUCED: log entry 35. -/
def copySignal (s : State) (bay ch : Nat) (e : ChanEntry) (h : SliceD) : Bool × State :=
  match e.sig with
  | some x => (x, s)
  | none =>
    let r := if !h.sig then (false, s) else if h.sigsp then signalShare s e.vf (e.share s) h.sigaddr
      else if inPeerWindow (e.va h.sigaddr) then (true, s) else signalVa s e.req e.vf (e.va h.sigaddr)
    (r.1, updHead r.2 bay ch fun x => { x with sig := some r.1 })

/-- The copy at the head of a channel has moved everything or has ended. -/
def copyOver (s : State) (e : ChanEntry) : Bool := e.formed && e.started && (e.ended.isSome || copyLeft s e == 0)

/-- BTE_COMPLETION of a copy: its signal, its record, and its entry goes; it waits while its ring is full (R212). -/
def copyDone (s : State) (bay ch : Nat) (e : ChanEntry) : State :=
  let fin (s : State) : State :=
    let s := updChan s bay ch fun c => { c with entries := c.entries.drop 1, units := e.done / 64 % 2 ^ 20 }
    dropReqs (forgetWalks s bay ch) fun r => match r.who with
      | .bte o _ => o == e.op
      | _ => false
  match e.header with
  | none => fin s
  | some h =>
    let held := if e.sig.isNone && h.sig && !h.sigsp then signalHeld s e.req e.vf (e.va h.sigaddr) else (false, s)
    if held.1 then held.2
    else
    let r := copySignal held.2 bay ch e h
    if h.tgt = 0 ∨ h.tgt = 3 then fin r.2
    else
      let en := e.ended.getD (0, 0, 0, 0)
      let rec_ := opRecord e.opid en.1 en.2.1 en.2.2.1 r.1 e.done en.2.2.2
      let p := putRecord r.2 e.req e.vf e.flat e.crew (e.share r.2) (h.tgt - 1) rec_
      if p.1 then fin p.2 else p.2

/-! ### Posting (R205) -/

/-- Slices a warp has supplied to a channel. -/
def suppliedBy (k : Crew) (ch warp : Nat) : Nat := ((k.supplied.find? fun t => t.1 == ch && t.2.1 == warp).map (·.2.2)).getD 0

/-- Inserts a slice in warp order. -/
def insertSlice (x : Slice) : List Slice → List Slice
  | [] => [x]
  | y :: ys => if x.warp < y.warp then x :: y :: ys else y :: insertSlice x ys

/-- Every warp of the crew has supplied its slice or has finished. -/
def opReady (k : Crew) (e : ChanEntry) : Bool :=
  (k.warps.mapIdx fun x w => (x, w)).all fun p => p.2.finished || e.slices.any (·.warp == p.1)

/-- Forms an operation: the id is given and reaches the D of every supplying warp (R205). -/
def formOp (s : State) (bay ch : Nat) (e : ChanEntry) : State :=
  let c := chanAt s bay ch
  let id := (c.formed + 1) % 2 ^ 28 * 16 + ch
  let s := updChan s bay ch fun c => { c with
    formed := c.formed + 1, entries := c.entries.map fun x => if x.op = e.op then { x with formed := true, opid := id, ref := s.opSeq } else x }
  mapAllWarps s fun k w =>
    if k.id ≠ e.crew then w
    else match e.slices.find? (·.warp == w.idx) with
      | none => w
      | some sl => { w with pend := w.pend.map fun p => if p.id = sl.pend then { p with open_ := false, writes := [.s p.target.num (w32 id)] } else p }

/-- Forms the operations of a bay's crews that are complete. -/
def formOps (s : State) (bay : Nat) : State :=
  (List.range 16).foldl (fun s ch =>
    (chanAt s bay ch).entries.foldl (fun s e =>
      if e.kind = .copy && !e.formed then
        match findCrew s e.crew with
        | some k => if opReady k e then formOp s bay ch e else s
        | none => s
      else s) s) s

/-- The entry of the operation that a warp's next slice joins. -/
def joinOp (s : State) (bay ch nth : Nat) : Option ChanEntry :=
  (chanAt s bay ch).entries.find? fun e => e.kind == .copy && e.crew == s.c.id && !e.formed && e.nth == nth

/-- R205: the warp must wait: a fifth unformed operation, or no room in the channel. -/
def xcopyStalls (s : State) (bay ch nth : Nat) : Bool :=
  (joinOp s bay ch nth).isNone &&
    (decide (4 ≤ (chanAt s bay ch).entries.countP fun e => e.kind == .copy && e.crew == s.c.id && !e.formed) ||
      decide (Config.chanEntries ≤ (chanAt s bay ch).entries.length))

/-- Supplies one slice (R205, R229). -/
def supply (s : State) (i : Instr) (ch off : Nat) : State :=
  let bay := bayOfCore s.c.core
  let nth := suppliedBy s.c ch s.w.idx + 1
  if xcopyStalls s bay ch nth then stalled s
  else
    let a : ShareAt := .pad (quadOfCore s.c.core) s.c.shareBase s.c.shareSize
    let bytes := if off % 32 ≠ 0 ∨ a.size < off + 32 then [] else shRead s a off 32
    let sl : Slice := { warp := s.w.idx, bytes := some bytes, pend := s.w.nextId }
    let s := match joinOp s bay ch nth with
      | some e => updChan s bay ch fun c => { c with
          entries := c.entries.map fun (x : ChanEntry) => if x.op = e.op then { x with slices := insertSlice sl x.slices } else x }
      | none =>
        let e : ChanEntry := {
          kind := .copy, op := s.opSeq, launch := s.c.launch, crew := s.c.id, vf := s.c.vf, core := s.c.core, shareBase := s.c.shareBase,
          shareSize := s.c.shareSize, flat := s.c.flat, slices := [sl], nth := nth }
        updChan { s with opSeq := s.opSeq + 1 } bay ch fun c => { c with entries := c.entries ++ [e] }
    let s := { s with c := { s.c with
      supplied := (ch, s.w.idx, nth) :: s.c.supplied.filter fun t => !(t.1 == ch && t.2.1 == s.w.idx) } }
    formOps (addPend (syncEngine s s.c.core) i [] 0 false 0 true) bay

/-- R229. -/
def execXcopy (la d ua ub : Nat) (s : State) : Out :=
  issue (.xcopy la d ua ub) s fun s => supply s (.xcopy la d ua ub) ((rdS s.old ub).toNat % 16) (rdS s.old ua).toNat

/-- The share of the issuing crew. -/
def ownShare (s : State) : ShareAt := .pad (quadOfCore s.c.core) s.c.shareBase s.c.shareSize
/-- A uniform result known at once. -/
def resWord (s : State) (i : Instr) (d : Nat) (x : Word) : State := addPend s i [.s d x] 0 false 0 false

/-- R230, R231. -/
def execCpoll (la d ua : Nat) (s : State) : Out :=
  issue (.cpoll la d ua) s fun s =>
    let s := syncCore s s.c.core
    match ringOf s (ownShare s) (rdS s.old ua).toNat with
    | none => resWord s (.cpoll la d ua) d (ringWord 2 0)
    | some (_, _, _, head, tail) => resWord s (.cpoll la d ua) d (ringWord 0 (ringCount head tail))

/-- R231: returns at once, or the lanes wait for HEAD to change (R228: their window is open meanwhile). -/
def execCsleep (la d ua : Nat) (s : State) : Out :=
  issue (.csleep la d ua) s fun s =>
    let s := syncCore s s.c.core
    match ringOf s (ownShare s) (rdS s.old ua).toNat with
    | none => resWord s (.csleep la d ua) d (ringWord 2 0)
    | some (_, _, _, head, tail) =>
      if ringCount head tail = 0 then waitLanes (addWait s (.csleep la d ua)) (.ring (rdS s.old ua).toNat d head)
      else resWord s (.csleep la d ua) d (ringWord 0 (ringCount head tail))

/-- Reads the record slot a `cpop` takes: an error where it cannot be read, 0 where it must wait (R315).
DEDUCED: log entry 38. -/
def slotBytes (s : State) (sp : Bool) (slot : Nat) : Except Nat (List Byte) :=
  if sp then if s.c.shareSize < slot + 32 then .error 2 else .ok (shRead s (ownShare s) slot 32)
  else match readVa s s.c.vf (s.c.flat + slot % 2 ^ 32) 32 with
    | .ok bs => .ok bs
    | .error (0, _, _) => .error 0
    | .error _ => .error 2

/-- Takes a record (R231); the bytes of an armed object stay as they are. DEDUCED: log entry 88. -/
def popRecord (s : State) (i : Instr) (d ring land_ : Nat) : State :=
  match ringOf s (ownShare s) ring with
  | none => resWord s i d (ringWord 2 0)
  | some (base, sp, lg, head, tail) =>
    let n := ringCount head tail
    if land_ % 32 ≠ 0 ∨ s.c.shareSize < land_ + 32 then resWord s i d (ringWord 3 n)
    else if n = 0 then resWord s i d (ringWord 1 0)
    else match slotBytes s sp (base + 32 * (tail % 2 ^ lg)) with
      | .error 0 => stalled s
      | .error _ => resWord s i d (ringWord 2 0)
      | .ok bs =>
        if (List.range 32).any (fun j => shPinned s (ownShare s) (land_ + j)) ||
            (List.range 4).any fun j => shPinned s (ownShare s) (32 * ring + 12 + j) then stalled s
        else resWord (shCore (shCore s (ownShare s) (32 * ring + 12) (bytesOfNat 4 (tail + 1))) (ownShare s) land_ bs) i d (ringWord 0 n)

/-- R230, R231. DEDUCED: log entry 38. -/
def execCpop (la d ua : Nat) (s : State) : Out :=
  issue (.cpop la d ua) s fun s =>
    popRecord (syncCore s s.c.core) (.cpop la d ua) d (rdS s.old ua).toNat (rdS s.old (ua + 1)).toNat

/-- R210, R232: OPN and UNITS. -/
def execXwp (la d ua : Nat) (s : State) : Out :=
  issue (.xwp la d ua) s fun s =>
    let c := chanAt s (bayOfCore s.c.core) ((rdS s.old ua).toNat % 16)
    resWord (syncCore s s.c.core) (.xwp la d ua) d (w32 (c.opn * 2 ^ 20 + c.units))

end Sys2Proof.Machine
end

