-- ==== Sys2Proof/Machine/Qme.lean ====
section
/-! DEFINITION. The quad matrix engine (R216 to R221): records and their checks, the sums of R56 and R57, conversions of
`mout`, the arbiter, and the words of MPOST and MSYNC (R235 to R237). -/

namespace Sys2Proof.Machine

/-! ### Elements (R47 to R52, R56) -/

/-- The floating-point formats that have the shape of `Fmt`, by FMT code (R162). -/
def fmtOf (f : Nat) : Option Fmt :=
  [some fp64, some fp32, some f19, some bf16, some fp16, some e5m2, some e4m3, some e3m4, some e3m2, some e2m3, some e2m1].getD f none
/-- Integer element formats (R52, R162). -/
def isIntFmt (f : Nat) : Bool := decide (13 ≤ f)

/-- A floating-point element as an exact value; `xv` is the extra value of an E2M1 operand (R48). -/
def elemNum (f xv code : Nat) : Num :=
  match f with
  | 2 => f19.decode (code / 2 ^ 13)
  | 10 => if code = 8 then bf16.decode xv else e2m1.decode code
  | 11 => dx8Num code
  | 12 => e8m0Num code
  | _ => match fmtOf f with
    | some g => g.decode code
    | none => .nan false

/-- An integer element; the extra value of a TERN2 operand is rounded and saturated (R48). -/
def elemInt (f xv code : Nat) : Int :=
  match f with
  | 15 | 17 | 21 => code
  | 19 => if code = 2 then (cvtInt 0 (-2 ^ 31) (2 ^ 31 - 1) (bf16.decode xv)).1 else if code = 3 then -1 else code
  | _ => sgn (fmtBits f) code

/-- One operand of a multiply: panel and strip as numbers, format, scale mode, extra value. -/
structure Operand where
  panel : Nat
  strip : Nat
  fmt : Nat
  scale : Nat
  xv : Nat
  deriving DecidableEq, Repr

def mkOperand (bs : List Byte) (fmt scale k xv : Nat) : Operand :=
  let n := 8 * fmtBits fmt * k
  { panel := wordOfBytes (bs.take n), strip := wordOfBytes (bs.drop n), fmt := fmt, scale := scale, xv := xv }
/-- Code of element (x, k) of a panel (R208). -/
def Operand.code (o : Operand) (x k : Nat) : Nat :=
  let w := fmtBits o.fmt
  o.panel / 2 ^ ((k / 32 * 2048 + x * 32 + k % 32) * w) % 2 ^ w
def Operand.byte (o : Operand) (i : Nat) : Nat := o.strip / 2 ^ (8 * i) % 256
/-- Block scale of an element, as an exact value (R53, R208). -/
def Operand.block (o : Operand) (x k : Nat) : Num :=
  match o.scale with
  | 1 => e8m0Num (o.byte (64 * (k / 32) + x))
  | 2 => e4m3.decode (o.byte (128 * (k / 32) + 2 * x + k % 32 / 16))
  | _ => .fin false 1 0
/-- Row or tensor scale as an FP32 code, 1.0 where the operand has none. -/
def Operand.rowScale (o : Operand) (x : Nat) : Nat :=
  match o.scale with
  | 3 => o.strip / 2 ^ (32 * x) % 2 ^ 32
  | 4 => o.strip % 2 ^ 32
  | _ => 0x3F800000

/-- p[k] of R56, exact. -/
def prodNum (a b : Operand) (m n k : Nat) : Num :=
  ((((elemNum a.fmt a.xv (a.code m k)).mul (elemNum b.fmt b.xv (b.code n k))).1.mul (a.block m k)).1.mul (b.block n k)).1
/-- Elements of a group (R56). -/
def groupSize (fa fb : Nat) : Nat :=
  let w := max (fmtBits fa) (fmtBits fb)
  if w ≤ 8 then 32 else if w = 16 then 8 else 4
/-- Exact sum of `n` products from `k`. -/
def sumNum (a b : Operand) (m i k : Nat) : Nat → Num → Num
  | 0, acc => acc
  | n + 1, acc => sumNum a b m i (k + 1) n (acc.add 0 (prodNum a b m i k)).1
def sumInt (a b : Operand) (m i k : Nat) : Nat → Int → Int
  | 0, acc => acc
  | n + 1, acc => sumInt a b m i (k + 1) n (acc + elemInt a.fmt a.xv (a.code m k) * elemInt b.fmt b.xv (b.code i k))

/-- One group of R56 added to C. A sum of zeros alone is +0. DEDUCED: log entry 89. -/
def groupStep (a b : Operand) (m n k g c : Nat) : Nat :=
  if isIntFmt a.fmt then (c + (sumInt a b m n k g 0 % 2 ^ 32).toNat) % 2 ^ 32
  else
    let t := (fp32.round 0 false (sumNum a b m n k g (.fin false 0 0))).1
    let t := if decide (3 ≤ a.scale) || decide (3 ≤ b.scale) then
        (fp32.mul 0 false t (fp32.mul 0 false (a.rowScale m) (b.rowScale n)).1).1 else t
    (fp32.add 0 false c t).1

/-- Element C(m, n) after the operation (R56), from groups still to be added. -/
def sumElem (a b : Operand) (m n g k : Nat) : Nat → Nat → Nat
  | 0, c => c
  | r + 1, c => sumElem a b m n g (k + g) r (groupStep a b m n k g c)
/-- The FP64 sequence of R56. -/
def sumElem64 (a b : Operand) (m n k : Nat) : Nat → Nat → Nat
  | 0, c => c
  | r + 1, c => sumElem64 a b m n (k + 1) r (fp64.fma 0 false (a.code m k) (b.code n k) c).1

/-! ### Records (R217, R218) -/

/-- Fields of an operand record. -/
structure QRec where
  aoff : Nat
  boff : Nat
  afmt : Nat
  bfmt : Nat
  ascale : Nat
  bscale : Nat
  k : Nat
  acc : Nat
  xra : Nat
  xrb : Nat
  loadx : Bool
  xva : Nat
  xvb : Nat
  sig : Bool
  soff : Nat
  sat : Bool
  deriving DecidableEq, Repr

def parseQRec (bs : List Byte) : QRec :=
  let w0 := leAt bs 0 4; let w1 := leAt bs 4 4; let w2 := leAt bs 8 4; let w3 := leAt bs 12 4; let w5 := leAt bs 20 4
  { aoff := fld w0 0 21, boff := fld w1 0 21, afmt := fld w2 27 5, bfmt := fld w2 22 5, ascale := fld w2 19 3,
    bscale := fld w2 16 3, k := fld w2 0 10, acc := fld w3 29 3, xra := fld w3 25 4, xrb := fld w3 21 4, loadx := bitB w3 20,
    xva := leAt bs 16 2, xvb := leAt bs 18 2, sig := bitB w5 31, soff := fld w5 0 21, sat := bitB w2 26 }

/-- RESERVED of R236 for a multiply, and for a `mout`. -/
def mmaReserved (bs : List Byte) : Bool :=
  let r := parseQRec bs
  fld (leAt bs 0 4) 21 11 != 0 || fld (leAt bs 4 4) 21 11 != 0 || fld (leAt bs 8 4) 10 6 != 0 || fld (leAt bs 12 4) 0 20 != 0 ||
    fld (leAt bs 20 4) 21 10 != 0 || leAt bs 24 8 != 0 || decide (21 < r.afmt) || decide (21 < r.bfmt) || decide (4 < r.ascale) ||
    decide (4 < r.bscale)
def moutReserved (bs : List Byte) : Bool :=
  fld (leAt bs 0 4) 21 11 != 0 || leAt bs 4 4 != 0 || fld (leAt bs 8 4) 0 26 != 0 || fld (leAt bs 12 4) 0 29 != 0 ||
    leAt bs 16 4 != 0 || fld (leAt bs 20 4) 21 10 != 0 || leAt bs 24 8 != 0 || decide (21 < (parseQRec bs).afmt)

/-- Refused pairings and scales (R53, R56). -/
def badPair (r : QRec) : Bool :=
  decide (19 < r.afmt) || decide (19 < r.bfmt) || (isIntFmt r.afmt != isIntFmt r.bfmt) ||
    (isIntFmt r.afmt && (r.ascale != 0 || r.bscale != 0)) || ((r.afmt == 0) != (r.bfmt == 0)) ||
    (r.afmt == 0 && (r.ascale != 0 || r.bscale != 0))
def badK (k : Nat) : Bool := k % 32 != 0 || k == 0 || decide (512 < k)

/-- Bytes of an operand with its strip (R208). -/
def operandLen (fmt scale k : Nat) : Nat := 8 * fmtBits fmt * k + pad64 (stripLen scale k)

/-- The first failing check of R236 on a multiply's record, and on a `mout`'s. SOFF has a region where SIG = 1 and is aligned
always. DESIGN CHOICE: log entry 106. -/
def mmaCheck (size : Nat) (bs : List Byte) : Option Nat :=
  let r := parseQRec bs
  if mmaReserved bs then some 2
  else if badK r.k || badPair r then some 3
  else if r.afmt == 0 && r.acc % 2 == 1 then some 4
  else if decide (size < r.aoff + operandLen r.afmt r.ascale r.k) || decide (size < r.boff + operandLen r.bfmt r.bscale r.k)
      || (r.sig && decide (size < r.soff + 16)) then some 5
  else if r.aoff % 64 != 0 || r.boff % 64 != 0 || r.soff % 16 != 0 then some 6
  else none
def moutCheck (size : Nat) (bs : List Byte) : Option Nat :=
  let r := parseQRec bs
  if moutReserved bs then some 2
  else if r.afmt == 0 && r.acc % 2 == 1 then some 4
  else if decide (size < r.aoff + 512 * fmtBits r.afmt) || (r.sig && decide (size < r.soff + 16)) then some 5
  else if r.aoff % 64 != 0 || r.soff % 16 != 0 then some 6
  else none

/-! ### Posts (R216, R218, R219, R235, R236) -/

/-- The lowest free place of the reservation table. DEDUCED: log entry 34. -/
def freeEntry (q : Quad) : Option Nat := (List.range Config.qmeEntries).find? fun e => !q.qme.any (·.entry == e)

/-- Faults every lane of Active with class POST (R236); the word's window opens (R255). -/
def postFault (s : State) (i : Instr) (code addr : Nat) : State :=
  addFaulted (faultLanes s ((lanesOf s.iss.active).map fun l => ⟨l, 5, code, addr, addr⟩)) i

/-- Takes a table entry for a record that passed its checks: kinds 0, 1 (multiply), 2 (`mout`). -/
def acceptPost (s : State) (i : Instr) (kind d cls e : Nat) (bs : List Byte) : State :=
  let q := quadOfCore s.c.core
  let r := parseQRec bs
  let base := s.c.shareBase
  let la := operandLen r.afmt r.ascale r.k
  let lb := operandLen r.bfmt r.bscale r.k
  let seq := ((quadAt s q).qmeSeq + 1) % 2 ^ 27
  let own := ownShare s
  let ent : QmeEntry := {
    entry := e, seq := seq, crew := s.c.id, vf := s.c.vf, cls := cls, kind := kind, record := bs, shareBase := base,
    launch := s.c.launch, slot := r.acc, fp64 := r.afmt == 0,
    pins := if kind = 2 then [(base + r.aoff, 512 * fmtBits r.afmt)] else [(base + r.aoff, la), (base + r.boff, lb)],
    pa := if kind = 2 then [] else shRead s own r.aoff la,
    pb := if kind = 2 then [] else shRead s own r.boff lb,
    posted := s.cycle, op := s.opSeq }
  let s := updQuad { syncEngine s s.c.core with opSeq := s.opSeq + 1 } q fun t => { t with qme := t.qme ++ [ent], qmeSeq := seq }
  resWord s i d (w32 (seq * 32 + e))

/-- The first check of R236 that a post's record fails. -/
def postCheck (s : State) (kind off : Nat) : Option Nat :=
  let a := ownShare s
  if off % 32 ≠ 0 ∨ a.size < off + 32 then some 1
  else
    let bs := shRead s a off 32
    if kind = 2 then moutCheck a.size bs else mmaCheck a.size bs

/-- A post of an operand record (R235): it does not issue while every entry is taken (R216), and its checks come before
an entry is taken (R218). -/
def post (s : State) (i : Instr) (kind d off cls : Nat) : State :=
  match freeEntry (quadAt s (quadOfCore s.c.core)), postCheck s kind off with
  | none, _ => stalled s
  | some _, some code => postFault s i code off
  | some e, none => acceptPost s i kind d cls e (shRead s (ownShare s) off 32)

/-- R235. -/
def execMmaAcc (la d ua k : Nat) (s : State) : Out :=
  issue (.mmaAcc la d ua k) s fun s => post s (.mmaAcc la d ua k) 0 d (rdS s.old ua).toNat k
/-- R235. -/
def execMmaZero (la d ua k : Nat) (s : State) : Out :=
  issue (.mmaZero la d ua k) s fun s => post s (.mmaZero la d ua k) 1 d (rdS s.old ua).toNat k
/-- R235. -/
def execMout (la d ua k : Nat) (s : State) : Out :=
  issue (.mout la d ua k) s fun s => post s (.mout la d ua k) 2 d (rdS s.old ua).toNat k

/-- Posts a clear of a slot; it has no ticket (R235). -/
def postClear (s : State) (i : Instr) (slot cls : Nat) : State :=
  let q := quadOfCore s.c.core
  match freeEntry (quadAt s q) with
  | none => stalled s
  | some e =>
    if 7 < slot then postFault s i 1 slot
    else
      let ent : QmeEntry := {
        entry := e, seq := 2 ^ 27, crew := s.c.id, vf := s.c.vf, cls := cls, kind := 3, record := [],
        shareBase := s.c.shareBase, launch := s.c.launch, slot := slot, fp64 := false, pins := [], posted := s.cycle, op := s.opSeq }
      updQuad { syncEngine s s.c.core with opSeq := s.opSeq + 1 } q fun t => { t with qme := t.qme ++ [ent] }

/-- R235. -/
def execMclear (ua k : Nat) (s : State) : Out :=
  issue (.mclear ua k) s fun s => postClear s (.mclear ua k) (rdS s.old ua).toNat k

/-! ### The arbiter and the array (R220, R221) -/

/-- Slots an entry names. -/
def QmeEntry.slots (e : QmeEntry) : List Nat := if e.kind = 4 then [] else if e.fp64 then [e.slot, e.slot + 1] else [e.slot]
/-- R220, R226: no older entry that has still to be granted names its slot, and no older fence stands before it. An entry
that was granted has left the array when the next grant comes (R221's example). -/
def eligible (q : Quad) (e : QmeEntry) : Bool :=
  !e.active && e.kind != 4 && q.qme.all fun o => o.active || decide (e.op ≤ o.op) || (o.kind != 4 && !o.slots.any fun x => e.slots.contains x)
/-- The class an entry counts as (R220). -/
def effClass (now : Nat) (e : QmeEntry) : Nat := if e.aged || decide (e.posted + 4096 ≤ now) then 3 else e.cls
/-- The entry to grant: the highest class, then the oldest. -/
def pickEntry (now : Nat) (q : Quad) : Option QmeEntry :=
  (q.qme.filter (eligible q)).foldl (fun b e => match b with
    | none => some e
    | some x => if effClass now x < effClass now e ∨ (effClass now x = effClass now e ∧ e.op < x.op) then some e else some x) none

/-- Array cycles of a multiply (R221). -/
def fmtCycles (f k : Nat) : Nat :=
  let w := fmtBits f
  if f = 0 then 4 * k else if f = 1 then 2 * k else if f = 2 then k / 2 else if w = 16 then k / 4 else if 6 ≤ w then k / 8 else k / 16
def arrayCycles (e : QmeEntry) : Nat :=
  let r := parseQRec e.record
  if e.kind < 2 then max (fmtCycles r.afmt r.k) (fmtCycles r.bfmt r.k) else 8

def accAt (q : Quad) (slot i : Nat) : Nat := ((q.acc.getD slot []).getD i 0).toNat
/-- The product of a multiply in its slot (R56, R57). An FP64 accumulator holds bits [31:0] in the even slot (DESIGN CHOICE, log entry 13).
LOADX loads XVA and then XVB, which stands where XRA = XRB (DESIGN CHOICE, log entry 82). -/
def multiply (q : Quad) (e : QmeEntry) : Quad :=
  let r := parseQRec e.record
  let xreg := if r.loadx then (q.xreg.set r.xra (BitVec.ofNat 16 r.xva)).set r.xrb (BitVec.ofNat 16 r.xvb) else q.xreg
  let a := mkOperand e.pa r.afmt r.ascale r.k (xreg.getD r.xra 0).toNat
  let b := mkOperand e.pb r.bfmt r.bscale r.k (xreg.getD r.xrb 0).toNat
  let c (i : Nat) : Nat := if e.kind = 1 then 0 else accAt q r.acc i + (if e.fp64 then 2 ^ 32 * accAt q (r.acc + 1) i else 0)
  if e.fp64 then
    let res := (List.range 4096).map fun i => sumElem64 a b (i / 64) (i % 64) 0 r.k (c i)
    { q with xreg := xreg, acc := (q.acc.set r.acc (res.map w32)).set (r.acc + 1) (res.map fun x => w32 (x / 2 ^ 32)) }
  else
    let g := groupSize r.afmt r.bfmt
    { q with xreg := xreg, acc := q.acc.set r.acc ((List.range 4096).map fun i => w32 (sumElem a b (i / 64) (i % 64) g 0 (r.k / g) (c i))) }

/-! ### `mout` -/

/-- Code of a converted slot element (R217, R54, R55, R48). -/
def outCode (fmt : Nat) (sat : Bool) (x : Nat) : Nat :=
  let v := fp32.decode x
  let int (lo hi : Int) : Nat := ((satI (sgn 32 x) lo hi) % 2 ^ fmtBits fmt).toNat
  match fmt with
  | 0 => (fp64.cvt 0 sat false (fp64.decode x)).1
  | 2 => (f19.cvt 0 sat false v).1 * 2 ^ 13
  | 10 => let c := (e2m1.cvt 0 sat false v).1; if c = 8 then 0 else c
  | 11 => (dx8Encode sat v).1
  | 12 => (e8m0Encode sat v).1
  | 13 => int (-32768) 32767
  | 14 => int (-128) 127
  | 15 => int 0 255
  | 16 => int (-8) 7
  | 17 => int 0 15
  | 18 => int (-2) 1
  | 19 => int (-1) 1
  | 20 => x
  | 21 => int 0 (2 ^ 31 - 1)
  | _ => match fmtOf fmt with
    | some g => (g.cvt 0 sat false v).1
    | none => 0

/-- The panel a `mout` writes: depth 64, x = m, k = n (R208, R217). -/
def outPanel (q : Quad) (e : QmeEntry) : List Byte :=
  let r := parseQRec e.record
  let w := fmtBits r.afmt
  let elem (n : Nat) : Nat :=
    let i := n % 2048 / 32 * 64 + (n / 2048 * 32 + n % 32)
    outCode r.afmt r.sat (accAt q r.acc i + (if e.fp64 then 2 ^ 32 * accAt q (r.acc + 1) i else 0))
  (List.range (512 * w)).map fun j =>
    let n := 8 * j / w
    BitVec.ofNat 8 ((List.range 9).foldl (fun acc i =>
      let m := n + i
      if m * w < 8 * j + 8 ∧ m < 4096 then
        acc + (if 8 * j ≤ m * w then elem m * 2 ^ (m * w - 8 * j) else elem m / 2 ^ (8 * j - m * w)) else acc) 0)

/-! ### Grant and completion -/

/-- QME_GRANT: the arbiter grants an entry when the array is free; a multiply or a clear acts on its slots,
and a `mout` reads its slot. -/
def grant (s : State) (quad : Nat) : State :=
  let q := quadAt s quad
  let now := max s.cycle q.arrayFree
  match pickEntry now q with
  | none => s
  | some e =>
    let q := if e.kind < 2 then multiply q e else if e.kind = 3 then { q with acc := q.acc.set e.slot (List.replicate 4096 0) } else q
    let n := arrayCycles e
    let q := { q with
      arrayFree := now + n
      qme := q.qme.map fun x => if x.op = e.op then
        { x with active := true, due := now + n + 24, pa := if e.kind = 2 then outPanel q e else x.pa } else x }
    { s with cycle := now, quads := s.quads.set quad q }

/-- Lanes that wait on a ticket go on (R237). -/
def wakeTicket (s : State) (quad t : Nat) : State := release s (engTime s) (fun _ _ => true) (· == .ticket quad t) fun _ ln => ln

/-- The entry of a table that a ticket names (R237). -/
def ticketEntry (q : Quad) (t : Nat) : Option QmeEntry := q.qme.find? fun e => e.entry == t % 32 && e.seq == t / 32

/-- The entry goes: its pins are released (R219, R221). -/
def dropEntry (s : State) (quad : Nat) (e : QmeEntry) : State :=
  wakeTicket (updQuad s quad fun q => { q with qme := q.qme.filter (·.op != e.op) }) quad (e.seq * 32 + e.entry)

/-- QME_COMPLETION of a granted entry (R221): a `mout` writes, the pins are released, the object is signalled.
DESIGN CHOICE: log entry 72. -/
def completeEntry (s : State) (quad : Nat) (e : QmeEntry) : State :=
  let s := { s with cycle := max s.cycle e.due }
  let r := parseQRec e.record
  let s := if e.kind = 2 then shEng s (.pad quad e.shareBase (r.aoff + e.pa.length)) r.aoff e.pa else s
  let s := dropEntry s quad e
  if decide (e.kind < 3) && r.sig then (signalSp s e.vf (4 * quad) e.shareBase (r.soff + 16) r.soff).2 else s

/-! ### MSYNC (R237) -/

/-- R237: the write of the operation comes before what the released lanes do. -/
def execMwait (ua : Nat) (s : State) : Out :=
  issue (.mwait ua) s fun s =>
    let q := quadOfCore s.c.core
    let t := (rdS s.old ua).toNat
    let s := syncCore s s.c.core
    match ticketEntry (quadAt s q) t with
    | none => s
    | some _ => waitLanes s (.ticket q t)

/-- R237: 0 DONE, 1 QUEUED, 2 ACTIVE. -/
def execMtest (la d ua : Nat) (s : State) : Out :=
  issue (.mtest la d ua) s fun s =>
    resWord (syncCore s s.c.core) (.mtest la d ua) d (match ticketEntry (quadAt s (quadOfCore s.c.core)) (rdS s.old ua).toNat with
      | none => 0
      | some e => if e.active then 2 else 1)

end Sys2Proof.Machine
end

