-- ==== Sys2Proof/Machine/Workq.lean ====
section
/-! DEFINITION. Work queues (R222 to R225), the words of WORKQ (R238 to R241), queue fences and `drain` (R226, R233, R234),
and what becomes of a crew's engine work when it ends (R242). -/

namespace Sys2Proof.Machine

/-! ### Control blocks (R222) -/

structure QBlk where
  va : Nat
  base : Nat
  lg : Nat
  head : Nat
  tail : Nat
  closed : Bool
  home : Nat
  word : Nat
  deriving DecidableEq, Repr

/-- A queue's control block, for a request that reads it or (`wr`) writes it too; 0 in the error where it must wait for a die out
of service (R315), else the status NOQUEUE. -/
def readBlock (s : State) (wr : Bool) (vf q : Nat) : Except Nat QBlk :=
  let v := vfAt s vf
  let va := (v.qtbase + 32 * q) % 2 ^ 56
  if v.qMax ≤ q then .error 3
  else match (if wr then spanLoc s vf false true va 32 else .ok []), readVa s vf va 32 with
    | .ok _, .ok bs =>
      let w := leAt bs 8 4
      if !bitB w 8 || decide (w % 32 < 5) || decide (16 < w % 32) then .error 3
      else .ok {
        va := va, base := leAt bs 0 8, lg := w % 32, head := leAt bs 16 4, tail := leAt bs 20 4, closed := bitB w 9,
        home := fld w 5 3, word := w }
    | .error (0, _, _), _ => .error 0
    | _, .error (0, _, _) => .error 0
    | _, _ => .error 3

/-- A queue's control block in service: requests wait while its HOMEDIE is out of service (R315). -/
def queueBlock (s : State) (wr : Bool) (vf q : Nat) : Except Nat QBlk :=
  match readBlock s wr vf q with
  | .ok b => if (dieAt s b.home).st = .active then .ok b else .error 0
  | .error e => .error e

def QBlk.count (b : QBlk) : Nat := (b.tail + 2 ^ 32 - b.head) % 2 ^ 32
/-- Writes a word of the block, which was readable and writable. -/
def putQ (s : State) (vf va x : Nat) : State := match writeVa s vf va (bytesOfNat 4 x) with
  | .ok s => s
  | .error _ => s
def setHead (s : State) (vf : Nat) (b : QBlk) (h : Nat) : State := putQ s vf (b.va + 0x10) h
def setTail (s : State) (vf : Nat) (b : QBlk) (t : Nat) : State := putQ s vf (b.va + 0x14) t

/-- The words that requests of a queue write may be written: no other device holds their lines (R328); `push` says that the
slot at TAIL is written too. -/
def queueClear (s : State) (push : Bool) (vf q : Nat) : Bool × State :=
  if s.fabric.dir.isEmpty && s.fabric.invals.isEmpty then (true, s)
  else match queueBlock s true vf q with
    | .error _ => (true, s)
    | .ok b =>
      let h := spanClear s vf b.va 32
      let g := if push then spanClear h.2 vf (b.base + 32 * (b.tail % 2 ^ b.lg)) 32 else (true, h.2)
      (h.1 && g.1, g.2)

/-- The queue status word (R238): a status alone, and a status with the fields of the queue. -/
def qWord0 (status : Nat) : Word := w32 (status * 2 ^ 24)
def qWord (status : Nat) (b : QBlk) : Word :=
  w32 (status * 2 ^ 24 + (if b.closed then 2 ^ 23 else 0) + 2 ^ 22 + min b.count 65536)
/-- The word of a queue as it stands after a request. -/
def qWordNow (s : State) (vf q status : Nat) : Word := match queueBlock s false vf q with
  | .ok b => qWord status b
  | .error _ => qWord0 status

/-- Reserved bits of an operand word (R238). -/
def badQWord (push : Bool) (w : Nat) : Bool := fld w 12 18 != 0 || (if push then fld w 30 2 == 3 else fld w 30 2 != 0)

/-! ### Landing (R224, R240) -/

/-- The END entry (R142). -/
def endEntry : List Byte := 2 :: List.replicate 31 0
/-- A landing block receives 32 bytes and then its ready word; a block outside the share loses them (R224). -/
def landEntry (s : State) (a : ShareAt) (off : Nat) (bs : List Byte) (ready : Nat) : State :=
  if off % 64 ≠ 0 ∨ a.size < off + 64 then s
  else shEng (shEng s a off bs) a (off + 32) (bytesOfNat 4 (2 ^ 31 + ready % 2 ^ 31))
/-- A refusal record (R240). -/
def landRefusal (s : State) (a : ShareAt) (off status : Nat) : State :=
  landEntry s a off (0 :: BitVec.ofNat 8 status :: List.replicate 30 0) 0

def WqReq.share (s : State) (r : WqReq) : ShareAt := shareAt s r.crew r.shareSize
def WqReq.qid (r : WqReq) : Nat := r.word % 2 ^ 12

/-! ### Refill bindings (R225) -/

def updBinding (s : State) (quad crew qid : Nat) (f : Binding → Binding) : State :=
  updQuad s quad fun q => { q with bindings := q.bindings.map fun b => if b.crew = crew ∧ b.qid = qid then f b else b }
def findBinding (s : State) (quad crew qid : Nat) : Option Binding :=
  (quadAt s quad).bindings.find? fun b => b.crew == crew && b.qid == qid

/-- Drops requests from every queue engine. -/
def dropWq (s : State) (f : WqReq → Bool) : State :=
  { s with dies := s.dies.map fun d => if d.wq.any f then { d with wq := d.wq.filter fun r => !f r } else d }

/-- The share that holds a bound block. -/
def Binding.share (quad : Nat) (b : Binding) : ShareAt := .pad quad b.base 0
def bindWord (s : State) (quad : Nat) (b : Binding) (o : Nat) : Nat := shWord s (b.share quad) (b.block + o)

/-- A binding ends: DONE is set, its waiting pops go. -/
def endBinding (s : State) (quad : Nat) (b : Binding) : State :=
  let s := updQuad s quad fun q => { q with bindings := q.bindings.filter fun x => !(x.crew == b.crew && x.qid == b.qid) }
  let s := shEng s (b.share quad) (b.block + 8) (bytesOfNat 4 (Nat.lor (bindWord s quad b 8) (2 ^ 31)))
  dropWq s fun r => r.kind == .refill && r.crew == b.crew && r.qid == b.qid

/-- An entry fills the next slot of a block, and FILL follows (R224, R225). -/
def fillSlot (s : State) (quad : Nat) (b : Binding) (bs : List Byte) (ready : Nat) : State :=
  let n := bindWord s quad b 8 % 128
  let fill := bindWord s quad b 4
  let slot := b.block + 64 + 64 * (fill % max n 1)
  let a := b.share quad
  shEng (shEng (shEng s a slot bs) a (slot + 32) (bytesOfNat 4 (2 ^ 31 + ready % 2 ^ 31))) a (b.block + 4) (bytesOfNat 4 (fill + 1))

/-! ### Service (R223) -/

/-- What a pop finds: nothing yet, a refusal, an END entry, or an entry with its HEAD. -/
inductive Popped where
  | hold
  | empty
  | refused (status : Nat)
  | ended (head : Nat)
  | got (bs : List Byte) (head : Nat) (s : State)

/-- Takes the entry at HEAD. -/
def popEntry (s : State) (vf q : Nat) : Popped :=
  match queueBlock s true vf q with
  | .error 0 => .hold
  | .error st => .refused st
  | .ok b =>
    let slot := b.base + 32 * (b.head % 2 ^ b.lg)
    if b.count = 0 then (if b.closed then .ended b.head else .empty)
    else match readVa s vf slot 32 with
      | .ok bs => .got bs b.head (setHead (engRead s [flatTag vf slot]) vf b (b.head + 1))
      | .error (0, _, _) => .hold
      | .error _ => .refused 3

/-- A pop of a refill binding that has its entry. -/
def landRefill (s : State) (r : WqReq) (bs : List Byte) (ready : Nat) (isEnd : Bool) : State :=
  match findBinding s r.quad r.crew r.qid with
  | none => s
  | some b =>
    let s := updBinding (fillSlot s r.quad b bs ready) r.quad r.crew r.qid fun b => { b with out := b.out - 1 }
    if isEnd then endBinding s r.quad b else s

/-- An entry or END reaches the pop it was taken for. -/
def landPop (s : State) (r : WqReq) (bs : List Byte) (head : Nat) (isEnd : Bool) : State :=
  match r.kind with
  | .pop off => landEntry s (r.share s) off bs head
  | .refill => landRefill s r bs head isEnd
  | _ => s
/-- A pop is refused. -/
def refusePop (s : State) (r : WqReq) (status : Nat) : State :=
  match r.kind with
  | .pop off => landRefusal s (r.share s) off status
  | .refill => updBinding s r.quad r.crew r.qid fun b => { b with out := b.out - 1 }
  | _ => s

/-- The first waiting pop of a queue. -/
def waitingPop (s : State) (vf q : Nat) : Option WqReq :=
  (s.dies.flatMap (·.wq)).find? fun r => r.waiting && r.vf == vf && r.qid == q

/-- Serves the waiting pops of a queue in arrival order while entries, or END, are there for them. -/
def serveWaiting (s : State) (vf q : Nat) : Nat → State
  | 0 => s
  | fuel + 1 =>
    match waitingPop s vf q with
    | none => s
    | some r =>
      let gone (s : State) : State := dropWq s (·.op == r.op)
      match popEntry s vf q with
      | .hold | .empty => s
      | .refused st => serveWaiting (refusePop (gone s) r st) vf q fuel
      | .ended h => serveWaiting (landPop (gone s) r endEntry h true) vf q fuel
      | .got bs h s' => serveWaiting (landPop (gone s') r bs h false) vf q fuel

/-- Pops that wait at the engines of the device. -/
def waitingCount (s : State) : Nat := (s.dies.flatMap (·.wq)).countP (·.waiting)
/-- DEDUCED: log entry 48. -/
def wakePops (s : State) (vf q : Nat) : State := serveWaiting s vf q (waitingCount s)

/-- Copies an entry into slot TAIL and counts it: none where its slot cannot be written, or must wait. -/
def pushEntry (s : State) (vf : Nat) (b : QBlk) (bs : List Byte) : Except Nat State :=
  match writeVa s vf (b.base + 32 * (b.tail % 2 ^ b.lg)) bs with
  | .ok s => .ok (setTail s vf b (b.tail + 1))
  | .error (0, _, _) => .error 0
  | .error _ => .error 3

/-- Sets CLOSED; the waiting pops take END (R223). None while the block's die is out of service (R315). -/
def closeQueue (s : State) (vf q : Nat) : Option State :=
  match queueBlock s true vf q with
  | .ok b => some (wakePops (putQ s vf (b.va + 8) (Nat.lor b.word (2 ^ 9))) vf q)
  | .error 0 => none
  | .error _ => some s

/-- A result reaches the warp that asked: it knows of all the engine has done. -/
def answer (s : State) (r : WqReq) (pend : Nat) (x : Word) : State :=
  let s := match findCrew s r.crew with
    | some k => syncCore s k.core
    | none => s
  updWarp s r.crew r.warp fun w => { w with pend := w.pend.map fun p =>
    if p.id = pend then { p with open_ := false, writes := [.s p.target.num x] } else p }

/-- A push (R223, R238): status and state, none where it must wait. -/
def servePush (s : State) (r : WqReq) (entry : List Byte) : Option (Word × State) :=
  match queueBlock s true r.vf r.qid with
  | .error 0 => none
  | .error st => some (qWord0 st, s)
  | .ok b => match pushEntry s r.vf b (if entry.length = 32 then entry else List.replicate 32 0) with
    | .error 0 => none
    | .error st => some (qWord0 st, s)
    | .ok t =>
      if entry.length ≠ 32 then some (qWord0 5, s)
      else if entry.getD 0 0 ≠ 1 then some (qWord 4 b, s)
      else if b.closed then some (qWord 2 b, s)
      else if 2 ^ b.lg ≤ b.count then some (qWord 1 b, s)
      else let t := wakePops t r.vf r.qid; some (qWordNow t r.vf r.qid 0, t)

/-- A waiting pop takes its place before the requests of its queue that are still to be served. -/
def insertWait (r : WqReq) : List WqReq → List WqReq
  | [] => [r]
  | x :: xs => if !x.waiting && x.vf == r.vf && x.qid == r.qid then r :: x :: xs else x :: insertWait r xs

/-- The pops of a refill arrival (R225): `n` of them, in order; the first refused one stops it, and those that lie on a
die out of service stay due (R315). -/
def refillPops (s : State) (quad crew vf qid : Nat) : Nat → State
  | 0 => s
  | n + 1 =>
    match findBinding s quad crew qid with
    | none => s
    | some b =>
      match (if (waitingPop s vf qid).isNone then popEntry s vf qid else .empty) with
      | .hold => updBinding s quad crew qid fun b => { b with due := n + 1 }
      | .refused _ => s
      | .ended h => endBinding (fillSlot s quad b endEntry h) quad b
      | .got bs h s' => refillPops (fillSlot s' quad b bs h) quad crew vf qid n
      | .empty =>
        let home := match queueBlock s false vf qid with
          | .ok b => b.home
          | .error _ => 0
        let r : WqReq := {
          kind := .refill, word := qid, vf := vf, crew := crew, warp := 0, quad := quad, shareBase := b.base, shareSize := 0,
          op := s.opSeq, waiting := true }
        let s := updBinding { s with opSeq := s.opSeq + 1 } quad crew qid fun b => { b with out := b.out + 1 }
        refillPops (updDie s home fun d => { d with wq := insertWait r d.wq }) quad crew vf qid n

/-- The refill rule of a bound block (R225). Pops that wait count as filled slots (DESIGN CHOICE, log entry 14). -/
def refill (s : State) (quad : Nat) (b : Binding) : State :=
  let n := bindWord s quad b 8 % 128
  let t := bindWord s quad b 8 / 2 ^ 8 % 128
  let d := (bindWord s quad b 4 + b.out + 2 ^ 32 - bindWord s quad b 0) % 2 ^ 32
  let s := engRead (updBinding s quad b.crew b.qid fun b => { b with pending := false }) (shTags (b.share quad) b.block 12)
  if d ≤ n ∧ t ≤ n - d then refillPops s quad b.crew b.vf b.qid (n - d) else s

/-- A bind (R225, R238, R239). -/
def serveBind (s : State) (r : WqReq) (off : Nat) : Option (Word × State) :=
  match queueBlock s false r.vf r.qid with
  | .error 0 => none
  | .error st => some (qWord0 st, s)
  | .ok b =>
    let a := r.share s
    let w := shWord s a (off + 8)
    let n := w % 128
    let t := w / 2 ^ 8 % 128
    if off % 64 ≠ 0 ∨ a.size < off + 64 ∨ n = 0 ∨ 64 < n ∨ t = 0 ∨ 64 < t ∨ a.size < off + 64 * (n + 1) then some (qWord0 5, s)
    else
      let old := findBinding s r.quad r.crew r.qid
      if 4 ≤ ((quadAt s r.quad).bindings.filter fun x => !(x.crew == r.crew && x.qid == r.qid)).length then some (qWord 6 b, s)
      else match a with
        | .pad quad base _ =>
          let s := match old with
            | some x => endBinding s quad x
            | none => s
          let x : Binding := { crew := r.crew, vf := r.vf, qid := r.qid, block := off, base := base, pending := false }
          let s := refill (updQuad s quad fun q => { q with bindings := q.bindings ++ [x] }) quad x
          some (qWordNow s r.vf r.qid 0, s)
        | .image .. | .gone _ => some (qWord0 5, s)

/-- An unbind (R239). -/
def serveUnbind (s : State) (r : WqReq) : Option (Word × State) :=
  match queueBlock s false r.vf r.qid with
  | .error 0 => none
  | .error st => some (qWord0 st, s)
  | .ok b => match findBinding s r.quad r.crew r.qid with
    | none => some (qWord 6 b, s)
    | some x => some (qWord 0 b, endBinding s r.quad x)

/-- One request is served (R223): the state without it, none where it must wait. DEDUCED: log entries 37, 48. -/
def serveReq (s : State) (die : Nat) (r : WqReq) : Option State :=
  let gone (s : State) : State := dropWq s (·.op == r.op)
  let reply (pend : Nat) (x : Option (Word × State)) : Option State := x.map fun x => answer (gone x.2) r pend x.1
  match r.kind with
  | .push e p => reply p (if badQWord true r.word then some (qWord0 7, s) else servePush s r e)
  | .bind off p => reply p (if badQWord true r.word then some (qWord0 7, s) else serveBind s r off)
  | .unbind _ p => reply p (if badQWord true r.word then some (qWord0 7, s) else serveUnbind s r)
  | .stat p => reply p (if badQWord false r.word then some (qWord0 7, s) else match queueBlock s false r.vf r.qid with
    | .error 0 => none
    | .error st => some (qWord0 st, s)
    | .ok b => some (qWord 0 b, engRead s [flatTag r.vf b.va]))
  | .close => if badQWord false r.word then some (gone s) else (closeQueue s r.vf r.qid).map gone
  | .refill => some s
  | .pop off =>
    if badQWord false r.word then some (landRefusal (gone s) (r.share s) off 7)
    else match (if (waitingPop s r.vf r.qid).isSome then .empty else popEntry s r.vf r.qid) with
      | .hold => none
      | .refused st => some (landRefusal (gone s) (r.share s) off st)
      | .ended h => some (landEntry (gone s) (r.share s) off endEntry h)
      | .got bs h s' => some (landEntry (gone s') (r.share s') off bs h)
      | .empty => some (updDie s die fun d => { d with wq := d.wq.map fun x => if x.op = r.op then { x with waiting := true } else x })

/-- Requests of a queue that have arrived and are not served: the engine takes them before anything that arrives later. -/
def queueBusy (s : State) (vf q : Nat) : Bool := s.dies.any fun d => d.wq.any fun r => !r.waiting && r.vf == vf && r.qid == q

/-- Pops of a refill arrival are due: they came before every later request of the queue. -/
def refillDue (s : State) (vf q : Nat) : Bool := s.quads.any fun t => t.bindings.any fun b => decide (0 < b.due) && b.vf == vf && b.qid == q

def WqKind.isPush : WqKind → Bool
  | .push .. => true
  | _ => false

/-- WORKQ_REQUEST_SERVED: request `i` of a die's engine, unless one of its queue came before it; for a waiting pop, whatever
its queue now holds for it. -/
def serveAt (s : State) (die i : Nat) : State :=
  let d := dieAt s die
  match d.wq[i]? with
  | none => s
  | some r =>
    let h := queueClear s r.kind.isPush r.vf r.qid
    if d.st != .active then s
    else if !h.1 then h.2
    else if r.waiting then wakePops h.2 r.vf r.qid
    else if refillDue s r.vf r.qid || (d.wq.take i).any fun x => !x.waiting && x.vf == r.vf && x.qid == r.qid then s
    else (serveReq h.2 die r).getD h.2

/-- REFILL_ARRIVAL: binding `i` of a quad, after a store to its CONS, or for the pops of an arrival that are still due. -/
def refillAt (s : State) (quad i : Nat) : State :=
  match (quadAt s quad).bindings[i]? with
  | some b =>
    let h := queueClear s false b.vf b.qid
    if !h.1 then h.2
    else
    let s := h.2
    if 0 < b.due then refillPops (updBinding s quad b.crew b.qid fun b => { b with due := 0 }) quad b.crew b.vf b.qid b.due
    else if b.pending && !queueBusy s b.vf b.qid && !refillDue s b.vf b.qid then refill s quad b else s
  | none => s

/-- A push of a Tiller (R141): never refused for CLOSED; none while it must wait. -/
def tillerPushEntry (s : State) (vf q : Nat) (bs : List Byte) : Option State :=
  if queueBusy s vf q || refillDue s vf q then none
  else match queueBlock s true vf q with
    | .error _ => none
    | .ok b =>
      if 2 ^ b.lg ≤ b.count then none
      else match pushEntry s vf b bs with
        | .ok s => some (wakePops s vf q)
        | .error _ => none

/-! ### The words of WORKQ (R238 to R241) -/

/-- The die whose engine a request goes to: the queue's HOMEDIE, the own die where it cannot be read. -/
def queueDie (s : State) (vf q : Nat) : Nat := match readBlock s false vf q with
  | .ok b => b.home
  | .error _ => dieOfCore s.c.core

/-- Hands a request to its engine. -/
def sendReq (s : State) (kind : WqKind) (word : Word) : State :=
  let w := word.toNat
  let r : WqReq := {
    kind := kind, word := w, vf := s.c.vf, crew := s.c.id, warp := s.w.idx, quad := quadOfCore s.c.core,
    shareBase := s.c.shareBase, shareSize := s.c.shareSize, op := s.opSeq, launch := s.c.launch }
  updDie { syncEngine s s.c.core with opSeq := s.opSeq + 1 } (queueDie s s.c.vf (w % 2 ^ 12)) fun d => { d with wq := d.wq ++ [r] }

/-- R239: the entry is read when the word issues. -/
def pushKind (s : State) (word off : Nat) : WqKind :=
  match word / 2 ^ 30 with
  | 1 => .bind off s.w.nextId
  | 2 => .unbind off s.w.nextId
  | _ => .push (if off % 32 ≠ 0 ∨ s.c.shareSize < off + 32 then [] else shRead s (ownShare s) off 32) s.w.nextId

/-- R238, R239. -/
def execQpush (la d ua : Nat) (s : State) : Out :=
  issue (.qpush la d ua) s fun s =>
    addPend (sendReq s (pushKind s (rdS s.old ua).toNat (rdS s.old (ua + 1)).toNat) (rdS s.old ua)) (.qpush la d ua) [] 0 false 0 true

/-- R240. -/
def execQpop (ua : Nat) (s : State) : Out :=
  issue (.qpop ua) s fun s => sendReq s (.pop (rdS s.old (ua + 1)).toNat) (rdS s.old ua)

/-- R240: one pop for each lane, in ascending order. -/
def execQpopLanes (d ua : Nat) (s : State) : Out :=
  issue (.qpopLanes d ua) s fun s =>
    (lanesOf (liveMask s)).foldl (fun s l => sendReq s (.pop (rdV s.old d l).toNat) (rdS s.old ua)) s

/-- R241. -/
def execQstat (la d ua : Nat) (s : State) : Out :=
  issue (.qstat la d ua) s fun s => addPend (sendReq s (.stat s.w.nextId) (rdS s.old ua)) (.qstat la d ua) [] 0 false 0 true

/-- R241. -/
def execQclose (ua : Nat) (s : State) : Out :=
  issue (.qclose ua) s fun s => sendReq s .close (rdS s.old ua)

/-! ### Queue fences (R226, R233) -/

/-- The channels of a fence mask. -/
def fenceChans (mask : Nat) : List Nat := (List.range 16).filter fun c => bitB mask c

/-- Places a fence in every selected queue; it waits while one is full. -/
def placeFence (s : State) (mask : Nat) : State :=
  let bay := bayOfCore s.c.core
  let q := quadOfCore s.c.core
  let chans := fenceChans mask
  let qme := bitB mask 16
  if (chans.any fun c => decide (Config.chanEntries ≤ (chanAt s bay c).entries.length)) || (qme && (freeEntry (quadAt s q)).isNone) then stalled s
  else
    let n := s.opSeq
    let e : ChanEntry := {
      kind := .fence, op := n, crew := s.c.id, vf := s.c.vf, core := s.c.core, shareBase := s.c.shareBase,
      shareSize := s.c.shareSize, flat := s.c.flat, formed := true, ref := n }
    let s := chans.foldl (fun s c => updChan s bay c fun ch => { ch with entries := ch.entries ++ [e] }) { s with opSeq := n + 1 }
    if qme then
      let x : QmeEntry := {
        entry := (freeEntry (quadAt s q)).getD 0, seq := 2 ^ 27, crew := s.c.id, vf := s.c.vf, cls := 0, kind := 4, record := [],
        shareBase := s.c.shareBase, slot := 0, fp64 := false, pins := [], posted := s.cycle, op := n, fence := n }
      updQuad s q fun t => { t with qme := t.qme ++ [x] }
    else s

/-- A fence has every earlier entry of its queues behind it: it heads each of its channels, and no older entry is left
in its table. -/
def fenceOver (s : State) (bay n : Nat) : Bool :=
  (bayAt s bay).ch.all (fun c => match c.entries with
    | [] => true
    | e :: es => decide (e.kind = .fence ∧ e.ref = n) || !es.any fun x => decide (x.kind = .fence ∧ x.ref = n)) &&
  (List.range 4).all fun i =>
    let q := (quadAt s (4 * bay + i)).qme
    !(q.any fun e => e.kind == 4 && e.fence == n) || q.all fun e => decide (n ≤ e.op)

/-- Fences in the queues of a bay. -/
def fencesOf (s : State) (bay : Nat) : List Nat :=
  ((bayAt s bay).ch.flatMap fun c => c.entries.filterMap fun e => if e.kind = .fence then some e.ref else none) ++
    (List.range 4).flatMap fun i => (quadAt s (4 * bay + i)).qme.filterMap fun e => if e.kind = 4 then some e.fence else none

/-- The entries of a fence go. -/
def dropFence (s : State) (bay n : Nat) : State :=
  let s := updBay s bay fun b => { b with ch := b.ch.map fun c => { c with entries := c.entries.filter fun e => !(e.kind == .fence && e.ref == n) } }
  (List.range 4).foldl (fun s i => updQuad s (4 * bay + i) fun q => { q with qme := q.qme.filter fun e => !(e.kind == 4 && e.fence == n) }) s

/-- Completes the fences of a bay that have nothing left before them, as far as they go. -/
def checkFences (s : State) (bay : Nat) : Nat → State
  | 0 => s
  | fuel + 1 => match (fencesOf s bay).find? (fenceOver s bay) with
    | none => s
    | some n => checkFences (dropFence s bay n) bay fuel
def settleFences (s : State) (bay : Nat) : State := checkFences s bay (fencesOf s bay).length

/-- R237: removes a QUEUED entry. -/
def execMcancel (la d ua : Nat) (s : State) : Out :=
  issue (.mcancel la d ua) s fun s =>
    let q := quadOfCore s.c.core
    match ticketEntry (quadAt s q) (rdS s.old ua).toNat with
    | none => resWord s (.mcancel la d ua) d 0
    | some e => if e.active then resWord s (.mcancel la d ua) d 2 else resWord (settleFences (dropEntry s q e) (bayOfCore s.c.core)) (.mcancel la d ua) d 1

/-- R233. -/
def execQfence (ua : Nat) (s : State) : Out :=
  issue (.qfence ua) s fun s =>
    let s := placeFence s ((rdS s.old ua).toNat % 2 ^ 17)
    settleFences s (bayOfCore s.c.core)

/-- A core lies within a scope of another (R102, R234). -/
def inScope (scope core other : Nat) : Bool :=
  match scope with
  | 1 => quadOfCore core == quadOfCore other
  | 2 => bayOfCore core == bayOfCore other
  | 3 => dieOfCore core == dieOfCore other
  | _ => true

/-- The crews that a `drain` of the issuing warp counts: its own, or those that lie in the scope now (R234). -/
def drainCrews (s : State) (scope : Nat) : List Nat :=
  if scope = 0 then [s.c.id] else ((merged s).filter fun k => inScope scope s.c.core k.core).map (·.id)
/-- R234: the warp's next bundle waits for the operations begun so far. -/
def execDrain (scope : Nat) (s : State) : Out :=
  issue (.drain scope) s fun s => { s with w := { s.w with hold := .drain scope s.opSeq s.c.core (drainCrews s scope) } }

/-- R234: no operation counted by a `drain` on a core is left: those of its crews, whatever has become of them, with every entry
of the quad's QME at quad scope and of the bay's channels at bay scope. -/
def drainClear (s : State) (scope before core : Nat) (crews : List Nat) : Bool :=
  let mine (c : Nat) : Bool := crews.contains c
  let bte := s.bays.mapIdx fun b bay => bay.ch.any fun ch => ch.entries.any fun e =>
    decide (e.op < before) && ((e.kind != .data && mine e.crew) || (decide (scope = 2) && decide (b = bayOfCore core)))
  let qme := s.quads.mapIdx fun q t => t.qme.any fun e =>
    decide (e.op < before) && (mine e.crew || (decide (scope = 1) && decide (q = quadOfCore core)))
  let wq := s.dies.any fun d => d.wq.any fun r => !r.waiting && decide (r.op < before) && mine r.crew
  let wharf := decide (scope = 5) && s.wharf.sends.any fun x => decide (x.op < before) && !x.acked
  !(bte.any id || qme.any id || wq || wharf)

/-! ### Crews that end or are saved (R242) -/

/-- A crew's pops are withdrawn, its bindings end and none that is still on its way is made; at a save each pop writes a
refusal record. -/
def withdraw (s : State) (k : Crew) (saved : Bool) : State :=
  let quad := quadOfCore k.core
  let s := ((quadAt s quad).bindings.filter (·.crew == k.id)).foldl (fun s b => endBinding s quad b) s
  let pops := (s.dies.flatMap (·.wq)).filter fun r => r.crew == k.id && match r.kind with
    | .pop _ => true
    | _ => false
  let s := if saved then pops.foldl (fun s r => match r.kind with
      | .pop off => landRefusal s (r.share s) off 8
      | _ => s) s else s
  dropWq s fun r => r.crew == k.id && match r.kind with
    | .pop _ | .refill | .bind .. => true
    | _ => false

/-- Engine operations of a crew that may still write into its share. -/
def crewWork (s : State) (crew : Nat) : Bool :=
  (s.bays.any fun b => b.ch.any fun c => c.entries.any fun e => e.crew == crew && e.kind != .fence) ||
    (s.quads.any fun q => q.qme.any fun e => e.crew == crew && e.kind != 4) || s.wharf.sends.any fun x => x.crew == crew

/-- Shares kept for ended crews are given up once their work is done. -/
def sweepKept (s : State) : State :=
  if s.quads.all fun q => q.kept.isEmpty then s
  else { s with quads := s.quads.map fun q => if q.kept.isEmpty then q else { q with kept := q.kept.filter fun k => crewWork s k.1 } }

end Sys2Proof.Machine
end

