-- ==== Sys2Proof/Machine/Launch.lean ====
section
/-! DEFINITION. Launches (R120 to R136, R141): acceptance, states, the Tiller's walk; the Sluice, priorities and
pre-emption (R137 to R140); saving and restoring crews (R280 to R287) and time slices (R312); the words of LNCH (R158,
R159). -/

namespace Sys2Proof.Machine

/-! ### Quads of a function (R310, R312) -/

/-- No enabled VF holds the quad. -/
def quadFree (s : State) (q : Nat) : Bool := !s.vfs.any fun x => x.en && bitB x.quads q
/-- The function holds the quad, and its die is not fenced (R304): QUADS names it for a VF; the PF, which has no QUADS, holds
those that no VF holds. DESIGN CHOICE: log entry 98. -/
def holdsQuad (s : State) (vf q : Nat) : Bool :=
  (dieAt s (q / Config.quadsPerDie)).st != .fenced && (if vf = 0 then quadFree s q else bitB (vfAt s vf).quads q)
/-- The quad is the function's, or is one of those the time-sliced VFs share. -/
def ownsQuad (s : State) (vf q : Nat) : Bool :=
  let v := vfAt s vf
  holdsQuad s vf q || ((dieAt s (q / Config.quadsPerDie)).st != .fenced && v.en && v.ts && v.quads == 0 && quadFree s q)
/-- The VF shares quads by time (R312). DEDUCED: log entry 41. -/
def sliced (s : State) (vf : Nat) : Bool := let v := vfAt s vf; v.en && v.ts && v.quads == 0
/-- Cycles of a slice: TSLEN, at least 200,000 (R313). DESIGN CHOICE: log entry 60. -/
def sliceLen (s : State) : Nat := max 200000 s.tslen
/-- Crews of the VF may be placed as far as time slices go: its slice runs and has not reached its end. -/
def sliceRuns (s : State) (vf : Nat) : Bool := !sliced s vf || match s.slice with
  | some (v, t) => v == vf && decide (s.cycle < t + sliceLen s)
  | none => true
def bayHolds (s : State) (vf bay : Nat) : Bool := (List.range 4).any fun i => ownsQuad s vf (4 * bay + i)
def vfQuads (s : State) (vf : Nat) : List Nat := (List.range Config.quads).filter (ownsQuad s vf)

/-! ### Interrupts (R308) -/

/-- Sets a bit of the interrupt status register and raises its vector, where enabled. -/
def interrupt (s : State) (fn bit : Nat) : State :=
  updVf s fn fun v => { v with
    intst := v.intst ||| BitVec.twoPow 4 bit
    msix := if bitB v.inten (bit % 3) then (bit % 3) :: v.msix else v.msix }

/-! ### Launch descriptors (R120, R122) -/

structure LDesc where
  code : Nat
  entry : Nat
  csize : Nat
  flat : Nat
  args : Nat
  roles : Nat
  warps : Nat
  regs : Nat
  scratch : Nat
  prio : Nat
  pers : Bool
  repl : Nat
  spill : Nat
  npred : Nat
  preds : List Nat
  persist : Nat
  tensor : Nat
  tresv : Nat
  baymask : Nat
  status : Nat
  shapeResv : Nat
  ctrlResv : Nat
  tail : Nat
  deriving DecidableEq, Repr

def parseLaunch (bs : List Byte) : LDesc :=
  let sh := leAt bs 0x28 4
  let ct := leAt bs 0x2C 4
  { code := leAt bs 0 8, entry := leAt bs 8 4, csize := leAt bs 0xC 4, flat := leAt bs 0x10 8, args := leAt bs 0x18 8,
    roles := leAt bs 0x20 8, warps := fld sh 27 5 + 1, regs := (fld sh 23 4 + 1) * 8, scratch := fld sh 10 13 * 256,
    prio := fld ct 29 3, pers := bitB ct 28, repl := fld ct 26 2, spill := (if fld ct 16 10 = 0 then 64 else fld ct 16 10),
    npred := fld ct 12 4, preds := (List.range 4).map fun i => leAt bs (0x30 + 4 * i) 4, persist := leAt bs 0x40 4,
    tensor := leAt bs 0x44 2, tresv := leAt bs 0x46 2, baymask := leAt bs 0x48 8, status := leAt bs 0x50 8,
    shapeResv := fld sh 0 10, ctrlResv := fld ct 0 12, tail := leAt bs 0x58 40 }

def LDesc.ncrew (d : LDesc) : Nat := fld d.persist 12 13
def LDesc.queue (d : LDesc) : Nat := fld d.persist 0 12
def LDesc.close (d : LDesc) : Bool := bitB d.persist 31
/-- BADCODE and BADSHAPE of R122. -/
def LDesc.badCode (d : LDesc) : Bool :=
  d.code % 64 != 0 || d.csize == 0 || d.csize % 12 != 0 || decide (2 ^ 23 < d.csize) || decide (d.csize / 4 ≤ d.entry)
def LDesc.badShape (d : LDesc) : Bool := decide (1024 < d.warps * d.regs) || d.roles / 4 ^ d.warps != 0
/-- Addresses with bits [63:56]. -/
def LDesc.badAddr (d : LDesc) : Bool := decide (2 ^ 56 ≤ d.code) || decide (2 ^ 56 ≤ d.flat)
/-- RESERVED of R122. -/
def LDesc.badResv (d : LDesc) : Bool :=
  d.shapeResv != 0 || d.ctrlResv != 0 || d.tail != 0 || d.badAddr || decide (2 ≤ d.repl) || decide (4 < d.npred) || d.tresv != 0 ||
    ((List.range 4).any fun i => decide (d.npred ≤ i) && d.preds.getD i 0 != 0) ||
    (if d.pers then fld d.persist 25 6 != 0 else d.persist != 0 || d.baymask != 0)

/-- Crews of a shape that the quads of a VF hold at once (R122). -/
def crewsHeld (s : State) (vf : Nat) (d : LDesc) : Nat :=
  let perCore := min (Config.warpSlots / d.warps) (Config.coreRegs / (d.warps * d.regs))
  (vfQuads s vf).length * (if d.scratch = 0 then 4 * perCore else min (4 * perCore) (Config.scratch / d.scratch))

/-- The launch an id names: the latest with these low bits. -/
def launchOf (s : State) (id : Nat) : Option Launch := s.launches.foldl (fun b l => if l.seq % 2 ^ 32 = id then some l else b) none
/-- The device keeps no state for a launch: it was accepted more than 2^20 launches before the newest one (R122). -/
def Launch.forgotten (l : Launch) (newest : Nat) : Bool := decide (l.seq + 2 ^ 20 < newest)
/-- A predecessor counts as DONE: it is, or its state is no longer kept (R122). -/
def predDone (s : State) (id : Nat) : Bool := match launchOf s id with
  | some l => l.st == .done || l.forgotten (s.nextLaunch - 1)
  | none => false
/-- A predecessor has failed, as a launch sees it that is accepted now and is then the newest (R122). -/
def predFailed (s : State) (id : Nat) : Bool := match launchOf s id with
  | some l => (l.st == .failed || l.st == .aborted) && !l.forgotten s.nextLaunch
  | none => false
def LDesc.predIds (d : LDesc) : List Nat := d.preds.take (min d.npred 4)

/-- R161, R163: the driving tensor's descriptor as the table holds it; 0 in the error where it must wait. -/
def tableDesc (s : State) (vf t : Nat) : Except Nat TDesc :=
  if t = 0 then .error 1
  else match readVa s vf ((vfAt s vf).ttbase + 64 * t) 64 with
    | .error (0, _, _) => .error 0
    | .error _ => .error 1
    | .ok bs => let d := parseDesc bs; if d.valid && d.nreach != 0 then .ok d else .error 1

/-- The lowest status code of R122 that a descriptor breaks, 0 where it breaks none; `tensor` says whether its tensor has a
descriptor, `id` is its own id. DEDUCED: log entry 39. -/
def checkLaunch (s : State) (vf id : Nat) (d : LDesc) (tensor : Bool) : Nat :=
  let ids := d.predIds
  if d.badCode then 1
  else if d.badShape then 2
  else if !tensor then 3
  else if d.badResv then 4
  else if ids.any fun p => decide (id ≤ p) || (launchOf s p).isNone then 5
  else if ids.any (predFailed s) then 6
  else if (vfQuads s vf).isEmpty || (d.pers && decide (crewsHeld s vf d < d.ncrew)) then 7
  else if d.pers && (d.ncrew == 0 || decide (4096 < d.ncrew) || decide ((vfAt s vf).qMax ≤ d.queue) ||
      !(List.range Config.bays).any fun b => bitB d.baymask b && bayHolds s vf b) then 9
  else 0

/-! ### States (R122, R123, R127) -/

def LaunchState.code : LaunchState → Nat
  | .pending => 1 | .walking => 2 | .draining => 3 | .faulted => 4 | .done => 5 | .failed => 6 | .aborted => 7
def LaunchState.final (x : LaunchState) : Bool := x == .done || x == .failed || x == .aborted
def updLaunch (s : State) (seq : Nat) (f : Launch → Launch) : State :=
  { s with launches := s.launches.map fun l => if l.seq = seq then f l else l }
def findLaunch (s : State) (seq : Nat) : Option Launch := s.launches.find? (·.seq == seq)

/-- Writes a status record, or reports its loss (R123). -/
def putStatus (s : State) (vf id addr : Nat) (bs : List Byte) : State :=
  let lost (cls code : Nat) : State :=
    queueRecord s vf { kind := 4, bytes := recordBytes 4 cls code 0 none id [addr] false 0 0 0, frag := none }
  match spanLoc s vf false true addr 16 with
  | .error (0, _, _) => updVf s vf fun v => { v with stPend := v.stPend ++ [(addr, bs)] }
  | .error (cls, code, _) => lost cls code
  | .ok ls =>
    let h := homeClear s vf ls
    if ls.any (armedAt s) then lost 3 1
    else if !h.1 then updVf h.2 vf fun v => { v with stPend := v.stPend ++ [(addr, bs)] }
    else match writeVa h.2 vf addr bs with
      | .ok s => s
      | .error _ => s

/-- Launch status records that waited for a die or for INVACKs are tried again (R315, R328). -/
def retryStatus (s : State) (vf : Nat) : State :=
  let v := vfAt s vf
  if v.stPend.isEmpty then s
  else v.stPend.foldl (fun s p => putStatus s vf (leAt p.2 0 4) p.1 p.2) (updVf s vf fun v => { v with stPend := [] })

/-- A launch enters a final state: record, `lwait`, and for a failure the successors that are still PENDING (R122, R123,
R159). Bits [63:56] of STATUS are not part of the address. DESIGN CHOICE: log entry 91. -/
def endLaunch (s : State) (seq : Nat) (st : LaunchState) (status : Nat) : Nat → State
  | 0 => s
  | fuel + 1 =>
    match findLaunch s seq with
    | none => s
    | some l =>
      let d := parseLaunch l.desc
      let s := updLaunch s seq fun l => { l with st := st, status := status, walks := [], aborting := false }
      let rec_ := bytesOfNat 8 seq ++ bytesOfNat 1 status ++ bytesOfNat 1 st.code ++ bytesOfNat 6 0
      let s := if d.status = 0 then s else putStatus s l.vf (seq % 2 ^ 32) (d.status % 2 ^ 56) rec_
      let s := release s (engTime s) (fun _ _ => true) (· == .launch (seq % 2 ^ 32)) fun _ ln => ln
      if (st = .failed ∨ st = .aborted) ∧ !l.forgotten (s.nextLaunch - 1) then
        (s.launches.filter fun x => (parseLaunch x.desc).predIds.contains (seq % 2 ^ 32)).foldl
          (fun s x => if ((findLaunch s x.seq).map (·.st)) = some .pending then endLaunch s x.seq .failed 6 fuel else s) s
      else s
/-- A launch is aborted or has failed, with its successors; the fuel bounds the chain of successors. -/
def finishLaunch (s : State) (seq : Nat) (st : LaunchState) (status : Nat) : State := endLaunch s seq st status (s.launches.length + 1)

/-- Accepts a descriptor (R121): its id and the state; none while the tensor table must be waited for. -/
def acceptDesc (s : State) (vf : Nat) (desc : Option (List Byte)) : Option (Nat × State) :=
  let seq := s.nextLaunch
  let bs := desc.getD (List.replicate 128 0)
  let d := parseLaunch bs
  let mk (status : Nat) : Nat × State :=
    let l : Launch := { seq := seq, vf := vf, st := .pending, status := status, desc := bs }
    let s := { s with nextLaunch := seq + 1, launches := s.launches ++ [l] }
    (seq % 2 ^ 32, if status = 0 then s else finishLaunch s seq .failed status)
  if desc.isNone then some (mk 4)
  else match tableDesc s vf d.tensor with
    | .error 0 => none
    | .error _ => some (mk (checkLaunch s vf (seq % 2 ^ 32) d false))
    | .ok _ => some (mk (checkLaunch s vf (seq % 2 ^ 32) d true))

/-! ### Acceptance (R124, R309) -/

/-- Launch queues of a function: a VF's quota; the PF, which has no quota block, has them all (R308, R309).
DEDUCED: log entry 93. -/
def lqCount (s : State) (fn : Nat) : Nat := if fn = 0 then 16 else (vfAt s fn).lqMax
/-- A queue of a VF has something to accept: 0 to 15 the host's, 16 the device's. -/
def queueReady (s : State) (vf q : Nat) : Bool :=
  let v := vfAt s vf
  if q = 16 then !v.posts.isEmpty
  else
    let x := v.lq.getD q {}
    decide (q < lqCount s vf) && !x.err && decide (x.log2n ≤ 12) && x.head != x.tail
/-- The queue of a VF whose turn it is, and the VF whose turn it is (R124). -/
def nextQueue (s : State) (vf : Nat) : Option Nat :=
  let l := (vfAt s vf).lastQ
  ((List.range 17).map fun i => (l + 1 + i) % 17).find? (queueReady s vf)
def nextVf (s : State) : Option Nat :=
  ((List.range 193).map fun i => (s.lastVf + 1 + i) % 193).find? fun v => (v == 0 || (vfAt s v).en) && (nextQueue s v).isSome

def setLq (s : State) (vf q : Nat) (f : LaunchQueue → LaunchQueue) : State := updVf s vf fun v => { v with lq := v.lq.modify q f }
/-- R309: a queue stops. -/
def queueError (s : State) (vf q : Nat) : State := interrupt (setLq s vf q fun x => { x with err := true }) vf 1

/-- LAUNCH_ACCEPT of a queue, when it is its turn. The rotation stands still while the queue whose turn it is waits for a die.
DESIGN CHOICE: log entry 100. -/
def launchAccept (s : State) (vf q : Nat) : State :=
  if nextVf s ≠ some vf ∨ nextQueue s vf ≠ some q then s
  else
    let turn (s : State) : State := updVf { s with lastVf := vf } vf fun v => { v with lastQ := q }
    if q = 16 then
      match (vfAt s vf).posts with
      | [] => s
      | p :: _ => match acceptDesc s vf p.desc with
        | none => s
        | some (id, s) =>
          let s := turn (updVf s vf fun v => { v with posts := v.posts.drop 1 })
          updWarp s p.crew p.warp fun w => { w with pend := w.pend.map fun x =>
            if x.id = p.pend then { x with open_ := false, writes := [.s x.target.num (w32 id)] } else x }
    else
      let x := (vfAt s vf).lq.getD q {}
      match readVa s vf (x.base + 128 * (x.head % 2 ^ x.log2n)) 128 with
      | .error (0, _, _) => s
      | .error _ => queueError s vf q
      | .ok bs => match acceptDesc s vf (some bs) with
        | none => s
        | some (_, s) => turn (setLq s vf q fun x => { x with head := (x.head + 1) % 2 ^ 32 })

/-- LQ_TAIL_WRITE (R309). -/
def lqTailWrite (s : State) (fn q v : Nat) : State :=
  if lqCount s fn ≤ q ∨ 16 ≤ q then s
  else
    let s := setLq s fn q fun x => { x with tail := v % 2 ^ 32 }
    let x := (vfAt s fn).lq.getD q {}
    if 12 < x.log2n then s
    else if 2 ^ x.log2n < (x.tail + 2 ^ 32 - x.head) % 2 ^ 32 then queueError s fn q else setLq s fn q fun x => { x with err := false }

/-! ### Crews that end (R77, R106, R126, R242) -/

/-- A crew ends: its share is kept while engine work of its may still write there; what follows its end comes after all it
did (R125). -/
def crewEnd (s : State) (k : Crew) : State :=
  let s := withdraw (syncEngine s k.core) k false
  let s := { s with crews := s.crews.filter (·.id != k.id) }
  let s := if crewWork s k.id then updQuad s (quadOfCore k.core) fun q => { q with kept := q.kept ++ [(k.id, k.shareBase, k.shareSize)] } else s
  if k.service then interrupt s k.vf 2 else s

/-- QUADS changes once no crew of the VF is left on a quad that goes (R310). -/
def settleQuads (s : State) (vf : Nat) : State :=
  match (vfAt s vf).quadsNext with
  | none => s
  | some n =>
    if s.crews.any fun k => k.vf == vf && !bitB n (quadOfCore k.core) then s
    else updVf s vf fun v => { v with quads := n, quadsNext := none }

/-- Crews all of whose warps are finished end, once what they stored has been performed, so that it precedes the end
of the launch (R77, R125, R126). Nothing may stand in the issue context. DEDUCED: log entry 32. -/
def reap (s : State) : State :=
  (s.crews.filter fun k => k.warps.all Warp.ended).foldl (fun s k => settleQuads (crewEnd s k) k.vf) s

/-- What follows when lanes have been killed: barriers, operations that are now complete (R116, R205). -/
def afterDeaths (s : State) : State :=
  let s := checkBars s
  (((merged s).map fun k => bayOfCore k.core).eraseDups).foldl formOps s

/-! ### The Tiller's walk (R133 to R136, R141) -/

/-- Reads record `i` of a launch's placement table: the cause of R134 where it stops the walk, none while it waits. A
wrong TENSOR is looked at before STATE. DEDUCED: log entry 30. DESIGN CHOICE: log entry 90. -/
def readReach (s : State) (l : Launch) (i : Nat) : Option (Except Nat ReachRec) :=
  match readVa s l.vf (l.place + 32 * i) 32 with
  | .error (0, _, _) => none
  | .error _ => some (.error 1)
  | .ok bs =>
    let r := parseReach bs
    if r.tensor ≠ (parseLaunch l.desc).tensor ∨ r.st = 3 then some (.error 3)
    else if r.st = 0 then some (.error 2)
    else some (.ok r)

/-- The die a record is handed to: HDIE, or the elected die where it cannot be read. -/
def handDie (s : State) (l : Launch) (i : Nat) : Nat :=
  match readVa s l.vf (l.place + 32 * i) 32 with
  | .ok bs => (parseReach bs).hdie
  | .error _ => s.elect

/-- A record of a tensor's placement table lies on a die out of service: handing them out waits (R315). -/
def tableWaits (s : State) (vf : Nat) (d : TDesc) : Bool :=
  (List.range d.nreach).any fun i => match readVa s vf (d.place + 32 * i) 32 with
    | .error (0, _, _) => true
    | _ => false

/-- Hands the records of a tensor to the dies (R133), or stops the elected die where there is no descriptor. -/
def beginWalk (s : State) (l : Launch) : State :=
  let s := { s with dies := s.dies.map fun d => { d with descs := d.descs.filter (·.1 != l.vf) } }
  match tableDesc s l.vf (parseLaunch l.desc).tensor with
  | .error _ =>
    let w : DieWalk := { die := s.elect, stop := some (0, 1) }
    let s := updLaunch s l.seq fun l => { l with st := .faulted, noDesc := true, walks := [w] }
    queueRecord s l.vf { kind := 3, bytes := recordBytes 3 0 0 0 none (l.seq % 2 ^ 32) [] false 0 1 s.elect, frag := none }
  | .ok d =>
    let l := { l with place := d.place, grid := d.grid }
    let hands := (List.range d.nreach).map fun i => (i, handDie s l i)
    let walks : List DieWalk := (List.range 8).map fun die => { die := die, todo := (hands.filter (·.2 == die)).map (·.1) }
    updLaunch s l.seq fun x => { x with st := .walking, place := d.place, grid := d.grid, noDesc := false, walks := walks }

def bayLoad (s : State) (b : Nat) : Nat := (bayAt s b).queue.length
/-- The bay of fewest queued crews; the earlier of the list in a tie. -/
def leastBay (s : State) : List Nat → Option Nat
  | [] => none
  | b :: bs => match leastBay s bs with
    | none => some b
    | some c => if bayLoad s c < bayLoad s b then some c else some b

/-- R135: the bay of a crew; none where no bay of the device holds a quad of the VF. -/
def chooseBay (s : State) (vf repl home replicas : Nat) : Option Nat :=
  let all := (List.range Config.bays).filter (bayHolds s vf)
  let cands := if repl = 0 then [home] else home :: (List.range Config.bays).filter fun b => b != home && bitB replicas b
  match leastBay s (cands.filter (bayHolds s vf)) with
  | some b => some b
  | none => match leastBay s (all.filter fun b => dieOfBay b == dieOfBay home) with
    | some b => some b
    | none => all.head?

/-- R136: the bay after spilling; none while every bay of the die is full. -/
def spillBay (s : State) (vf seq spill b : Nat) : Option Nat :=
  if (bayAt s b).queue.countP (·.launch == seq) < spill ∧ bayLoad s b < 4096 then some b
  else leastBay s ((List.range 8).map (dieOfBay b * 8 + ·) |>.filter fun b => bayHolds s vf b && decide (bayLoad s b < 4096))

/-- A tile's coordinates in a grid (R129). -/
def tileOfIndex (g : List Nat) (n : Nat) : List Nat :=
  let t3 := max (g.getD 3 1) 1; let t2 := max (g.getD 2 1) 1; let t1 := max (g.getD 1 1) 1
  [n / t3 / t2 / t1, n / t3 / t2 % t1, n / t3 % t2, n % t3]
/-- DEDUCED: log entry 40. -/
def gridTiles (g : List Nat) : Nat := g.foldl (· * ·) 1

def updWalk (s : State) (seq die : Nat) (f : DieWalk → DieWalk) : State :=
  updLaunch s seq fun l => { l with walks := l.walks.map fun w => if w.die = die then f w else w }

/-- Creates crews for the tiles a die's walk holds, until it must wait (R135, R136). -/
def makeCrews (s : State) (l : Launch) (die : Nat) : Nat → State
  | 0 => s
  | fuel + 1 =>
    match ((findLaunch s l.seq).bind fun l => l.walks.find? (·.die == die)).bind (·.cur) with
    | some (home, reps, gen, t :: ts) =>
      let d := parseLaunch l.desc
      match (chooseBay s l.vf d.repl home reps).bind fun b => spillBay s l.vf l.seq d.spill b with
      | none => s
      | some b =>
        let q : QCrew := { launch := l.seq, vf := l.vf, crewIdx := t % 2 ^ 32, tile := tileOfIndex l.grid t }
        let s := updBay s b fun y => { y with queue := y.queue ++ [q] }
        makeCrews (updWalk s l.seq die fun w => { w with cur := some (home, reps, gen, ts) }) l die fuel
    | some (_, _, _, []) => updWalk s l.seq die fun w => { w with cur := none }
    | none => s

/-- A die's walk stops (R134). -/
def stopWalk (s : State) (l : Launch) (die i cause : Nat) : State :=
  let s := updWalk s l.seq die fun w => { w with stop := some (i, cause) }
  let s := updLaunch s l.seq fun l => { l with st := .faulted }
  queueRecord s l.vf { kind := 3, bytes := recordBytes 3 0 0 0 none (l.seq % 2 ^ 32) [] false i cause die, frag := none }

/-- Closes the queue of a persistent launch whose walk is complete, once its block can be reached (R141, R315). -/
def tryClose (s : State) (l : Launch) : State :=
  let h := queueClear s false l.vf (parseLaunch l.desc).queue
  if l.closing && !h.1 then h.2
  else if l.closing then
    match closeQueue h.2 l.vf (parseLaunch l.desc).queue with
    | some s => updLaunch s l.seq fun l => { l with closing := false }
    | none => h.2
  else s
/-- The walk of every die is complete: DRAINING, and the queue is closed (R127, R141). -/
def walkOver (s : State) (seq : Nat) : State :=
  match findLaunch s seq with
  | none => s
  | some l =>
    if l.st == .walking && !l.noDesc && l.walks.all fun w => w.todo.isEmpty && w.deferred.isEmpty && w.cur.isNone && w.stop.isNone then
      let d := parseLaunch l.desc
      let s := updLaunch s seq fun l => { l with st := .draining, closing := d.pers && d.close }
      tryClose s { l with closing := d.pers && d.close }
    else s

/-- Creates the crews of a persistent launch (R141). -/
def persistentCrews (s : State) (l : Launch) : State :=
  let d := parseLaunch l.desc
  let bays := (List.range Config.bays).filter fun b => bitB d.baymask b && bayHolds s l.vf b
  (List.range d.ncrew).foldl (fun s i =>
    updBay s (bays.getD (i % max bays.length 1) 0) fun y => { y with
      queue := y.queue ++ [{ launch := l.seq, vf := l.vf, crewIdx := i, tile := [0, 0, 0, 0] }] }) s

/-- Begins a walk, unless a descriptor or a record must be waited for (R133, R315). -/
def tryWalk (s : State) (l : Launch) : Option State :=
  match tableDesc s l.vf (parseLaunch l.desc).tensor with
  | .error 0 => none
  | .error _ => some (beginWalk s l)
  | .ok d => if tableWaits s l.vf d then none else some (beginWalk s l)

/-- LAUNCH_WALK_START (R125, R174): every predecessor is DONE and no window of the VF is open. A walk that `lres` has begun
again and that must wait is tried once more. -/
def walkStart (s : State) (seq : Nat) : State :=
  match findLaunch s seq with
  | none => s
  | some l =>
    let d := parseLaunch l.desc
    if l.aborting then s
    else if l.st == .walking && l.noDesc then (match tryWalk s l with
      | none => s
      | some s => walkOver s seq)
    else if l.st != .pending || !(d.predIds.all (predDone s)) || !(vfAt s l.vf).windows.isEmpty then s
    else match tryWalk s l with
      | none => s
      | some s => walkOver (if d.pers then persistentCrews s l else s) seq

/-- A VALID record of this die's own is stamped and its tiles taken up (R133). DEDUCED: log entry 40. -/
def stampReach (s : State) (l : Launch) (die i : Nat) (r : ReachRec) (rest : List Nat) : State :=
  let h := spanClear s l.vf (l.place + 32 * i) 8
  if !h.1 then h.2
  else match writeVa h.2 l.vf (l.place + 32 * i) (bytesOfNat 8 l.seq) with
  | .error (0, _, _) => s
  | .error _ => stopWalk s l die i 1
  | .ok s =>
    let tiles := ((List.range r.count).map (r.first + ·)).filter fun t => decide (t < gridTiles l.grid)
    let s := updWalk s l.seq die fun w => { w with todo := rest, cur := some (r.hdie * 8 + r.hbay, r.replicas, r.gen, tiles) }
    if (parseLaunch l.desc).pers then s else makeCrews s l die (r.count + 1)

/-- A reach counts as MIGRATING: its STATE says so, or its die is drained and it has still to be moved (R314). -/
def migrating (s : State) (r : ReachRec) : Bool := r.st == 2 || (dieAt s r.hdie).st != .active

/-- A Tiller is at a record: its walk has stopped there, or waits for it to leave MIGRATING (R133, R134). -/
def atRecord (s : State) (l : Launch) (w : DieWalk) : Bool :=
  w.cur.isNone && (w.stop.isSome || (w.second && match w.todo.head?.bind (readReach s l) with
    | some (.ok r) => migrating s r
    | _ => false))
/-- Passes a record to a Tiller: it comes right after the record that Tiller is at (R133), before records passed earlier.
DESIGN CHOICE: log entry 100. -/
def passRecord (s : State) (l : Launch) (i : Nat) (x : DieWalk) : DieWalk :=
  match x.todo with
  | j :: rest => if atRecord s l x then { x with todo := j :: i :: rest } else { x with todo := i :: j :: rest }
  | [] => { x with todo := [i] }
/-- Inserts an index in table order. -/
def insertIdx (i : Nat) : List Nat → List Nat
  | [] => [i]
  | j :: js => if i ≤ j then i :: j :: js else j :: insertIdx i js

/-- The evaluation of one record (R133); a reach of a draining die counts as MIGRATING (R314). -/
def evalRecord (s : State) (l : Launch) (w : DieWalk) (i : Nat) (rest : List Nat) : State :=
  let go (f : DieWalk → DieWalk) : State := updWalk s l.seq w.die fun w => f { w with todo := rest }
  match readReach s l i with
  | none => s
  | some (.error c) => stopWalk s l w.die i c
  | some (.ok r) =>
    if migrating s r then
      if w.second then s else go fun w => { w with deferred := insertIdx i w.deferred }
    else if r.hdie ≠ w.die then
      updWalk (go id) l.seq r.hdie (passRecord s l i)
    else if r.stamp = l.seq then go id
    else stampReach s l w.die i r rest

/-- TILLER_EVALUATE_REACH: the next record of a die's walk, or the crews still to be made. -/
def evaluateReach (s : State) (seq die : Nat) : State :=
  match findLaunch s seq with
  | none => s
  | some l =>
    if l.aborting || !(l.st == .walking || l.st == .faulted) || !((dieAt s die).st == .active || (dieAt s die).st == .draining) then s
    else match l.walks.find? (·.die == die) with
      | none => s
      | some w =>
        if w.stop.isSome then s
        else walkOver (match w.cur, w.todo, w.deferred with
          | some (_, _, _, []), _, _ => updWalk s seq die fun w => { w with cur := none }
          | some c, _, _ => if (parseLaunch l.desc).pers then s else makeCrews s l die (c.2.2.2.length + 1)
          | none, i :: rest, _ => evalRecord s l w i rest
          | none, [], [] => s
          | none, [], ds => updWalk s seq die fun w => { w with second := true, todo := ds, deferred := [] }) seq

/-- A WORK entry of a Tiller (R142). -/
def workEntry (tensor gen seq home : Nat) (t : List Nat) : List Byte :=
  bytesOfNat 2 1 ++ bytesOfNat 2 tensor ++ bytesOfNat 4 gen ++ (List.range 4).flatMap (fun i => bytesOfNat 2 (t.getD i 0)) ++
    bytesOfNat 8 seq ++ bytesOfNat 1 home ++ bytesOfNat 7 0

/-- TILLER_PUSH (R141): the next tile of a stamped reach goes into the launch's queue, when there is room. -/
def tillerPush (s : State) (seq die : Nat) : State :=
  match findLaunch s seq with
  | none => s
  | some l =>
    let d := parseLaunch l.desc
    match (l.walks.find? (·.die == die)).bind (·.cur) with
    | some (home, reps, gen, t :: ts) =>
      if !d.pers || l.aborting then s
      else
        let h := queueClear s true l.vf d.queue
        if !h.1 then h.2
        else match tillerPushEntry h.2 l.vf d.queue (workEntry d.tensor gen seq home (tileOfIndex l.grid t)) with
        | none => h.2
        | some s => walkOver (updWalk s seq die fun w => { w with cur := if ts.isEmpty then none else some (home, reps, gen, ts) }) seq
    | _ => s

/-- `lres` of a launch (R134, R301): the stopped dies of a FAULTED launch go on at their resume index. -/
def resumeLaunch (s : State) (l : Launch) : State :=
  if l.st ≠ .faulted ∨ l.aborting then s
  else if l.noDesc then walkStart (updLaunch s l.seq fun l => { l with st := .walking, walks := [] }) l.seq
  else
    let s := { s with dies := s.dies.map fun d => { d with descs := d.descs.filter (·.1 != l.vf) } }
    updLaunch s l.seq fun l => { l with
      st := .walking
      walks := l.walks.map fun w => match w.stop with
        | some _ => { w with stop := none }
        | none => w }

/-! ### The end of a launch (R126, R128) -/

/-- Nothing of a launch is left: no crew queued, resident or saved, no engine operation, no send. -/
def launchClear (s : State) (seq : Nat) : Bool :=
  !((merged s).any (·.launch == seq)) && s.bays.all (fun b => !b.queue.any (·.launch == seq) && b.ch.all fun c => !c.entries.any (·.launch == seq)) &&
    s.quads.all (fun q => !q.qme.any fun e => e.launch == seq && e.kind != 4) &&
    s.dies.all (fun d => !d.wq.any fun r => r.launch == seq) && !s.wharf.sends.any (·.launch == seq)

/-- LAUNCH_DONE (R126, R168): a DRAINING launch with nothing left is DONE, an aborted one ABORTED. -/
def launchDone (s : State) (seq : Nat) : State :=
  match findLaunch s seq with
  | none => s
  | some l =>
    if l.closing && !l.aborting then tryClose s l
    else if !launchClear s seq then s
    else if l.aborting then finishLaunch s seq .aborted 8
    else if l.st = .draining then finishLaunch (dropCopies s) seq .done 0
    else s

/-- The operations that saved crews of a launch have left unformed are formed with the slices they have: their other warps
are discarded, and supply none (R205). DESIGN CHOICE: log entry 105. -/
def formLeft (s : State) (launch : Nat) : State :=
  let gone := (s.bays.flatMap fun b => b.queue.filterMap (·.saved)).filterMap fun k => if k.launch = launch then some k.id else none
  if gone.isEmpty then s
  else (List.range Config.bays).foldl (fun s b => (List.range 16).foldl (fun s ch =>
    ((chanAt s b ch).entries.filter fun e => e.kind == .copy && !e.formed && gone.contains e.crew).foldl (formOp · b ch ·) s) s) s

/-- Ends a launch (R128, steps 1 to 3), and if nothing is awaited the launch is ABORTED at once. -/
def abortLaunch (s : State) (l : Launch) : State :=
  if l.st.final || l.aborting then s
  else
    let s := formLeft (updLaunch s l.seq fun l => { l with walks := [], aborting := true, closing := false }) l.seq
    let s := { s with bays := s.bays.map fun (b : Bay) => { b with queue := b.queue.filter (·.launch != l.seq) } }
    let s := (s.crews.filter fun (k : Crew) => k.launch == l.seq).foldl (fun s k =>
      (List.range k.warps.length).foldl (fun s x => dropFrags s k.id x) s) s
    let s := mapCrews s fun k => if k.launch = l.seq then { k with claims := [], warps := k.warps.map killedWarp } else k
    launchDone (reap (afterDeaths s)) l.seq

/-- LABORT_WRITE (R128). -/
def labortWrite (s : State) (fn id : Nat) : State :=
  let s := updVf s fn fun v => { v with labort := id % 2 ^ 32 }
  match launchOf s (id % 2 ^ 32) with
  | some l => if l.vf = fn then abortLaunch s l else s
  | none => s

/-! ### Room on cores (R137) -/

def slotsUsed (s : State) (core : Nat) : List Nat := ((s.crews.filter (·.core == core)).flatMap (·.warps)).map (·.slot)
def crewRegs (k : Crew) : Nat := k.pool + (k.warps.map (·.window)).sum
def regsUsed (s : State) (core : Nat) : Nat := ((s.crews.filter (·.core == core)).map crewRegs).sum
/-- Regions of a quad's scratchpad in use: base and size. -/
def padUsed (s : State) (quad : Nat) : List (Nat × Nat) :=
  ((s.crews.filter fun k => quadOfCore k.core == quad).map fun k => (k.shareBase, k.shareSize)) ++
    (quadAt s quad).kept.map fun k => (k.2.1, k.2.2)
/-- A crew to be placed: its function, warps, registers, scratchpad bytes, and its saved fragments: how many are shared, and
the warps of those marked WHOLE. -/
structure Need where
  vf : Nat
  warps : Nat
  regs : Nat
  scratch : Nat
  frags : Nat := 0
  whole : List Nat := []
  service : Bool := false
  deriving DecidableEq, Repr

/-- The quad may take crews of the VF now: it is the VF's, does not leave QUADS (R310), and its slice runs (R312). A service
crew runs on no shared quad (R311). -/
def mayUse (s : State) (n : Need) (quad : Nat) : Bool :=
  (if n.service then holdsQuad s n.vf quad else ownsQuad s n.vf quad) && ((vfAt s n.vf).quadsNext.all fun x => bitB x quad) && sliceRuns s n.vf
/-- The cores of a die take crews: it is ACTIVE, or its drain has still to move its reaches (R314). -/
def dieTakes (s : State) (die : Nat) : Bool := (dieAt s die).st == .active || ((dieAt s die).st == .draining && (dieAt s die).moving.isSome)
/-- The fragments of a saved crew find entries: free shared ones inside the quota, and the reserved entries of its warps
(R269, R287). -/
def fragsFit (s : State) (core : Nat) (n : Need) (slots : List Nat) : Bool :=
  decide (n.frags ≤ (List.range Config.sharedFrags).countP fun e => !entryTaken s core e) &&
    n.whole.all fun x => !entryTaken s core (128 + slots.getD x 0)

/-- The lowest free warp slots of a core. DESIGN CHOICE: log entry 43. -/
def freeSlots (s : State) (core : Nat) : List Nat := (List.range Config.warpSlots).filter fun x => !(slotsUsed s core).contains x

/-- R137, with some of the core's crews taken away. -/
def fitsWithout (s : State) (core : Nat) (n : Need) (gone : List Nat) : Bool :=
  let s' := { s with
    crews := s.crews.filter fun k => !gone.contains k.id
    frags := s.frags.filter fun f => !gone.contains f.crew }
  let quad := quadOfCore core
  mayUse s n quad && dieTakes s (dieOfCore core) &&
    decide ((slotsUsed s' core).length + n.warps ≤ Config.warpSlots) && decide (regsUsed s' core + n.regs ≤ Config.coreRegs) &&
    decide (((padUsed s' quad).map (·.2)).sum + n.scratch ≤ Config.scratch) &&
    decide (sharedHeld s' core n.vf + n.frags < fragLimit s n.vf + (if n.frags = 0 then 0 else 1)) &&
    fragsFit s' core n (freeSlots s' core)
def fits (s : State) (core : Nat) (n : Need) : Bool := fitsWithout s core n []

/-- Where a share of a size goes: the first gap, or after all others where no gap is long enough (DESIGN CHOICE, log entry 15). -/
def findGap (used : List (Nat × Nat)) (n : Nat) : Nat :=
  let ends := used.map fun u => u.1 + u.2
  let free (b : Nat) : Bool := used.all fun u => u.2 == 0 || decide (b + n ≤ u.1) || decide (u.1 + u.2 ≤ b)
  let cands := (0 :: ends).filter fun b => free b && decide (b + n ≤ Config.scratch)
  match cands with
  | [] => ends.foldl max 0
  | c :: cs => cs.foldl min c

/-- Clears the bytes of a region. -/
def memClear (m : Memory) (lo n : Nat) : Memory := m.filter fun c => decide (c.1 < lo) || decide (lo + n ≤ c.1)
/-- The bytes of a span, moved to 0, and such an image put back at a base. -/
def memSlice (m : Memory) (lo n : Nat) : Memory :=
  (m.filter fun c => decide (lo ≤ c.1) && decide (c.1 < lo + n)).map fun c => (c.1 - lo, c.2)
def memPaste (m : Memory) (base : Nat) (img : Memory) : Memory := img.foldl (fun m c => memSet m (base + c.1) c.2) m

/-- A warp as it starts (R7, R121). -/
def newWarp (d : LDesc) (slot idx priv cycle : Nat) : Warp :=
  { slot := slot, idx := idx, role := d.roles / 4 ^ idx % 4, window := d.regs, lastIssue := cycle,
    lanes := List.replicate Config.width { pc := w32 d.entry, v := List.replicate d.regs 0 },
    s := ((List.replicate 64 0).set 1 (w32 d.args)).set 2 (w32 (d.args / 2 ^ 32)), priv := priv }

/-- The share of a new crew: zero in every byte, nothing armed (R171). -/
def clearShare (s : State) (quad base n : Nat) : State :=
  updQuad s quad fun q => { q with
    sp := if n = 0 then q.sp else memClear q.sp base n
    armed := if n = 0 then q.armed else q.armed.filter fun a => decide (a < base) || decide (base + n ≤ a) }

/-- The level at which a crew starts: the PF's at hypervisor level, a VF's service crews at supervisor level (R294). -/
def startLevel (vf : Nat) (service : Bool) : Nat := if vf = 0 then 2 else if service then 1 else 0
/-- A crew starts on a core (R138); a service crew reads nothing of TENSOR and PERS (R311). -/
def startCrew (s : State) (core : Nat) (d : LDesc) (launch vf crewIdx : Nat) (tile : List Nat) (service : Bool) : State :=
  let quad := quadOfCore core
  let base := findGap (padUsed s quad) d.scratch
  let slots := freeSlots s core
  let k : Crew := {
    id := s.nextCrew, vf := vf, launch := launch, service := service, persistent := d.pers && !service, crewIdx := crewIdx,
    tile := tile, tensor := if service then 0 else d.tensor, core := core, shareBase := base, shareSize := d.scratch, flat := d.flat, code := d.code,
    csize := d.csize, warps := (List.range d.warps).map fun x => newWarp d (slots.getD x 0) x (startLevel vf service) s.cycle,
    placedAt := s.cycle }
  let s := clearShare s quad base d.scratch
  let s := syncCore { s with nextCrew := s.nextCrew + 1, crews := s.crews ++ [k] } core
  let s := updBay s (bayOfCore core) fun b => { b with ptr := some (core % 16) }
  if sliced s vf && s.slice.isNone then { s with slice := some (vf, s.cycle) } else s

/-! ### Saving (R280 to R286) -/

/-- R284: room of a saved crew in the context area. DESIGN CHOICE: log entry 70. -/
def ctxNeed (k : Crew) : Nat :=
  (4096 + (k.warps.map fun w => 2048 + 256 * w.window).sum + k.shareSize + 4095) / 4096 * 4096
def ctxUsed (s : State) (vf : Nat) : Nat :=
  (s.bays.map fun b => (b.queue.map fun q => if q.vf = vf then (q.saved.map ctxNeed).getD 0 else 0).sum).sum

/-- The pages that an image of some bytes takes: the lowest that no saved crew of the VF holds. DESIGN CHOICE: log entry 70. -/
def ctxPages (s : State) (vf need : Nat) : List Nat :=
  let used := s.bays.flatMap fun b => b.queue.flatMap fun q => if q.vf = vf then q.ctx else []
  ((List.range (need / 4096 + used.length)).filter fun p => !used.contains p).take (need / 4096)
/-- The guest-physical address of a page of a VF's context area. -/
def ctxAddr (s : State) (vf p : Nat) : Nat := ((vfAt s vf).ctxbase + 4096 * p) % 2 ^ 52
/-- Pages of the area lie on a die out of service, seen from a core's die (R315). -/
def ctxHeld (s : State) (vf core : Nat) (ps : List Nat) : Bool :=
  ps.any fun p => decide (ctxAddr s vf p < 2 ^ 51) && locHeld s (dieOfCore core) (.dev (physKey (dieOfGpa s (ctxAddr s vf p)) 0))
/-- The sectors of pages in device memory come under the VF's key: the image is encrypted under it (R284, R317). -/
def claimCtx (s : State) (vf : Nat) (ps : List Nat) : State :=
  let secs := ps.flatMap fun p => (List.range 32).filterMap fun j =>
    let g := (ctxAddr s vf p + 128 * j) % 2 ^ 52
    if g < 2 ^ 51 then some (physKey (dieOfGpa s g) g / 128) else none
  { s with owners := (secs.map fun x => (x, keyOf s vf)) ++ s.owners.filter fun o => !secs.contains o.1 }

/-- R282, R297: a warp that is found unable to issue stops, for a full save: it is finished, its count has not passed, or it has
only WAITING and PARKED lanes. -/
def cannotIssue (cycle : Nat) (w : Warp) : Bool :=
  (w.sleepUntil.any fun t => decide (cycle < t)) || w.lanes.all fun ln => !ln.live || ln.st == .waiting || ln.st == .parked
/-- The warps of crews that are to be saved stop as they are found unable to issue. -/
def latchStops (s : State) : State :=
  if s.crews.any fun k => k.saveReq.isSome && k.warps.any fun w => w.stopped.isNone && cannotIssue s.cycle w then
    mapAllWarps s fun k w => if k.saveReq.isSome && w.stopped.isNone && cannotIssue s.cycle w then { w with stopped := some .full } else w
  else s

/-- A result that waits for an operation not yet formed stays open across a save (R286). DEDUCED: log entry 44. -/
def unformedPend (s : State) (k : Crew) (x id : Nat) : Bool :=
  (bayAt s (bayOfCore k.core)).ch.any fun c => c.entries.any fun e =>
    e.crew == k.id && !e.formed && e.slices.any fun sl => sl.warp == x && sl.pend == id

/-- A live-mask entry (R280), read for a save: none where it is outside the code object; an error of class 0 where it lies on
a die out of service (R315). DEDUCED: log entries 42, 97. -/
def liveEntry (s : State) (k : Crew) (n : Nat) : Option (Except (Nat × Nat × Nat) (List Byte)) :=
  if k.csize < 16 * (n + 1) then none
  else some (readVa (serving s (· == dieOfCore k.core)) k.vf (k.code + k.csize - 16 * (n + 1)) 16)
/-- Live registers of such an entry: none where it is outside the code object or cannot be read. DEDUCED: log entry 45. -/
def liveRegs (s : State) (k : Crew) (n : Nat) : Option Nat :=
  match liveEntry s k n with
  | some (.ok bs) => some (leAt bs 0 16)
  | _ => none
/-- The entry that a warp's stop names must be waited for. -/
def liveWaits (s : State) (k : Crew) (w : Warp) : Bool :=
  match w.stopped with
  | some (.masked n) => (match liveEntry s k n with
    | some (.error (0, _, _)) => true
    | _ => false)
  | _ => false

/-- The `bwait` words that lanes of a warp wait at: object, token, D and which one (R198). -/
def objWaits (w : Warp) : List (Nat × Nat × Nat × Nat) :=
  (w.lanes.filterMap fun ln => match ln.st, ln.wait with
    | .waiting, .obj key t d n => some (key, t, d, n)
    | _, _ => none).eraseDups
/-- An object that a warp waits on lies on a die out of service: what a save or a restore does to it must wait (R315). -/
def objHeld (s : State) (core : Nat) (w : Warp) : Bool :=
  (objWaits w).any fun t => t.1 % 2 == 0 && locHeld s (dieOfCore core) (.dev (t.1 / 2))

/-- A pending result as a save leaves it (R17, R283): an `xcopy` that is not formed gives its id later and holds nothing
until then; every other result has arrived, or comes with the release of its lanes. No window is kept.
DEDUCED: log entry 44. -/
def savedPend (ps : List Pend) : List Pend :=
  (ps.filter fun p => !p.arrived && !p.waits).map fun p => { p with left := 0, kept := true }
/-- A warp as its image holds it (R282, R283): results arrived, dead registers 0. DEDUCED: log entry 45. -/
def savedWarp (s : State) (k : Crew) (w : Warp) : Warp :=
  let stop := w.stopped
  let w := deliverAll (fun _ => true) w
  let full := w.trapV || w.lanes.any fun ln => ln.st == .parked || (ln.live && (ln.inRep || ln.repk.isSome))
  let w := { w with
    sleepUntil := w.sleepUntil.map (· - s.cycle), pend := savedPend w.pend, memq := [], xlat := [], stopped := none, sinceReq := 0, promoted := false }
  match stop, full with
  | some (.masked n), false => match liveRegs s k n with
    | none => w
    | some m => { w with lanes := w.lanes.map fun ln => { ln with v := ln.v.mapIdx fun i x => if bitB m i then x else 0 } }
  | _, _ => w

/-- R282, steps 3 and 4: every warp has stopped, its results have come, its accesses are performed, the crew's QME work is
done; nothing the save reads or writes waits for a die (R315). DEDUCED: log entry 44. -/
def saveReady (s : State) (k : Crew) : Bool :=
  k.saveReq.isSome &&
    (k.warps.mapIdx fun x w => (x, w)).all (fun p => p.2.stopped.isSome && p.2.memq.isEmpty &&
      (p.2.pend.all fun q => q.arrived || q.ready || q.waits || unformedPend s k p.1 q.id) &&
      !liveWaits s k p.2 && !objHeld s k.core p.2) &&
    !(quadAt s (quadOfCore k.core)).qme.any (fun e => e.crew == k.id && e.kind != 4)
/-- The context area has room for a crew (R284). -/
def ctxRoom (s : State) (k : Crew) : Bool := decide (ctxUsed s k.vf + ctxNeed k ≤ (vfAt s k.vf).ctxsize)

/-- WAITERS of the objects a saved warp waits on goes down (R285). -/
def leaveObj (s : State) (vf key : Nat) : State :=
  let locs : List Loc := (List.range 16).map fun i =>
    if key % 2 = 0 then .dev (key / 2 + i) else .sp (key / 2 / 2 ^ 40) (key / 2 % 2 ^ 40 + i)
  let bs := locs.map (locGet s vf)
  let n := leAt bs 12 2
  putLocs s vf ((locs.drop 12).zip (bytesOfNat 2 (n - 1)))

/-- After a save or an end: the next time-sliced VF with work runs (R312). -/
def sliceWork (s : State) (vf : Nat) : Bool :=
  sliced s vf && ((List.range 17).any (queueReady s vf) || s.bays.any fun b => b.queue.any (·.vf == vf))
def sliceNext (s : State) : State :=
  match s.slice with
  | none => s
  | some (v, t) =>
    if s.cycle < t + sliceLen s || s.crews.any fun k => k.vf == v && !k.service && sliced s v then s
    else match ((List.range 193).map fun i => (v + 1 + i) % 193).find? (sliceWork s) with
      | some n => { s with slice := some (n, s.cycle) }
      | none => { s with slice := none }

/-- The crew leaves its core for its bay's queue; wherever it is restored, it goes on after all it did (R244).
DESIGN CHOICE: log entry 70. -/
def saveCrewNow (s : State) (k : Crew) : State :=
  let quad := quadOfCore k.core
  let s := withdraw (syncEngine s k.core) k true
  let k := { k with
    warps := k.warps.map (savedWarp s k)
    saveReq := none }
  let s := (k.warps.flatMap objWaits).foldl (fun s t => leaveObj s k.vf t.1) s
  let frs := s.frags.filter fun f => f.crew == k.id && !f.freed
  let s := frs.foldl freeFrag s
  let q : QCrew := {
    launch := k.launch, vf := k.vf, crewIdx := k.crewIdx, tile := k.tile, saved := some k,
    share := memSlice (quadAt s quad).sp k.shareBase k.shareSize
    ctx := ctxPages s k.vf (ctxNeed k)
    armed := ((quadAt s quad).armed.filter fun a => decide (k.shareBase ≤ a) && decide (a < k.shareBase + k.shareSize)).map (· - k.shareBase)
    frags := frs }
  let s := clearShare (claimCtx { s with crews := s.crews.filter (·.id != k.id) } k.vf q.ctx) quad k.shareBase k.shareSize
  sliceNext (settleQuads (updBay s (bayOfCore k.core) fun b => { b with queue := q :: b.queue }) k.vf)

/-- CREW_SAVE: without room in the context area the save does not begin and the crew runs on (R284); with room on a die out of
service it waits (R315). -/
def crewSave (s : State) (c : Nat) : State :=
  match s.crews.find? (·.id == c) with
  | some k =>
    if !saveReady s k then s
    else if ctxRoom s k then if ctxHeld s k.vf k.core (ctxPages s k.vf (ctxNeed k)) then s else saveCrewNow s k
    else updCrew s c fun k => { k with
      saveReq := none, saveDue := k.saveReq, warps := k.warps.map fun w => { w with stopped := none, sinceReq := 0 } }
  | none => s

/-- The saves that waited for room are asked for again when there is some (R284). -/
def askAgain (s : State) : State :=
  if s.crews.any fun k => k.saveDue.isSome && ctxRoom s k then
    mapCrews s fun k => if k.saveDue.isSome && ctxRoom s k then { k with saveReq := k.saveDue, saveDue := none } else k
  else s

/-- SAVE_BUNDLE_LIMIT (R282): a full save after the 4,096th bundle. -/
def saveLimit (s : State) (c x : Nat) : State :=
  match findCrew s c, findWarp s c x with
  | some k, some w =>
    if k.saveReq.isSome && w.stopped.isNone && decide (4096 ≤ w.sinceReq) then updWarp s c x fun w => { w with stopped := some .full } else s
  | _, _ => s

/-- Asks crews to be saved (R282, step 1). -/
def askSave (s : State) (cause : SaveCause) (f : Crew → Bool) : State :=
  mapCrews s fun k => if f k && k.saveReq.isNone && k.saveDue.isNone then
    { k with saveReq := some cause, warps := k.warps.map fun w => { w with sinceReq := 0 } } else k

/-! ### Restoring (R269, R285, R287) -/

def savedNeed (k : Crew) (fs : List Frag) : Need :=
  { vf := k.vf, service := k.service, warps := k.warps.length, regs := crewRegs k, scratch := k.shareSize, frags := fs.countP fun f => !f.whole,
    whole := (fs.filter (·.whole)).map (·.warp) }

/-- The check of a saved `bwait` made afresh (R285): the reads of PHASE and the arm are loads at the object (R200), and what
the crew does next comes after its last write; an object in device memory counts every write of its function.
DESIGN CHOICE: log entry 96. -/
def recheckObj (s : State) (k : Crew) (x : Nat) (t : Nat × Nat × Nat × Nat) : State :=
  let key := t.1
  let locs : List Loc := (List.range 16).map fun i =>
    if key % 2 = 0 then .dev (key / 2 + i) else .sp (key / 2 / 2 ^ 40) (key / 2 % 2 ^ 40 + i)
  let s := readBy (if key % 2 = 0 then raiseTime s k.core (tableTime s k.vf) else s) k.core (placeTags locs) 0
  let bs := locs.map (locGet s k.vf)
  let ph := leAt bs 8 4
  let go (st : Nat) : State := updWarp s k.id x fun w =>
    releaseWarp (· == .obj key t.2.1 t.2.2.1 t.2.2.2) (fun _ ln => { ln with v := ln.v.set t.2.2.1 (objWord st ph) }) w
  if !(locs.any (armedAt s)) then go 1
  else if ph % 2 ^ 24 ≠ t.2.1 then go 0
  else putLocs s k.vf ((locs.drop 12).zip (bytesOfNat 2 (leAt bs 12 2 + 1)))

/-- The lanes that wait on `a` wait on `b`. -/
def moveRing (a b : Wait) (w : Warp) : Warp := { w with lanes := w.lanes.map fun ln => if ln.wait = a then { ln with wait := b } else ln }
/-- The checks of `csleep` and `lwait` made afresh (R285); a ticket names a finished operation (R242). -/
def recheckWaits (s : State) (k : Crew) (x : Nat) : State :=
  let ws : List Wait := match findWarp s k.id x with
    | some w => (w.lanes.filterMap fun (ln : Lane) => if ln.st = .waiting then some ln.wait else none).eraseDups
    | none => []
  ws.foldl (fun s wt => match wt with
    | .ring n d h0 =>
      let go (y : Word) : State := updWarp s k.id x fun w => releaseWarp (· == .ring n d h0) (fun _ ln => ln) (setS w d y)
      match ringOf s (shareAt s k.id k.shareSize) n with
      | none => go (ringWord 2 0)
      | some (_, _, _, h, t) =>
        if ringCount h t = 0 then updWarp s k.id x (moveRing (.ring n d h0) (.ring n d h))
        else go (ringWord 0 (ringCount h t))
    | .ticket q t => updWarp s k.id x (releaseWarp (· == .ticket q t) fun _ ln => ln)
    | .launch id =>
      match launchOf s id with
      | some l => if l.st.final then updWarp s k.id x (releaseWarp (· == .launch id) fun _ ln => ln) else s
      | none => s
    | _ => s) s

/-- One saved fragment takes a new entry and is reported again (R269). -/
def refault (s : State) (k : Crew) (f : Frag) : State :=
  let slot := ((k.warps[f.warp]?).map (·.slot)).getD 0
  let e := if f.whole then 128 + slot else ((List.range Config.sharedFrags).find? fun e => !entryTaken s k.core e).getD 0
  let g := takeEntry s k.core e
  let f := { f with core := k.core, entry := e, gen := g.1, slot := slot, crew := k.id, freed := false }
  let kind := if f.whole then 2 else 1
  queueRecord { g.2 with frags := g.2.frags ++ [f] } k.vf {
    kind := kind, bytes := recordBytes kind f.cls f.code 1 (some f) f.launch [f.addr] f.more 0 0 0, frag := some (k.core, e) }

/-- Moves the waits on objects of the share with it. -/
def moveKey (old new oldB newB n : Nat) (ln : Lane) : Lane :=
  match ln.wait with
  | .obj key t d i =>
    let q := key / 2 / 2 ^ 40; let o := key / 2 % 2 ^ 40
    if key % 2 = 1 ∧ q = old ∧ oldB ≤ o ∧ o < oldB + n then { ln with wait := .obj (objKey (.sp new (o - oldB + newB))) t d i } else ln
  | _ => ln

/-- A saved crew of a bay's queue is restored onto a core (R287), however many objects are then armed on its quad (R173).
DESIGN CHOICE: log entries 70, 102. -/
def restoreNow (s : State) (bay i core : Nat) : State :=
  match (bayAt s bay).queue[i]? with
  | none => s
  | some q => match q.saved with
    | none => s
    | some k =>
      let quad := quadOfCore core
      let base := findGap (padUsed s quad) k.shareSize
      let slots := freeSlots s core
      let mv := moveKey (quadOfCore k.core) quad k.shareBase base k.shareSize
      let k := { k with
        core := core, shareBase := base, placedAt := s.cycle,
        warps := k.warps.mapIdx fun x w => { w with
          slot := slots.getD x 0, lastIssue := s.cycle, passed := false, lanes := w.lanes.map mv, sleepUntil := w.sleepUntil.map (· + s.cycle) } }
      let s := clearShare s quad base k.shareSize
      let s := updQuad s quad fun t => { t with
        sp := memPaste t.sp base q.share
        armed := q.armed.map (base + ·) ++ t.armed }
      let s := updBay s bay fun b => { b with queue := b.queue.eraseIdx i, ptr := some (core % 16) }
      let s := syncCore { s with crews := s.crews ++ [k] } core
      let s := q.frags.foldl (fun s f => refault s k f) s
      let s := (List.range k.warps.length).foldl (fun s x =>
        recheckWaits (((k.warps[x]?).map objWaits).getD [] |>.foldl (fun s t => recheckObj s k x t) s) k x) s
      let s := checkBars s
      if sliced s k.vf && s.slice.isNone then { s with slice := some (k.vf, s.cycle) } else s

/-! ### The Sluice (R137 to R140) -/

/-- R139: effective priority of a launch. -/
def effPrio (s : State) (l : Launch) : Nat → Nat
  | 0 => (parseLaunch l.desc).prio
  | fuel + 1 =>
    (s.launches.filter fun x => !x.st.final && (parseLaunch x.desc).predIds.contains (l.seq % 2 ^ 32)).foldl
      (fun p x => max p (effPrio s x fuel)) (parseLaunch l.desc).prio
def prioOf (s : State) (seq : Nat) : Nat := match findLaunch s seq with
  | some l => effPrio s l (s.launches.filter fun x => !x.st.final).length
  | none => 0

/-- The restore of a queued crew must read its image or an object on a die out of service (R315). -/
def restoreHeld (s : State) (q : QCrew) : Bool := q.saved.any fun k => k.warps.any (objHeld s k.core) || ctxHeld s q.vf k.core q.ctx
/-- The crew a bay offers: a saved service crew, else the head of the launch of highest effective priority (R137).
DEDUCED: log entries 41, 42. -/
def headCrew (s : State) (bay : Nat) : Option (Nat × QCrew) :=
  let qs := ((bayAt s bay).queue.mapIdx fun i q => (i, q)).filter fun p => (!sliced s p.2.vf || sliceRuns s p.2.vf) && !restoreHeld s p.2
  match qs.find? (·.2.launch == 0) with
  | some x => some x
  | none => qs.foldl (fun b p => match b with
    | none => some p
    | some c =>
      let pp := prioOf s p.2.launch; let pc := prioOf s c.2.launch
      if pc < pp ∨ (pc = pp ∧ p.2.launch < c.2.launch) then some p else some c) none

/-- Room a queued crew needs. -/
def needOf (s : State) (q : QCrew) : Need :=
  match q.saved with
  | some k => savedNeed k q.frags
  | none =>
    let d := parseLaunch (((findLaunch s q.launch).map (·.desc)).getD [])
    { vf := q.vf, warps := d.warps, regs := d.warps * d.regs, scratch := d.scratch }

/-- The cores of a bay in the order they are offered (R137). -/
def offerOrder (s : State) (bay : Nat) : List Nat :=
  let p := match (bayAt s bay).ptr with
    | some p => p + 1
    | none => 0
  (List.range 16).map fun i => 16 * bay + (p + i) % 16

/-- Crews of a core below a priority, in the order they are asked to leave (R140). -/
def insertVictim (x : Nat × Nat × Nat) : List (Nat × Nat × Nat) → List (Nat × Nat × Nat)
  | [] => [x]
  | y :: ys => if x.1 < y.1 ∨ (x.1 = y.1 ∧ y.2.1 < x.2.1) then x :: y :: ys else y :: insertVictim x ys
def victims (s : State) (core p : Nat) : List Nat :=
  (((s.crews.filter fun k => k.core == core && !k.service && decide (prioOf s k.launch < p)).map
    fun k => (prioOf s k.launch, k.launch, k.id)).foldl (fun l x => insertVictim x l) []).map (·.2.2)
/-- The first `k` of a list, in its order, that satisfy `ok` together with those already chosen. -/
def chooseSet (ok : List Nat → Bool) : List Nat → Nat → List Nat → Option (List Nat)
  | _, 0, ch => if ok ch then some ch else none
  | [], _ + 1, _ => none
  | v :: vs, k + 1, ch => match chooseSet ok vs k (ch ++ [v]) with
    | some r => some r
    | none => chooseSet ok vs (k + 1) ch
/-- The fewest victims that must leave for the crew to fit, the first in the leaving order among sets of one size (R140).
DEDUCED: log entry 92. -/
def mustLeave (s : State) (core : Nat) (n : Need) (vs : List Nat) : Option (List Nat) :=
  (List.range (vs.length + 1)).findSome? fun i => chooseSet (fitsWithout s core n) vs i []

/-- PREEMPT_REQUEST (R140), unless crews that are already leaving make room. -/
def preempt (s : State) (bay p : Nat) (n : Need) : State :=
  let cores := (List.range 16).map (16 * bay + ·)
  let leaving := (s.crews.filter fun k => k.saveReq.isSome || k.saveDue.isSome).map (·.id)
  if cores.any fun c => fitsWithout s c n leaving then s
  else
    let opts := cores.filterMap fun c => mustLeave s c n (victims s c p)
    match opts.foldl (fun b o => match b with
      | none => some o
      | some x => if o.length < x.length then some o else some x) none with
    | none => s
    | some gone => askSave s .preempt fun k => gone.contains k.id

/-- SLUICE_PLACE_CREW of a bay. -/
def placeCrew (s : State) (bay : Nat) : State :=
  let order := offerOrder s bay
  match (bayAt s bay).service with
  | (vf, bs) :: rest =>
    let d := parseLaunch bs
    let n : Need := { vf := vf, warps := d.warps, regs := d.warps * d.regs, scratch := d.scratch, service := true }
    match order.find? fun c => fits s c n with
    | none => s
    | some c => startCrew (updBay s bay fun b => { b with service := rest }) c d 0 vf 0 [0, 0, 0, 0] true
  | [] => match headCrew s bay with
    | none => s
    | some (i, q) =>
      let n := needOf s q
      match order.find? fun c => fits s c n with
      | none => if q.launch = 0 then s else preempt s bay (prioOf s q.launch) n
      | some c =>
        if q.saved.isSome then restoreNow s bay i c
        else
          let d := parseLaunch (((findLaunch s q.launch).map (·.desc)).getD [])
          startCrew (updBay s bay fun b => { b with queue := b.queue.eraseIdx i }) c d q.launch q.vf q.crewIdx q.tile false

/-- CREW_RESTORE: the saved crew heads its bay, and the core is the first that passes. -/
def crewRestore (s : State) (c core : Nat) : State :=
  let bay := bayOfCore core
  match headCrew s bay with
  | some (i, q) =>
    if (q.saved.map (·.id)) = some c ∧ (bayAt s bay).service.isEmpty ∧ (offerOrder s bay).find? (fun x => fits s x (needOf s q)) = some core
    then restoreNow s bay i core else s
  | none => s

/-- TIME_SLICE_END (R312): at the end of the slice its crews are asked to save. -/
def sliceEnd (s : State) : State :=
  match s.slice with
  | none => s
  | some (v, t) =>
    let s := { s with cycle := max s.cycle (t + sliceLen s) }
    sliceNext (askSave s .slice fun k => k.vf == v && !k.service && sliced s v)

/-! ### LNCH (R158, R159) -/

/-- R158: the descriptor is copied and joins the VF's device-side queue. -/
def postLaunch (s : State) (i : Instr) (off : Nat) : State :=
  let bs := if off % 128 ≠ 0 ∨ s.c.shareSize < off + 128 then none else some (shRead s (ownShare s) off 128)
  let p : DevPost := { desc := bs, crew := s.c.id, warp := s.w.idx, pend := s.w.nextId }
  addPend (updVf s s.c.vf fun v => { v with posts := v.posts ++ [p] }) i [] 0 false 0 true

/-- R158. -/
def execLaunch (la d ua : Nat) (s : State) : Out :=
  issue (.launch la d ua) s fun s => postLaunch s (.launch la d ua) (rdS s.old ua).toNat

/-- R159: completes at once where the id names no accepted launch or one that has ended. -/
def waitLaunch (s : State) (id : Nat) : State :=
  match launchOf s id with
  | none => s
  | some l => if l.st.final || l.forgotten (s.nextLaunch - 1) then syncCore s s.c.core else waitLanes s (.launch id)

/-- R159. -/
def execLwait (ua : Nat) (s : State) : Out :=
  issue (.lwait ua) s fun s => waitLaunch s (rdS s.old ua).toNat

end Sys2Proof.Machine
end

