-- ==== Sys2Proof/Machine/Wharf.lean ====
section
/-! DEFINITION. The Wharf (R330 to R335): posted receives, matching, the unexpected queue, landing and completion, and the
words of WHARF and PFENCE (R338 to R346). -/

namespace Sys2Proof.Machine

/-! ### Descriptors (R330, R341) -/

structure RecvD where
  tag : Nat
  mask : Nat
  ctgt : Nat
  mode : Nat
  any : Bool
  src : Nat
  len : Nat
  tensor : Nat
  tile : Nat
  offset : Nat
  caddr : Nat
  deriving DecidableEq, Repr

def parseRecv (bs : List Byte) : RecvD :=
  let w := leAt bs 8 4
  { tag := leAt bs 0 4, mask := leAt bs 4 4, ctgt := fld w 8 2, mode := fld w 5 2, any := bitB w 4, src := fld w 0 4,
    len := leAt bs 12 4, tensor := leAt bs 16 2, tile := leAt bs 20 4, offset := leAt bs 24 8, caddr := leAt bs 32 8 }

structure SendD where
  tag : Nat
  chan : Nat
  ctgt : Nat
  dst : Nat
  len : Nat
  srcaddr : Nat
  caddr : Nat
  deriving DecidableEq, Repr

def parseSend (bs : List Byte) : SendD :=
  let w := leAt bs 4 4
  { tag := leAt bs 0 4, chan := fld w 8 4, ctgt := fld w 6 2, dst := fld w 0 4, len := leAt bs 8 4, srcaddr := leAt bs 16 8,
    caddr := leAt bs 24 8 }

/-- Code 0x05 of R340. -/
def badCaddr (ctgt caddr : Nat) : Bool := (ctgt == 1 && caddr % 16 != 0) || (ctgt == 2 && caddr % 32 != 0)
/-- Reserved bits of a receive descriptor (code 0x02). -/
def recvResv (bs : List Byte) : Bool :=
  let w := leAt bs 8 4
  fld w 10 22 != 0 || bitB w 7 || fld w 8 2 == 3 || fld w 5 2 == 3 || leAt bs 18 2 != 0 || leAt bs 40 24 != 0
/-- Code 0x03: LEN, and its alignment in the ACC modes. -/
def recvLen (d : RecvD) : Bool := d.len == 0 || decide (2 ^ 28 < d.len) || (d.mode != 0 && (d.len % 4 != 0 || d.offset % 4 != 0))
/-- Code 0x04 of a receive: `t` is its tensor, where it names a valid one. -/
def recvTarget (d : RecvD) (t : Option TDesc) : Bool :=
  if d.tensor = 0 then inPeerWindow d.offset
  else match t with
    | none => true
    | some t => t.layout != 1 || t.nostore || decide (t.tiles ≤ d.tile) || decide (2 ^ (t.tr + t.tc) * 1024 < d.offset + d.len)
/-- R340 for `wpost`: the code of the first check that fails. -/
def recvCheck (bs : List Byte) (t : Option TDesc) : Option Nat :=
  let d := parseRecv bs
  if recvResv bs then some 2 else if recvLen d then some 3 else if recvTarget d t then some 4
  else if badCaddr d.ctgt d.caddr then some 5 else none
/-- R340 for `wsend`. -/
def sendCheck (s : State) (bs : List Byte) : Option Nat :=
  let d := parseSend bs
  let w := leAt bs 4 4
  if fld w 12 20 != 0 || fld w 4 2 != 0 || d.ctgt == 3 || leAt bs 12 4 != 0 then some 2
  else if d.len = 0 ∨ 2 ^ 28 < d.len then some 3
  else if d.dst = s.fabric.dev ∨ s.fabric.pod ≤ d.dst ∨ inPeerWindow d.srcaddr then some 4
  else if badCaddr d.ctgt d.caddr then some 5 else none

/-- First byte of the landing region (R330). -/
def landBase (d : RecvD) (t : Option TDesc) : Nat :=
  match t with
  | some t => if d.tensor = 0 then d.offset else t.base + d.tile * 2 ^ (t.tr + t.tc) * 1024 + d.offset
  | none => d.offset
/-- The tag of a landing byte's line: flat, or the line of the tile that holds it (R167). -/
def landTag (vf : Nat) (d : RecvD) (t : Option TDesc) (va o : Nat) : Tag :=
  match t with
  | none => flatTag vf va
  | some t =>
    let li := (d.offset + o) / 1024
    let at_ := t.tileAt d.tile
    { vf := vf, tensor := d.tensor, plane := at_.getD 3 0 * t.e 2 + at_.getD 2 0,
      row := at_.getD 0 0 * 2 ^ t.tr + li / 2 ^ t.tc, col := at_.getD 1 0 * 2 ^ t.tc + li % 2 ^ t.tc }

/-! ### Handles (R339) -/

def handleOf (rcv : Bool) (gen index : Nat) : Nat := (if rcv then 2 ^ 31 else 0) + gen % 128 * 2 ^ 24 + index
def Posted.handle (p : Posted) : Nat := handleOf true p.gen p.index
def Send.handle (x : Send) : Nat := handleOf false x.gen x.index

/-- Entries in use: on the list, or landing. -/
def entriesUsed (s : State) : List Posted := s.wharf.posted ++ s.wharf.landings.map (·.post)
/-- The lowest free entry within a VF's quota and the device. DESIGN CHOICE: log entry 51. -/
def freePost (s : State) (vf : Nat) : Option Nat :=
  let us := entriesUsed s
  if (vfAt s vf).postMax ≤ us.countP (·.vf == vf) then none
  else (List.range Config.postEntries).find? fun i => !us.any (·.index == i)
/-- DESIGN CHOICE: log entry 51. -/
def freeSend (s : State) (vf : Nat) : Option Nat :=
  if (vfAt s vf).postMax ≤ s.wharf.sends.countP (·.vf == vf) then none
  else (List.range Config.sendSlots).find? fun i => !s.wharf.sends.any (·.index == i)
/-- Counts one more allocation of an entry: its GEN. -/
def bumpGen (l : List (Nat × Nat)) (i : Nat) : Nat × List (Nat × Nat) :=
  let g := (((l.find? (·.1 == i)).map (·.2)).getD 0 + 1) % 128
  (g, (i, g) :: l.filter (·.1 != i))

def updSend (s : State) (index : Nat) (f : Send → Send) : State :=
  { s with wharf := { s.wharf with sends := s.wharf.sends.map fun x => if x.index = index then f x else x } }
def updLanding (s : State) (index : Nat) (f : Landing → Landing) : State :=
  { s with wharf := { s.wharf with landings := s.wharf.landings.map fun l => if l.post.index = index then f l else l } }
def findLanding (s : State) (index : Nat) : Option Landing := s.wharf.landings.find? (·.post.index == index)

/-! ### Matching (R331 to R333) -/

/-- R331. -/
def matches_ (d : RecvD) (vf : Nat) (m : Msg) : Bool :=
  m.vf == vf && (d.any || d.src == m.src) && Nat.land m.tag d.mask == Nat.land d.tag d.mask

/-- Bytes of a VF's unexpected-data area in use. -/
def areaUsed (s : State) (vf : Nat) : List (Nat × Nat) :=
  (s.wharf.unexpected ++ s.wharf.landings.map (·.msg)).filterMap fun m =>
    if m.vf = vf then m.stored.map fun a => (a, m.len) else none
/-- The lowest place in the area with room for a payload. -/
def areaRoom (s : State) (vf n : Nat) : Option Nat :=
  let v := vfAt s vf
  let used := areaUsed s vf
  let fits (a : Nat) : Bool := decide (v.uqbase ≤ a) && decide (a + n ≤ v.uqbase + v.uqsize * 65536) &&
    used.all fun u => decide (a + n ≤ u.1) || decide (u.1 + u.2 ≤ a)
  (v.uqbase :: used.map fun u => u.1 + u.2).foldl (fun best a => if fits a then (match best with
    | some b => some (min a b)
    | none => some a) else best) none

/-- Changes the first element that satisfies `p`. -/
def modFirst {α : Type} (p : α → Bool) (f : α → α) : List α → List α
  | [] => []
  | x :: xs => if p x then f x :: xs else x :: modFirst p f xs

/-- WDONE to the sender of a message: MSGID, status, class, code, whose read failed, address, and bytes in AUX. -/
def doneBody (msgid status cls code role addr : Nat) : List Byte :=
  bytesOfNat 4 msgid ++ bytesOfNat 1 status ++ bytesOfNat 1 cls ++ bytesOfNat 1 code ++ bytesOfNat 1 role ++ bytesOfNat 8 addr
def sendDone (s : State) (m : Msg) (status cls code addr bytes : Nat) : State :=
  let x := newXid s
  sendCtl x.2 m.vf m.src 0x0A x.1 (doneBody m.msgid status cls code 0 addr) bytes
/-- WPULL to the sender of a rendezvous message. -/
def sendPull (s : State) (m : Msg) : State :=
  let x := newXid s
  sendCtl x.2 m.vf m.src 0x09 x.1 (bytesOfNat 4 m.msgid) 0

/-- A message has found its entry: a landing begins, with a pull where the payload is still at the sender. -/
def beginLanding (s : State) (p : Posted) (m : Msg) : State :=
  let l : Landing := { post := p, msg := m, since := s.cycle, acked := m.stored.isSome }
  let s := { s with wharf := { s.wharf with landings := s.wharf.landings ++ [l] } }
  if m.eager then s else sendPull s m

/-- A header that is taken by the Wharf: it matches the oldest entry, or joins the unexpected queue. -/
def takeHeader (s : State) (m : Msg) : State :=
  match s.wharf.posted.find? fun p => matches_ (parseRecv p.desc) p.vf m with
  | some p => beginLanding { s with wharf := { s.wharf with posted := s.wharf.posted.filter (·.index != p.index) } } p m
  | none => { s with wharf := { s.wharf with unexpected := s.wharf.unexpected ++ [m] } }
/-- A header slot is free (R332). -/
def headerRoom (s : State) : Bool := decide (s.wharf.unexpected.length < Config.headerSlots)

/-- An unexpected message whose payload is still to come. -/
def Msg.coming (m : Msg) : Bool := m.eager && m.stored.isNone && decide (m.payload.length < m.len)
/-- An unexpected message whose payload has come and is not stored yet. -/
def Msg.whole (m : Msg) : Bool := m.eager && m.stored.isNone && decide (m.len ≤ m.payload.length)

/-- The payload of an unexpected eager message is complete: it is stored, or discarded and left to a pull (R332, R334); it
waits while its place lies on a die out of service or another device holds its lines (R315, R328). -/
def storeUnexpected (s : State) (m : Msg) : State :=
  let put (s : State) (x : Msg) : State := { s with wharf := { s.wharf with unexpected := modFirst (· == m) (fun _ => x) s.wharf.unexpected } }
  let drop (s : State) : State := put s { m with eager := false, payload := [] }
  match areaRoom s m.vf m.len with
  | none => drop s
  | some a => match spanLoc s m.vf false true a m.len with
    | .error (0, _, _) => s
    | .error _ => drop s
    | .ok ls =>
      let h := homeClear s m.vf ls
      if ls.any (armedAt s) then drop s
      else if !h.1 then h.2
      else match writeVa h.2 m.vf a m.payload with
        | .ok s => sendDone (put s { m with payload := [], stored := some a }) m 0 0 0 0 m.len
        | .error _ => drop s
/-- Every unexpected payload that is complete is stored, oldest first. -/
def storeAll (s : State) : State := (s.wharf.unexpected.filter (·.whole)).foldl storeUnexpected s

/-- Payload bytes reach the Wharf for a message: true where a message takes them. -/
def takePayload (s : State) (src xid : Nat) (bs : List Byte) : Bool × State :=
  match s.wharf.landings.find? fun l => l.msg.src == src && l.msg.xid == xid && decide (l.msg.payload.length < l.msg.len) && l.msg.stored.isNone && l.ended.isNone with
  | some l => (true, updLanding s l.post.index fun l => { l with msg := { l.msg with payload := l.msg.payload ++ bs } })
  | none =>
    let mine (m : Msg) : Bool := m.src == src && m.xid == xid && m.coming
    (s.wharf.unexpected.any mine,
      { s with wharf := { s.wharf with unexpected := modFirst mine (fun m => { m with payload := m.payload ++ bs }) s.wharf.unexpected } })

/-! ### Landing (R334) -/

/-- Bytes that land of a payload of `n` bytes: whole words in the ACC modes. -/
def landGoal (d : RecvD) (l : Nat) : Nat := let n := min l d.len; if d.mode = 0 then n else n / 4 * 4
/-- What stops a landing in a tile: its home is out of service or not to be found out yet, or no reach gives it one (R169). -/
def landStop (s : State) (l : Landing) (d : RecvD) (t : Option TDesc) (o : Nat) : Option (Moved State) :=
  t.bind fun t => match findReach s l.post.vf d.tensor t.place d.tile t.nreach 0 with
    | none => some (.wait s)
    | some (some r) =>
      if r.st ≠ 1 ∧ r.st ≠ 2 then some (.stop 2 4 9 (l.post.base + o))
      else if (dieAt s r.hdie).st ≠ .active then some (.wait s)
      else none
    | some none => some (.stop 2 4 9 (l.post.base + o))

/-- Lands one byte of a REPLACE landing, or one word of an ACC landing, at landing offset `o`. -/
def landUnit (s : State) (l : Landing) (d : RecvD) (t : Option TDesc) (o : Nat) (get : Nat → Moved Byte) : Moved State :=
  let va := l.post.base + o
  let tag := landTag l.post.vf d t va o
  if d.mode = 0 then
    match get o with
    | .ok b => vaPut s none l.post.vf va tag b 0xFF
    | .wait s => .wait s
    | .stop a b c f => .stop a b c f
  else
    match get o, get (o + 1), get (o + 2), get (o + 3) with
    | .ok b0, .ok b1, .ok b2, .ok b3 =>
      match spanLoc s l.post.vf true true va 4 with
      | .error (0, _, _) => .wait s
      | .error (cls, code, a) => .stop 2 cls code a
      | .ok ls =>
        let h := homeClear s l.post.vf ls
        if ls.any (armedAt s) then .stop 2 3 1 va
        else if !h.1 then .wait h.2
        else if locsPoisoned s ls then .stop 2 1 32 va
        else if ls.any fun x => match x with | .host _ => true | _ => false then .stop 2 2 2 va
        else
          let s := h.2
          let old := wordOfBytes (ls.map (locGet s l.post.vf))
          let new := atomfNew (if d.mode = 1 then .faddF32 else .faddBf16x2) old (wordOfBytes [b0, b1, b2, b3])
          .ok (engWrite (putLocs s l.post.vf (ls.zip (bytesOfNat 4 new))) [tag])
    | .wait s, _, _, _ => .wait s
    | .stop a b c f, _, _, _ => .stop a b c f
    | _, .wait s, _, _ => .wait s
    | _, .stop a b c f, _, _ => .stop a b c f
    | _, _, .wait s, _ => .wait s
    | _, _, .stop a b c f, _ => .stop a b c f
    | _, _, _, .wait s => .wait s
    | _, _, _, .stop a b c f => .stop a b c f

/-- Byte `o` of a payload: as it came, or from the unexpected-data area. -/
def payloadByte (s : State) (m : Msg) (o : Nat) : Moved Byte :=
  match m.stored with
  | none => .ok (m.payload.getD o 0)
  | some a => vaByte s none m.vf (a + o)
/-- The line of that byte in the area. -/
def payloadTags (m : Msg) (o : Nat) : List Tag := (m.stored.map fun a => flatTag m.vf (a + o)).toList

/-- Lands up to `n` units from `o`: the new place, and how it ended, if it did (class, code, address). -/
def landUnits (s : State) (l : Landing) (d : RecvD) (t : Option TDesc) (o : Nat) : Nat → State × Nat × Option (Nat × Nat × Nat)
  | 0 => (s, o, none)
  | n + 1 =>
    let s := engRead s (payloadTags l.msg o)
    match landUnit s l d t o (payloadByte s l.msg) with
    | .ok s => landUnits s l d t (o + (if d.mode = 0 then 1 else 4)) n
    | .wait s => (s, o, none)
    | .stop _ cls code a => (s, o, some (cls, code, a % 2 ^ 56))
/-- Bytes of the piece at offset `o`, one element of S: up to the next aligned 64 bytes in REPLACE, a word in the ACC modes
(R334). -/
def pieceLen (base : Nat) (d : RecvD) (o goal : Nat) : Nat := if d.mode = 0 then min (64 - (base + o) % 64) (goal - o) else 4
/-- Lands whole pieces from `o` on as far as `upto`: a piece that cannot go through yet leaves nothing. -/
def landRun (s : State) (l : Landing) (d : RecvD) (t : Option TDesc) (goal upto o : Nat) : Nat → State × Nat × Option (Nat × Nat × Nat)
  | 0 => (s, o, none)
  | fuel + 1 =>
    let n := pieceLen l.post.base d o goal
    if goal ≤ o ∨ upto < o + n then (s, o, none)
    else match landStop s l d t o with
      | some (.stop _ cls code a) => (s, o, some (cls, code, a % 2 ^ 56))
      | some _ => (s, o, none)
      | none =>
        let r := landUnits s l d t o (if d.mode = 0 then n else 1)
        if r.2.2.isSome then r
        else if r.2.1 = o + n then landRun r.1 l d t goal upto r.2.1 fuel
        else if r.2.1 = o then r
        else (s, o, none)

/-- Bytes of the payload that are at hand. -/
def Landing.have_ (l : Landing) : Nat := if l.msg.stored.isSome then l.msg.len else l.msg.payload.length

/-- Payload that is still to come for a message is not wanted any more (R323); of a payload that the sender has cut short, only
what it has sent comes. -/
def dropComing (s : State) (m : Msg) (sent : Nat) : State :=
  if m.stored.isNone && decide (m.payload.length < sent) then
    { s with fabric := { s.fabric with sinks := s.fabric.sinks ++ [(m.src, m.xid, sent - m.payload.length)] } }
  else s
/-- Bytes that the sender of a landing's message sends. -/
def Landing.sent (l : Landing) : Nat := match l.cut with
  | some (n, _, _) => n
  | none => l.msg.len

/-- Sends WDONE once, and records the end of a landing; what comes after it of its payload is not wanted. -/
def endLanding (s : State) (l : Landing) (status cls code addr landed : Nat) : State :=
  let s := dropComing s l.msg l.sent
  let s := updLanding s l.post.index fun l => { l with ended := some (status, cls, code, addr), acked := true, landed := landed }
  if l.acked then s else sendDone s l.msg status cls code addr landed

/-- A landing goes on as far as its payload has come, and ends once the payload is through (R334).
DESIGN CHOICE: log entry 52. -/
def landOn (s : State) (index : Nat) : State :=
  match findLanding s index with
  | none => s
  | some l =>
    if l.ended.isSome then s
    else
      let d := parseRecv l.post.desc
      let t := if d.tensor = 0 then none else some (parseDesc l.post.tdesc)
      let goal := landGoal d l.msg.len
      let unit_ := if d.mode = 0 then 1 else 4
      let last := match l.cut with
        | some (n, _, _) => min goal (n / unit_ * unit_)
        | none => goal
      let r := landRun s l d t last (min last l.have_) l.landed (last - l.landed)
      let s := updLanding r.1 index fun l => { l with landed := r.2.1 }
      match r.2.2 with
      | some (cls, code, a) => endLanding s l 2 cls code a r.2.1
      | none => match l.cut with
        | some (n, cls, code) =>
          if min goal (n / unit_ * unit_) ≤ r.2.1 ∧ n ≤ l.have_ then endLanding s l 2 cls code ((l.post.base + r.2.1) % 2 ^ 56) r.2.1 else s
        | none =>
          if r.2.1 = goal ∧ l.msg.len ≤ l.have_ then
            endLanding s l (if d.len < l.msg.len ∨ (d.mode ≠ 0 ∧ min l.msg.len d.len % 4 ≠ 0) then 1 else 0) 0 0 0 goal
          else s

/-! ### Completions (R335) -/

/-- The record of a landing or a send. -/
def wharfRecord (handle src cls code status bytes tag addr time : Nat) : List Byte :=
  bytesOfNat 4 handle ++ bytesOfNat 4 (src * 2 ^ 20 + cls * 2 ^ 16 + code * 2 ^ 8 + status) ++ bytesOfNat 4 bytes ++ bytesOfNat 4 tag ++
    bytesOfNat 8 addr ++ bytesOfNat 8 time

/-- Writes a record into the ring whose control block stands at a virtual address: false where it must wait; a ring that
cannot take it gets none (R212, R335). -/
def putWharfRecord (s : State) (vf caddr : Nat) (rec_ : Nat → List Byte) : Bool × State :=
  match readVa s vf caddr 32, spanLoc s vf false true caddr 32 with
    | .ok cb, .ok ls =>
      let lg := leAt cb 4 4 % 16
      let head := leAt cb 8 4
      let va := (caddr + leAt cb 0 4 + 32 * (head % 2 ^ lg)) % 2 ^ 56
      if 12 < lg then (true, s)
      else if 2 ^ lg ≤ ringCount head (leAt cb 12 4) then (false, s)
      else match spanLoc s vf false true va 32 with
        | .error (0, _, _) => (false, s)
        | .error _ => (true, s)
        | .ok rs =>
          let h := homeClear s vf (rs ++ ls)
          if rs.any (armedAt s) || ls.any (armedAt s) then (true, s)
          else if !h.1 then (false, h.2)
          else match writeVa (engRead h.2 [flatTag vf caddr]) vf va (rec_ (spanTime h.2 vf va 32)) with
            | .ok s => match writeVa s vf (caddr + 8) (bytesOfNat 4 (head + 1)) with
              | .ok s => (true, s)
              | .error _ => (true, s)
            | .error _ => (true, s)
    | .error (0, _, _), _ => (false, s)
    | _, .error (0, _, _) => (false, s)
    | _, _ => (true, s)

/-- The completion of a landing or a send: its signal, or its record; true when it is made. -/
def complete (s : State) (vf ctgt caddr : Nat) (rec_ : Nat → List Byte) : Bool × State :=
  if ctgt = 1 then
    let h := signalHeld s none vf (caddr % 2 ^ 56)
    if h.1 then (false, h.2) else (true, (signalVa h.2 none vf (caddr % 2 ^ 56)).2)
  else if ctgt = 2 then putWharfRecord s vf (caddr % 2 ^ 56) rec_
  else (true, s)

/-- The completion of a landing that has ended; its entry is free once it is written. DESIGN CHOICE: log entry 52. -/
def landingDone (s : State) (index : Nat) : State :=
  match findLanding s index with
  | none => s
  | some l => match l.ended with
    | none => s
    | some (status, cls, code, addr) =>
      let d := parseRecv l.post.desc
      let cancelled := status = 3
      let r := complete s l.post.vf d.ctgt d.caddr fun time =>
        wharfRecord l.post.handle (if cancelled then 0 else l.msg.src) cls code status l.landed (if cancelled then 0 else l.msg.tag) addr time
      if r.1 then { r.2 with wharf := { r.2.wharf with landings := r.2.wharf.landings.filter (·.post.index != index) } } else r.2

/-- The completion of a send that has ended; its slot is free once it is written (R342). DESIGN CHOICE: log entry 52. -/
def sendOver (s : State) (index : Nat) : State :=
  match s.wharf.sends.find? (·.index == index) with
  | none => s
  | some x => match x.ended with
    | none => s
    | some (status, cls, code, addr, bytes) =>
      let d := parseSend x.desc
      let r := complete s x.vf d.ctgt d.caddr fun time => wharfRecord x.handle d.dst cls code status bytes d.tag addr time
      if r.1 then { r.2 with wharf := { r.2.wharf with sends := r.2.wharf.sends.filter (·.index != index) } } else r.2

/-- The entries of a send leave its channel; what stands behind them goes on. -/
def dropSends (s : State) (bay ch index : Nat) : State :=
  let mine (e : ChanEntry) : Bool := (e.kind == .send || e.kind == .data) && e.ref == index
  if (chanAt s bay ch).entries.any mine then
    sweepKept (settleFences (updChan (forgetWalks s bay ch) bay ch fun c => { c with entries := c.entries.filter fun e => !mine e }) bay)
  else s

/-- A send ends: its entries leave its channel, its flits that no path has taken go, and its completion is written or waits for
its ring. -/
def endSend (s : State) (index status cls code addr bytes : Nat) : State :=
  match s.wharf.sends.find? (·.index == index) with
  | none => s
  | some x =>
    if x.ended.isSome then s
    else
      let s := updSend s index fun x => { x with ended := some (status, cls, code, addr, bytes), buf := [] }
      let s := dropSends s x.bay (parseSend x.desc).chan index
      let keep (q : Nat × OutFlit) : Bool := match q.2 with
        | .ctl f => !(f.kind == 0x08 && f.src == s.fabric.dev && f.xid == x.xid && f.dst == (parseSend x.desc).dst && x.started)
        | .data f _ => !(f.src == s.fabric.dev && f.xid == x.xid && q.1 == (parseSend x.desc).dst && x.started)
      let s := if status = 4 then { s with fabric := { s.fabric with sendq := s.fabric.sendq.filter keep } } else s
      sendOver s index

/-- WHARF_LANDING_COMPLETE: landing `i`, or, counted on from the landings, a send whose completion waits. -/
def landingAt (s : State) (i : Nat) : State :=
  match s.wharf.landings[i]? with
  | some l => landingDone (landOn s l.post.index) l.post.index
  | none => match s.wharf.sends[i - s.wharf.landings.length]? with
    | some x => sendOver s x.index
    | none => s

/-! ### The words of WHARF -/

/-- A failed descriptor check: class 6 for every lane of Active, and the word's window (R255, R340). -/
def wharfFault (s : State) (i : Instr) (code addr : Nat) : State :=
  addFaulted (faultLanes s ((lanesOf s.iss.active).map fun l => ⟨l, 6, code, addr, addr⟩)) i

/-- The status NOSLOT (R339). -/
def noSlot : Word := 0xFFFFF001

/-- Takes a send slot and places the entry in its channel (R342). -/
def takeSend (s : State) (i : Instr) (d : Nat) (bs : List Byte) (index : Nat) : State :=
  let s := syncEngine s s.c.core
  let bay := bayOfCore s.c.core
  let g := bumpGen s.wharf.sgens index
  let x : Send := {
    index := index, gen := g.1, vf := s.c.vf, crew := s.c.id, warp := s.w.idx, launch := s.c.launch, bay := bay, desc := bs, op := s.opSeq }
  let e : ChanEntry := {
    kind := .send, op := s.opSeq, launch := s.c.launch, crew := s.c.id, vf := s.c.vf, core := s.c.core, shareBase := s.c.shareBase,
    shareSize := s.c.shareSize, flat := s.c.flat, formed := true, ref := index }
  let s := { s with opSeq := s.opSeq + 1, wharf := { s.wharf with sends := s.wharf.sends ++ [x], sgens := g.2 } }
  resWord (updChan s bay (parseSend bs).chan fun c => { c with entries := c.entries ++ [e] }) i d (w32 x.handle)

/-- R341, R342. -/
def execWsend (la d ua : Nat) (s : State) : Out :=
  issue (.wsend la d ua) s fun s =>
    let off := (rdS s.old ua).toNat
    if off % 32 ≠ 0 ∨ s.c.shareSize < off + 32 then wharfFault s (.wsend la d ua) 1 off
    else
      let bs := shRead s (ownShare s) off 32
      match sendCheck s bs with
      | some code => wharfFault s (.wsend la d ua) code off
      | none => match freeSend s s.c.vf with
        | none => resWord s (.wsend la d ua) d noSlot
        | some index =>
          if Config.chanEntries ≤ (chanAt s (bayOfCore s.c.core) (parseSend bs).chan).entries.length then stalled s
          else takeSend s (.wsend la d ua) d bs index

/-- The search and insertion of R333, one step of the Wharf. -/
def takePost (s : State) (i : Instr) (d : Nat) (bs tbs : List Byte) (t : Option TDesc) (index : Nat) : State :=
  let g := bumpGen s.wharf.pgens index
  let p : Posted := { index := index, gen := g.1, vf := s.c.vf, desc := bs, base := landBase (parseRecv bs) t, tdesc := tbs }
  let s := syncEngine s s.c.core
  let s := { s with wharf := { s.wharf with pgens := g.2 } }
  let s := match s.wharf.unexpected.find? (matches_ (parseRecv bs) s.c.vf) with
    | some m => landOn (beginLanding { s with wharf := { s.wharf with
        unexpected := s.wharf.unexpected.eraseP (matches_ (parseRecv bs) s.c.vf) } } p m) index
    | none => { s with wharf := { s.wharf with posted := s.wharf.posted ++ [p] } }
  resWord s i d (w32 p.handle)

/-- R343. -/
def execWpost (la d ua : Nat) (s : State) : Out :=
  issue (.wpost la d ua) s fun s =>
    let off := (rdS s.old ua).toNat
    if off % 64 ≠ 0 ∨ s.c.shareSize < off + 64 then wharfFault s (.wpost la d ua) 1 off
    else
      let bs := shRead s (ownShare s) off 64
      let tn := (parseRecv bs).tensor
      let die := dieOfCore s.c.core
      match (if tn = 0 then some s else fillDesc s die s.c.vf tn) with
      | none => stalled s
      | some s =>
        let t := descOf s die s.c.vf tn
        match recvCheck bs t with
        | some code => wharfFault s (.wpost la d ua) code off
        | none => match freePost s s.c.vf with
          | none => resWord s (.wpost la d ua) d noSlot
          | some index => takePost s (.wpost la d ua) d bs (((cachedDesc s die s.c.vf tn).bind id).getD []) t index

/-- R344. -/
def execWprobe (la d ua : Nat) (s : State) : Out :=
  issue (.wprobe la d ua) s fun s =>
    let off := (rdS s.old ua).toNat
    if off % 64 ≠ 0 ∨ s.c.shareSize < off + 64 then wharfFault s (.wprobe la d ua) 1 off
    else
      let bs := shRead s (ownShare s) off 64
      if recvResv bs then wharfFault s (.wprobe la d ua) 2 off
      else match s.wharf.unexpected.find? (matches_ (parseRecv bs) s.c.vf) with
        | some m => resWord s (.wprobe la d ua) d (w32 (m.src % 16 * 2 ^ 24 + min m.len 0xFFFFFF))
        | none => resWord s (.wprobe la d ua) d (w32 (2 ^ 28))

/-- What a handle names (R345). -/
inductive Named where
  | posted (p : Posted)
  | landing
  | queued (x : Send)
  | moving
  | stale
  deriving DecidableEq, Repr

def nameOf (s : State) (vf h : Nat) : Named :=
  match s.wharf.posted.find? fun p => p.vf == vf && p.handle == h with
  | some p => .posted p
  | none =>
    if s.wharf.landings.any fun l => l.post.vf == vf && l.post.handle == h then .landing
    else match s.wharf.sends.find? fun x => x.vf == vf && x.handle == h with
      | some x => if x.started || x.ended.isSome then .moving else .queued x
      | none => .stale

/-- A posted entry is cancelled: it leaves the list and completes with status 3. -/
def cancelPost (s : State) (p : Posted) : State :=
  let m : Msg := { vf := p.vf, src := 0, tag := 0, len := 0, msgid := 0, xid := 0, eager := true }
  let l : Landing := { post := p, msg := m, ended := some (3, 0, 0, 0), acked := true }
  landingDone { s with wharf := { s.wharf with
    posted := s.wharf.posted.filter (·.index != p.index), landings := s.wharf.landings ++ [l] } } p.index
/-- A send that has not started is cancelled: its channel entry goes. -/
def cancelSend (s : State) (x : Send) : State := endSend s x.index 3 0 0 0 0

/-- R345. -/
def execWcancel (la d ua : Nat) (s : State) : Out :=
  issue (.wcancel la d ua) s fun s =>
    let h := (rdS s.old ua).toNat
    match nameOf s s.c.vf h with
    | .posted p => resWord (cancelPost (syncEngine s s.c.core) p) (.wcancel la d ua) d 0
    | .landing | .moving => resWord s (.wcancel la d ua) d 1
    | .queued x => resWord (cancelSend (syncEngine s s.c.core) x) (.wcancel la d ua) d 0
    | .stale => resWord s (.wcancel la d ua) d 2

/-- R345: DONE follows every write of the landing or the completion. -/
def execWtest (la d ua : Nat) (s : State) : Out :=
  issue (.wtest la d ua) s fun s =>
    let s := syncCore s s.c.core
    match nameOf s s.c.vf (rdS s.old ua).toNat with
    | .posted _ | .queued _ => resWord s (.wtest la d ua) d 1
    | .landing | .moving => resWord s (.wtest la d ua) d 2
    | .stale => resWord s (.wtest la d ua) d 0

/-! ### Pod fences (R329, R346) -/

/-- Sends an FREL on every path that carried a peer store, atomic or send of the warp since its last release. -/
def sendFrels (s : State) : State :=
  let s := s.w.peers.foldl (fun s p =>
    let x := newXid s
    let s := { x.2 with fabric := { x.2.fabric with rels := x.2.fabric.rels ++ [(s.c.id, s.w.idx, x.1)] } }
    let dst := p.1 % 16
    let hop := p.1 / 16
    sendFlit s dst (match ctlFlit s s.c.vf dst 0x06 x.1 (bytesOfNat 4 p.2) p.2 with
      | .ctl f => .ctl { f with via := hop != dst, relay := hop }
      | o => o)) s
  { s with w := { s.w with peers := [] } }

/-- A pod fence holds the warp's next bundle. -/
def podFence (s : State) (rel acq : Bool) : State :=
  let s := if rel then sendFrels s else s
  { s with w := { s.w with hold := .fence rel acq s.opSeq } }

/-- The condition of a pod fence holds: every path has answered, and every send has its WDONE or its completion.
DEDUCED: log entry 55. -/
def fenceClear (s : State) (crew warp : Nat) (rel acq : Bool) (before : Nat) : Bool :=
  (!rel || (!(s.fabric.rels.any fun r => r.1 == crew && r.2.1 == warp) &&
      !(s.wharf.sends.any fun x => x.crew == crew && x.warp == warp && decide (x.op < before) && !x.acked))) &&
    (!acq || !(s.fabric.reqs.any fun r => r.answer.isNone && r.kind != 1 && match r.who with
      | .lane c x _ => c == crew && x == warp
      | .bte .. => false))

/-- R346. -/
def execFencePodRel (s : State) : Out := issue .fencePodRel s fun s => podFence s true false
/-- R346. -/
def execFencePodAcq (s : State) : Out := issue .fencePodAcq s fun s => podFence s false true
/-- R346. -/
def execFencePod (s : State) : Out := issue .fencePod s fun s => podFence s true true

end Sys2Proof.Machine
end

