-- ==== Sys2Proof/Machine/Fabric.lean ====
section
/-! DEFINITION. Flits that arrive (R319 to R329): receive slots and replay, requests of peers at their home, answers, fence
markers, messages for the Wharf, and the peloton token (R336, R337). -/

namespace Sys2Proof.Machine

/-! ### Flits as bytes (R321, R322) -/

/-- CRC-32, one bit and one byte: reflected, polynomial 0xEDB88320. PRESUMED: log entry 12. -/
def crcBits (c : Nat) : Nat → Nat
  | 0 => c
  | n + 1 => crcBits (if c % 2 = 1 then Nat.xor (c / 2) 0xEDB88320 else c / 2) n
def crcRun (c : Nat) : List Byte → Nat
  | [] => c
  | b :: bs => crcRun (crcBits (Nat.xor c b.toNat) 8) bs
/-- CRC-32 of a byte string. PRESUMED: log entry 12. -/
def crc32 (bs : List Byte) : Nat := Nat.xor (crcRun 0xFFFFFFFF bs) 0xFFFFFFFF

/-- The 32 bytes of a control flit (R321). -/
def flitBytes (f : Flit) : List Byte :=
  let bs := bytesOfNat 4 ((if f.via then 2 ^ 28 + f.relay % 16 * 2 ^ 24 else 0) + f.vf % 256 * 2 ^ 16 + f.dst % 16 * 2 ^ 12 +
      f.src % 16 * 2 ^ 8 + f.kind % 256) ++
    bytesOfNat 4 (f.xid % 2 ^ 16 * 2 ^ 16 + f.lseq % 2 ^ 16) ++ pad16 (f.body.take 16) ++ bytesOfNat 4 f.aux
  bs ++ bytesOfNat 4 (crc32 bs)
/-- The 512 bytes of a data flit (R322). -/
def dataFlitBytes (f : DataFlit) : List Byte :=
  let p := f.payload.take 496
  let bs := bytesOfNat 2 f.lseq ++ bytesOfNat 2 f.xid ++ bytesOfNat 2 p.length ++ bytesOfNat 2 0 ++ p ++
    List.replicate (496 - p.length + 4) 0
  bs ++ bytesOfNat 4 (crc32 bs)
/-- The bytes that a flit puts on its port's lanes. -/
def OutFlit.bytes : OutFlit → List Byte
  | .ctl f => flitBytes f
  | .data f _ => dataFlitBytes f

/-! ### Receive slots (R323) -/

/-- Units of a function's reserved share: PF 16, an enabled VF its FSLOT while the sum over the VFs up to it fits. -/
def shareUnits (s : State) (vf : Nat) : Nat :=
  if vf = 0 then 16
  else if !(vfAt s vf).en then 0
  else
    let sum := ((s.vfs.take (vf + 1)).drop 1).foldl (fun n v => if v.en then n + v.fslot else n) 0
    if sum ≤ 192 then (vfAt s vf).fslot else 0
def poolUnits (s : State) : Nat := 240 - ((List.range 192).map fun i => shareUnits s (i + 1)).sum

/-- A free slot for a flit of a function: of its share (false), of the pool (true), or none. `n` slots make a unit. -/
def slotFor (s : State) (vf n : Nat) (used : List (Nat × Bool)) : Option Bool :=
  if (used.countP fun u => u.1 == vf && !u.2) < n * shareUnits s vf then some false
  else if (used.countP fun u => u.2) < n * poolUnits s then some true else none
def ctlSlot (s : State) (k vf : Nat) : Option Bool :=
  slotFor s vf 8 ((s.fabric.held.filter (·.flit.port == k)).map fun h => (h.flit.vf, h.pool))
def dataSlot (s : State) (k vf : Nat) : Option Bool :=
  slotFor s vf 4 ((s.fabric.heldData.filter (·.flit.port == k)).map fun h => (h.flit.vf, h.pool))

def portAt (s : State) (k : Nat) : Port := s.fabric.ports.getD k {}
def updPort (s : State) (k : Nat) (f : Port → Port) : State := { s with fabric := { s.fabric with ports := s.fabric.ports.modify k f } }

/-- An LACK or LNAK of this device on a port: it has no place in the port's sequence. DESIGN CHOICE: log entry 50. -/
def linkFlit (s : State) (k kind vf lseq : Nat) : State :=
  { s with fabric := { s.fabric with outbox := s.fabric.outbox ++ [.ctl {
      port := k, via := false, relay := 0, vf := vf, dst := peerOf s.fabric.dev k, src := s.fabric.dev, kind := kind, xid := 0,
      lseq := 0, body := pad16 [], aux := lseq }] } }

/-- The link of a port is up, at this end (R319). -/
def portUp (s : State) (k : Nat) : Bool := linkUp s (peerOf s.fabric.dev k)
/-- The later of two LSEQs, which count modulo 2^16. -/
def laterSeq (a b : Nat) : Nat := if (b + 2 ^ 16 - a) % 2 ^ 16 < 2 ^ 15 then b else a
/-- Whether a port takes the next flit of a function: it comes before, or is, the flit from which on every function's are awaited
again, and the flit of its function that has been refused (R324). -/
def portTakes (s : State) (k vf lseq : Nat) : Bool :=
  let p := portAt s k
  (p.await.all fun m => laterSeq lseq m == m) && p.refused.all fun r => r.1 != vf || r.2 == lseq

/-- A flit has come that is not taken: it is to come again. -/
def passOver (s : State) (k lseq : Nat) : State :=
  updPort s k fun p => if p.gaps.contains lseq then p else { p with gaps := p.gaps ++ [lseq] }
/-- A flit finds no slot: it is refused with an LNAK that names its function, each time that it comes. -/
def refuse (s : State) (k vf lseq : Nat) : State :=
  linkFlit (updPort (passOver s k lseq) k fun p => { p with
    await := if p.await = some lseq then none else p.await
    refused := if p.refused.contains (vf, lseq) then p.refused else p.refused ++ [(vf, lseq)] }) k 0x0E vf lseq
/-- The LSEQ up to which every flit of a port has been taken. -/
def ackSeq (p : Port) : Nat := match p.gaps with
  | [] => p.last
  | g :: gs => (gs.foldl (fun m x => if laterSeq m x = x then m else x) g + 2 ^ 16 - 1) % 2 ^ 16
/-- A flit is taken, and every flit of the port up to the first one that is to come again is acknowledged.
DESIGN CHOICE: log entry 50. -/
def taken (s : State) (k vf lseq : Nat) : State :=
  let s := updPort s k fun p => { p with
    await := if p.await = some lseq then none else p.await, refused := p.refused.filter (· != (vf, lseq)), gaps := p.gaps.filter (· != lseq), last := laterSeq p.last lseq }
  linkFlit s k 0x0C vf (ackSeq (portAt s k))

/-! ### A request at the exporter (R326, R328) -/

/-- What the exporter's checks give. -/
inductive HomeChk where
  | wait
  | refused
  | ok (s : State) (vf va : Nat) (ls : List Loc)

def reqOff (f : Flit) : Nat := leAt f.body 1 5
def reqSize (f : Flit) : Nat := leAt f.body 6 1
/-- The operation of an ATOMREQ. -/
def reqOp (f : Flit) : Nat := leAt f.body 7 1

/-- The export entry a handle names: a cached one may be used until `tlbinv` drops it (R326). -/
def exportEntry (s : State) (vf exp : Nat) : Except Bool (List Byte × State) :=
  let read (s : State) : Except Bool (List Byte × State) := match readVa s vf ((vfAt s vf).exbase + 32 * exp) 32 with
    | .ok bs => .ok (bs, s)
    | .error (0, _, _) => .error true
    | .error _ => .error false
  match s.fabric.exports.find? fun e => e.1 == vf && e.2.1 == exp with
  | some e => if Config.useCopy s.freeCtr then .ok (e.2.2, { s with freeCtr := s.freeCtr + 1 }) else read { s with freeCtr := s.freeCtr + 1 }
  | none => read s

/-- The checks of the exporter on a request: reads need R, writes and atomics W; then its own two stages, for an atomic with
the rights of both (R326). -/
def homeCheck (s : State) (f : Flit) : HomeChk :=
  let rd := f.kind == 1
  let wr := f.kind != 1
  let h := f.aux
  let vf := fld h 8 8
  let exp := fld h 16 8
  if h % 16 ≠ s.fabric.dev ∨ fld h 4 4 ≠ 0 ∨ vf = 0 ∨ 192 < vf then .refused
  else match exportEntry s vf exp with
    | .error true => .wait
    | .error false => .refused
    | .ok (bs, s) =>
      let w := leAt bs 12 4
      let va := (leAt bs 0 8 + reqOff f) % 2 ^ 56
      if !bitB w 0 || fld w 24 8 != fld h 24 8 || (fld w 16 8 != 0xFF && fld w 16 8 != f.src) || (rd && !bitB w 1) || (wr && !bitB w 2) ||
          decide (leAt bs 8 4 * 8192 < reqOff f + (reqSize f)) then .refused
      else match spanLoc s vf (f.kind != 2) wr va (reqSize f) with
        | .error (0, _, _) => .wait
        | .error _ => .refused
        | .ok ls =>
          if locsPoisoned s ls then .refused
          else .ok { s with fabric := { s.fabric with exports := (vf, exp, bs) :: s.fabric.exports.filter fun e => !(e.1 == vf && e.2.1 == exp) } }
            vf va ls

/-- RESP: its status in AUX, up to 16 bytes in the flit, more in data flits. -/
def respond (s : State) (f : Flit) (status : Nat) (data : List Byte) : State :=
  if data.length ≤ 16 then sendCtl s f.vf f.src 0x04 f.xid data status
  else sendData (sendCtl s f.vf f.src 0x04 f.xid [] status) f.vf f.src f.xid data 64

/-- A write to one of the lines waits for INVACKs. -/
def lineBusy (s : State) (lines : List Nat) : Bool :=
  (s.fabric.homeWaits.any fun w => w.lines.any lines.contains) || s.fabric.invals.any fun x => lines.contains x.2

/-- RDREQ: the line's value at its home; the requester may keep a copy. None while it must wait.
DEDUCED: log entry 53. -/
def serveRead (s : State) (f : Flit) : Option State :=
  match homeCheck s f with
  | .wait => none
  | .refused => some (respond s f 1 [])
  | .ok s vf va ls =>
    let lines := homeLines ls
    if lineBusy s lines then none
    else
      let s := engRead s (spanTags vf va ls)
      some (respond (lines.foldl (fun s l => addHolder s f.src l) s) f 0 (ls.map (locGet s vf)))

/-- The atomic operation of a request (R321). -/
def rmwOfCode (c : Nat) : Option RmwOp :=
  if c = 32 then some .cas
  else if c < 16 then ([AtomOp.add, .min, .max, .minu, .maxu, .and, .or, .xor, .exch].find? fun o => atomCode o == c).map .int
  else ([AtomFOp.faddF32, .faddBf16x2, .fminF32, .fmaxF32].find? fun o => 16 + atomfCode o == c).map .flt

/-- Operand bytes of an ATOMREQ, and how many of them come in a data flit. -/
def atomBytes (f : Flit) : Nat := reqSize f * (if reqOp f = 32 then 2 else 1)
def dataNeed (f : Flit) : Nat := if f.kind = 2 then reqSize f else if f.kind = 3 ∧ 8 < atomBytes f then atomBytes f else 0

/-- Performs a peer's write or atomic at its home slice or atomic unit (R179, R180). -/
def performPeer (s : State) (f : Flit) (data : List Byte) (vf va : Nat) (ls : List Loc) : State :=
  let ts := spanTags vf va ls
  let put (s : State) (bs : List Byte) : State := engWrite (putLocs s vf (ls.zip bs)) ts
  if ls.any (armedAt s) then respond s f 1 []
  else if f.kind = 2 then respond (put s (data.take (reqSize f))) f 0 []
  else match rmwOfCode (reqOp f) with
    | none => respond s f 1 []
    | some op =>
      let n := reqSize f
      let s := unitServes s (atomUnit ls ts) (peerRank f.src)
      let args := if dataNeed f = 0 then f.body.drop 8 else data
      let old := ls.map (locGet s vf)
      let x := leAt args 0 n
      let y := if op = .cas then leAt args n n else 0
      let new := rmwNew op (8 * n) (wordOfBytes old) x y
      respond (if op = .cas && wordOfBytes old != x then engRead s ts else put s (bytesOfNat n new)) f 0 old

/-- Payload that has come for a control flit, in the order it came. -/
def dataFor (s : State) (src xid : Nat) : List Byte :=
  (s.fabric.heldData.filter fun h => h.flit.src == src && h.flit.xid == xid).flatMap (·.flit.payload)
def dropData (s : State) (src xid : Nat) : State :=
  { s with fabric := { s.fabric with heldData := s.fabric.heldData.filter fun h => !(h.flit.src == src && h.flit.xid == xid) } }

/-- WRREQ and ATOMREQ: checked, the other holders invalidated, then performed. None while it must wait.
DEDUCED: log entry 53. -/
def serveWrite (s : State) (f : Flit) : Option State :=
  let data := if dataNeed f = 0 then [] else dataFor s f.src f.xid
  if data.length < dataNeed f then none
  else match homeCheck s f with
    | .wait => none
    | .refused => some (respond (if dataNeed f = 0 then s else dropData s f.src f.xid) f 1 [])
    | .ok s vf va ls =>
      let lines := homeLines ls
      if lineBusy s lines then none
      else
        let s := if dataNeed f = 0 then s else dropData s f.src f.xid
        let acks := lines.flatMap fun l => ((holdersOf s l).filter (· != f.src)).map fun d => (d, l)
        if acks.isEmpty then some (performPeer s f data vf va ls)
        else
          let s := sendInvals s vf acks
          some { s with fabric := { s.fabric with
            homeWaits := s.fabric.homeWaits ++ [{ flit := f, data := data, vf := vf, va := va, lines := lines, acks := acks }] } }

/-- INVACK: the writes that waited for it alone are performed, and what the device itself writes goes on. -/
def takeInvack (s : State) (f : Flit) : State :=
  let s := { s with fabric := { s.fabric with invals := s.fabric.invals.filter (· != (f.src, leAt f.body 0 8)) } }
  let ws := s.fabric.homeWaits.map fun w => { w with acks := w.acks.filter (· != (f.src, leAt f.body 0 8)) }
  let s := { s with fabric := { s.fabric with homeWaits := ws.filter fun w => !w.acks.isEmpty } }
  let s := (ws.filter fun w => w.acks.isEmpty).foldl (fun s w =>
    match spanLoc s w.vf (w.flit.kind == 3) true w.va (reqSize w.flit) with
    | .ok ls => performPeer s w.flit w.data w.vf w.va ls
    | .error _ => respond s w.flit 1 []) s
  ((List.range s.vfs.length).filter fun v => !(vfAt s v).stPend.isEmpty).foldl retryStatus s

/-! ### Answers at the requester -/

/-- INVAL: this device's copies of the home's lines go, and INVACK answers (R328). -/
def takeInval (s : State) (f : Flit) : State :=
  let s := { s with fabric := { s.fabric with peerCopies := s.fabric.peerCopies.filter (·.1 != f.src) } }
  sendCtl s f.vf f.src 0x0D f.xid f.body 0

/-- An answer is whole: the request has its data, and L2 holds those of a thread's read; a write of this device ends its own
copies (R328). -/
def answerReq (s : State) (r : PeerReq) (status : Nat) (data : List Byte) : State :=
  let s := { s with fabric := { s.fabric with
    reqs := s.fabric.reqs.map fun (x : PeerReq) => if x.xid = r.xid ∧ x.dev = r.dev then { x with resp := false, answer := some (status, data) } else x } }
  let copies := s.fabric.peerCopies.filter fun (c : Nat × Nat × Nat × List Byte) => r.kind == 0 || c.1 != r.dev
  { s with fabric := { s.fabric with peerCopies :=
      if r.kind = 0 ∧ status = 0 ∧ data.length ≤ 16 then (r.dev, r.aux, leAt r.body 1 5, data) :: copies else copies } }

/-- RESP: returns status and data; a longer read goes on until its data flits have come. -/
def takeResp (s : State) (f : Flit) : State :=
  match s.fabric.reqs.find? fun r => r.xid == f.xid && r.dev == f.src && r.answer.isNone with
  | none => s
  | some r =>
    let n := if r.kind = 1 then 0 else leAt r.body 6 1
    if f.aux ≠ 0 then answerReq s r 1 []
    else if r.kind = 0 ∧ 16 < leAt r.body 6 1 then
      { s with fabric := { s.fabric with reqs := s.fabric.reqs.map fun x => if x.xid = r.xid ∧ x.dev = r.dev then { x with resp := true } else x } }
    else answerReq s r 0 (f.body.take n)
/-- Long reads whose data are all here are answered. -/
def settleReads (s : State) : State :=
  (s.fabric.reqs.filter (·.resp)).foldl (fun s r =>
    let bs := dataFor s r.dev r.xid
    if leAt r.body 6 1 ≤ bs.length then answerReq (dropData s r.dev r.xid) r 0 bs else s) s

/-! ### Fence markers (R329) -/

/-- This device relays what `b` sends to `a` (R319): their link is down, and no lower device has links to both. -/
def relays (s : State) (a b : Nat) : Bool :=
  let up (r x : Nat) : Bool := if r = s.fabric.dev then linkUp s x else if x = s.fabric.dev then linkUp s r else otherUp s r x
  !otherUp s a b && ((List.range s.fabric.pod).find? fun r => r != a && r != b && up r a && up r b) == some s.fabric.dev
/-- A relayed store has not been acknowledged: its answer is still to come through this device, or where it comes on another path
by now, the home's port has not taken the store (R329). DEDUCED: log entry 55. -/
def relayedOut (s : State) (x : Nat × Nat × Nat) : Bool :=
  let is (o : OutFlit) : Bool := match o with
    | .ctl f => f.src == x.1 && f.dst == x.2.1 && f.xid == x.2.2 && (f.kind == 2 || f.kind == 3)
    | .data .. => false
  relays s x.1 x.2.1 || (s.fabric.sendq.any fun q => is q.2) || s.fabric.ports.any fun p => p.replay.any is
/-- A store that an FREL waits for is still outstanding: at its home, or relayed and not acknowledged. -/
def storeOut (s : State) (f : Flit) (xid : Nat) : Bool :=
  if f.dst = s.fabric.dev then
    (s.fabric.held.any fun h => h.flit.src == f.src && h.flit.xid == xid && (h.flit.kind == 2 || h.flit.kind == 3)) ||
      s.fabric.homeWaits.any fun w => w.flit.src == f.src && w.flit.xid == xid
  else s.fabric.relayed.contains (f.src, f.dst, xid)
def answerFrel (s : State) (f : Flit) : State := sendCtl s f.vf f.src 0x07 f.xid f.body f.aux
/-- FREL: answered at once, or once the stores before it are done. -/
def takeFrel (s : State) (f : Flit) : State :=
  let before := if f.dst = s.fabric.dev then
      ((s.fabric.held.takeWhile fun h => !(h.flit == f)).filter fun h => h.flit.src == f.src && (h.flit.kind == 2 || h.flit.kind == 3)).map (·.flit.xid) ++
        (s.fabric.homeWaits.filter fun w => w.flit.src == f.src).map (·.flit.xid)
    else (s.fabric.relayed.filter fun r => r.1 == f.src && r.2.1 == f.dst).map (·.2.2)
  if before.isEmpty then answerFrel s f else { s with fabric := { s.fabric with frels := s.fabric.frels ++ [(f, before)] } }
def settleFrels (s : State) : State :=
  let s := { s with fabric := { s.fabric with relayed := s.fabric.relayed.filter (relayedOut s) } }
  let now := s.fabric.frels.map fun x => (x.1, x.2.filter (storeOut s x.1))
  let s := { s with fabric := { s.fabric with frels := now.filter fun x => !x.2.isEmpty } }
  (now.filter fun x => x.2.isEmpty).foldl (fun s x => answerFrel s x.1) s
/-- FACK: one path of a release has answered. -/
def takeFack (s : State) (f : Flit) : State :=
  { s with fabric := { s.fabric with rels := s.fabric.rels.filter (·.2.2 != f.xid) } }

/-! ### Messages -/

/-- Data flits that have come for a message go to the Wharf. -/
def feedMsg (s : State) (src xid : Nat) : State :=
  let bs := dataFor s src xid
  if bs.isEmpty then s
  else
    let r := takePayload s src xid bs
    if r.1 then
      let s := dropData r.2 src xid
      match s.wharf.landings.find? fun l => l.msg.src == src && l.msg.xid == xid && l.ended.isNone with
      | some l => landOn s l.post.index
      | none => storeAll s
    else s

/-- WHDR: TAG, LEN, MSGID and EAGER (R321). None while every header slot is taken (R332). -/
def takeWhdr (s : State) (f : Flit) : Option State :=
  if !headerRoom s then none
  else
    let m : Msg := { vf := f.vf, src := f.src, tag := leAt f.body 0 4, len := leAt f.body 4 4, msgid := leAt f.body 8 4, xid := f.xid,
                     eager := leAt f.body 12 1 % 2 == 1 }
    some (feedMsg (takeHeader s m) f.src f.xid)

/-- WPULL: the BTE appends an entry for the data at the channel's tail; none while it has no room (R342). -/
def takeWpull (s : State) (f : Flit) : Option State :=
  match s.wharf.sends.find? fun x => x.handle == leAt f.body 0 4 && x.ended.isNone && x.started with
  | none => some s
  | some x =>
    let ch := (parseSend x.desc).chan
    if Config.chanEntries ≤ (chanAt s x.bay ch).entries.length then none
    else
      let e : ChanEntry := {
        kind := .data, op := s.opSeq, launch := x.launch, crew := x.crew, vf := x.vf, core := 16 * x.bay, shareBase := 0, shareSize := 0,
        flat := 0, formed := true, ref := x.index }
      some (updChan { s with opSeq := s.opSeq + 1 } x.bay ch fun c => { c with entries := c.entries ++ [e] })

/-- WDONE: ends a send, or tells a receiver that the sender's read has failed (R334, R342). -/
def takeWdone (s : State) (f : Flit) : State :=
  let id := leAt f.body 0 4
  let cls := leAt f.body 5 1
  let code := leAt f.body 6 1
  if leAt f.body 7 1 = 0 then
    match s.wharf.sends.find? fun x => x.handle == id && (parseSend x.desc).dst == f.src with
    | none => s
    | some x =>
      let s := updSend s x.index fun x => { x with acked := true }
      match x.cut with
      | some (cls, code, addr) => endSend s x.index 2 cls code addr f.aux
      | none => endSend s x.index (leAt f.body 4 1) cls code (leAt f.body 8 8) f.aux
  else
    match s.wharf.landings.find? fun l => l.msg.src == f.src && l.msg.msgid == id && l.ended.isNone && l.cut.isNone with
    | none => s
    | some l => landOn (updLanding s l.post.index fun l => { l with cut := some (f.aux, cls, code) }) l.post.index

/-! ### The peloton token (R336, R337) -/

/-- The steal queue of the device: VF and queue id; none where it takes no part. -/
def stealQueue (s : State) : Option (Nat × Nat) :=
  let p := s.pod.pelq
  let vf := fld p 23 8
  let q := p % 2 ^ 12
  if bitB p 31 && decide (0 < vf) && decide (vf ≤ 192) && decide (q < (vfAt s vf).qMax) then some (vf, q) else none
def stealCount (s : State) : Nat := match stealQueue s with
  | some (vf, q) => match readBlock s false vf q with
    | .ok b => b.count
    | .error _ => 0
  | none => 0
/-- LOAD: the logarithm of COUNT + 1, at most 15. -/
def loadOf (n : Nat) : Nat := min 15 ((n + 1).log2)

/-- The requests of a queue that came before are served first (R223). -/
def serveFirst (s : State) (vf q : Nat) : Nat → State
  | 0 => s
  | n + 1 =>
    let at_ := (s.dies.mapIdx fun i d => (i, d.wq.findIdx? fun r => !r.waiting && r.vf == vf && r.qid == q)).findSome? fun x => x.2.map fun j => (x.1, j)
    match at_ with
    | none => s
    | some (die, j) => serveFirst (serveAt s die j) vf q n

/-- Pops up to `n` entries as a thread pop would. -/
def popMany (s : State) (vf q : Nat) : Nat → List (List Byte) × State
  | 0 => ([], s)
  | n + 1 => match popEntry s vf q with
    | .got bs _ s' => let r := popMany s' vf q n; (bs :: r.1, r.2)
    | _ => ([], s)

/-- An entry with its KIND set to STEAL (R142). -/
def asSteal (bs : List Byte) : List Byte := bs.set 0 3

/-- Step 3 of R337: entries for the first device after this one that asks. -/
def shipEntries (s : State) (t : Token) : Token × State :=
  let n := s.fabric.pod
  let me := s.fabric.dev
  match stealQueue s with
  | none => (t, s)
  | some (vf, q) =>
    if stealCount s < s.pod.high then (t, s)
    else match ((List.range (n - 1)).map fun i => (me + 1 + i) % n).find? fun d => t.reqs.getD d false with
      | none => (t, s)
      | some d =>
        let s := serveFirst s vf q ((s.dies.map fun k => k.wq.length).sum)
        let h := queueClear s false vf q
        let s := h.2
        if !h.1 || queueBusy s vf q || (waitingPop s vf q).isSome then ({ t with reqs := t.reqs.set d false }, s)
        else
          let r := popMany s vf q s.pod.ship
          ({ t with reqs := t.reqs.set d false },
            { r.2 with pod := { r.2.pod with shipped := r.2.pod.shipped ++ r.1.map fun e => (d, asSteal e) } })

/-- What the device does while it holds the token. -/
def holdToken (s : State) (t : Token) : State :=
  let me := s.fabric.dev
  let t := if me = 0 then { t with vf := fld s.pod.pelq 23 8 } else t
  let n := stealCount s
  let t := { t with
    loads := t.loads.set me (loadOf n)
    reqs := t.reqs.set me ((stealQueue s).isSome && fld s.pod.pelq 23 8 == t.vf && decide (n < s.pod.low)) }
  let r := if fld s.pod.pelq 23 8 = t.vf then shipEntries s t else (t, s)
  { r.2 with pod := { r.2.pod with token := some r.1, lastToken := r.2.cycle } }

/-- The token's body: steal VF, LOADs, REQ bits. -/
def tokenBody (t : Token) : List Byte :=
  bytesOfNat 1 t.vf ++ bytesOfNat 8 (((List.range 16).map fun i => t.loads.getD i 0 % 16 * 16 ^ i).sum) ++
    bytesOfNat 2 (((List.range 16).map fun i => if t.reqs.getD i false then 2 ^ i else 0).sum)
def tokenOf (f : Flit) : Token :=
  { vf := leAt f.body 0 1, loads := (List.range 16).map fun i => fld (leAt f.body 1 8) (4 * i) 4,
    reqs := (List.range 16).map fun i => bitB (leAt f.body 9 2) i }
def sendToken (s : State) (t : Token) : State :=
  let x := newXid s
  sendCtl x.2 0 ((s.fabric.dev + 1) % s.fabric.pod) 0x0B x.1 (tokenBody t) 0

/-! ### Taking flits from their slots -/

/-- Bytes that follow a control flit in data flits (R321): those of a store, the operands that its BODY does not hold, a
message. -/
def dataAfter (f : Flit) : Nat := if f.kind = 8 then leAt f.body 4 4 else dataNeed f

/-- A relay forwards a flit, and counts the stores that are not yet acknowledged (R319, R329). -/
def forward (s : State) (f : Flit) : State :=
  let fb := s.fabric
  let relayed := if f.kind = 2 ∨ f.kind = 3 then fb.relayed ++ [(f.src, f.dst, f.xid)]
    else if f.kind = 4 then fb.relayed.filter (· != (f.dst, f.src, f.xid)) else fb.relayed
  let routes := if dataAfter f = 0 then fb.routes else fb.routes ++ [(f.src, f.xid, f.dst, dataAfter f)]
  sendFlit { s with fabric := { fb with relayed := relayed, routes := routes } } f.dst (.ctl f)

/-- The consumer of a flit takes it; none where it stays in its slot. DESIGN CHOICE: log entry 26. -/
def consume (s : State) (f : Flit) : Option State :=
  if f.dst ≠ s.fabric.dev then some (if f.kind = 6 then takeFrel s f else forward s f)
  else match f.kind with
    | 1 => serveRead s f
    | 2 | 3 => serveWrite s f
    | 4 => some (takeResp s f)
    | 5 => some (takeInval s f)
    | 6 => some (takeFrel s f)
    | 7 => some (takeFack s f)
    | 8 => takeWhdr s f
    | 9 => takeWpull s f
    | 10 => some (takeWdone s f)
    | 11 => some (holdToken s (tokenOf f))
    | 13 => some (takeInvack s f)
    | _ => some s

/-- Every held flit that its consumer can take now goes, in order of arrival. -/
def runHeldOnce (s : State) : State :=
  s.fabric.held.foldl (fun s h => match consume s h.flit with
    | some s => { s with fabric := { s.fabric with held := s.fabric.held.erase h } }
    | none => s) s
/-- Bytes of a payload have passed; one that has passed whole is forgotten. -/
def countRoute (src xid n : Nat) (rs : List (Nat × Nat × Nat × Nat)) : List (Nat × Nat × Nat × Nat) :=
  (rs.map fun r => if r.1 = src ∧ r.2.1 = xid then (r.1, r.2.1, r.2.2.1, r.2.2.2 - n) else r).filter fun r => r.2.2.2 != 0
def countSink (src xid n : Nat) (rs : List (Nat × Nat × Nat)) : List (Nat × Nat × Nat) :=
  (rs.map fun r => if r.1 = src ∧ r.2.1 = xid then (r.1, r.2.1, r.2.2 - n) else r).filter fun r => r.2.2 != 0
/-- Data flits whose control flit this device has forwarded follow it. -/
def forwardData (s : State) : State :=
  s.fabric.heldData.foldl (fun s h =>
    let f := h.flit
    if f.src = s.fabric.dev then s
    else match s.fabric.routes.find? fun r => r.1 == f.src && r.2.1 == f.xid with
      | some r => sendFlit { s with fabric := { s.fabric with
          heldData := s.fabric.heldData.erase h, routes := countRoute f.src f.xid f.payload.length s.fabric.routes } }
          r.2.2.1 (.data f r.2.2.1)
      | none => s) s
/-- A control flit with data opens its transaction: what was left of an older one of the same source and id is forgotten. -/
def openXid (s : State) (f : Flit) : State :=
  if dataAfter f = 0 then s
  else { s with fabric := { s.fabric with
    routes := s.fabric.routes.filter fun r => !(r.1 == f.src && r.2.1 == f.xid)
    sinks := s.fabric.sinks.filter fun r => !(r.1 == f.src && r.2.1 == f.xid) } }
/-- The messages for which data flits stand in their slots take them. -/
def feedAll (s : State) : State :=
  (s.fabric.heldData.map fun h => (h.flit.src, h.flit.xid)).eraseDups.foldl (fun s k => feedMsg s k.1 k.2) s
/-- Data flits that nobody wants any more leave their slots (R323). -/
def dropSunk (s : State) : State :=
  s.fabric.heldData.foldl (fun s h =>
    let f := h.flit
    if s.fabric.sinks.any fun r => r.1 == f.src && r.2.1 == f.xid then
      { s with fabric := { s.fabric with
          heldData := s.fabric.heldData.erase h, sinks := countSink f.src f.xid f.payload.length s.fabric.sinks } }
    else s) s
/-- The fabric goes on as far as it can without a further flit. DESIGN CHOICE: log entry 50. -/
def settleFabric (s0 : State) : State :=
  let s := dropSunk (storeAll s0)
  if s.fabric.held.isEmpty && s.fabric.heldData.isEmpty && s.fabric.frels.isEmpty && s.fabric.sendq.isEmpty then s
  else flush (settleFrels (forwardData (feedAll (settleReads (runHeldOnce (runHeldOnce s))))))

/-! ### The events -/

/-- A control flit arrives on its port: it takes a slot, or is refused (R323, R324). -/
def arriveFlit (s : State) (kind : Nat) (f0 : Flit) : Out :=
  let f := { f0 with kind := kind }
  live s fun s => if !portUp s f.port then s
    else if !portTakes s f.port f.vf f.lseq then passOver s f.port f.lseq
    else match ctlSlot s f.port f.vf with
      | none => refuse s f.port f.vf f.lseq
      | some pool =>
        let s := openXid (taken s f.port f.vf f.lseq) f
        settleFabric { s with fabric := { s.fabric with held := s.fabric.held ++ [{ flit := f, pool := pool }] } }

/-- R328. -/
def execRdreq (f : Flit) (s : State) : Out := arriveFlit s 1 f
/-- R328. -/
def execWrreq (f : Flit) (s : State) : Out := arriveFlit s 2 f
/-- R328. -/
def execAtomreq (f : Flit) (s : State) : Out := arriveFlit s 3 f
/-- R328. -/
def execResp (f : Flit) (s : State) : Out := arriveFlit s 4 f
/-- R328. -/
def execInval (f : Flit) (s : State) : Out := arriveFlit s 5 f
/-- R329. -/
def execFrel (f : Flit) (s : State) : Out := arriveFlit s 6 f
/-- R329. -/
def execFack (f : Flit) (s : State) : Out := arriveFlit s 7 f
/-- R331, R332. -/
def execWhdr (f : Flit) (s : State) : Out := arriveFlit s 8 f
/-- R342. -/
def execWpull (f : Flit) (s : State) : Out := arriveFlit s 9 f
/-- R334, R342. -/
def execWdone (f : Flit) (s : State) : Out := arriveFlit s 10 f
/-- R337. DEDUCED: log entry 56. -/
def execToken (f : Flit) (s : State) : Out := arriveFlit s 11 f
/-- R328. -/
def execInvack (f : Flit) (s : State) : Out := arriveFlit s 13 f

/-- R322. -/
def execDataFlit (f : DataFlit) (s : State) : Out :=
  live s fun s => if !portUp s f.port then s
    else if !portTakes s f.port f.vf f.lseq then passOver s f.port f.lseq
    else match dataSlot s f.port f.vf with
      | none => refuse s f.port f.vf f.lseq
      | some pool =>
        let s := taken s f.port f.vf f.lseq
        settleFabric { s with fabric := { s.fabric with heldData := s.fabric.heldData ++ [{ flit := f, pool := pool }] } }

/-- The flits of a replay buffer after the one with an LSEQ, and those from it on. -/
def afterSeq (n : Nat) : List OutFlit → Option (List OutFlit)
  | [] => none
  | o :: os => if o.lseq = n then some os else afterSeq n os

/-- R324: an acknowledgement frees every flit of the port up to its LSEQ. -/
def execLack (f : Flit) (s : State) : Out :=
  live s fun s =>
    let p := portAt s f.port
    if !portUp s f.port then s
    else match afterSeq f.aux p.replay with
      | none => s
      | some rest => flush (updPort s f.port fun p => { p with replay := rest })

/-- R324: resends the flits of a function, or of all (0xFF), from an LSEQ on. -/
def execLnak (f : Flit) (s : State) : Out :=
  live s fun s =>
    let p := portAt s f.port
    if !portUp s f.port then s
    else
      let from_ := p.replay.dropWhile fun o => o.lseq != f.aux
      { s with fabric := { s.fabric with outbox := s.fabric.outbox ++ from_.filter fun o => f.vf == 0xFF || o.vf == f.vf } }

/-- R321, R324: an unknown TYPE is refused with its function, a CRC error (0xFF) with none. -/
def execInvalidFlit (port lseq vf : Nat) (s : State) : Out :=
  live s fun s => if !portUp s port then s
    else if vf = 0xFF then
      (if (portAt s port).await.any fun m => laterSeq lseq m != m then passOver s port lseq
      else linkFlit (updPort (passOver s port lseq) port fun p => { p with await := some lseq }) port 0x0E 0xFF lseq)
    else if !portTakes s port vf lseq then passOver s port lseq
    else refuse s port vf lseq

/-- A link changes (R319, R320). Ports 0 to 14 are this device's; 256 + 16 a + b names the link of devices a and b. A
link that goes down gives back what was not acknowledged, to go first on the new path. -/
def linkChange (s : State) (port : Nat) (up : Bool) : State :=
  if 15 ≤ port then
    let pair := (port / 16 % 16, port % 16)
    let down := s.fabric.down.filter (· != pair)
    settleFabric (notePaths (flush { s with fabric := { s.fabric with down := if up then down else pair :: down } }))
  else
    let s := if up then s else takeBack s port
    notePaths (flush (updPort s port fun p => { p with up := up }))

/-- R319, R320. DEDUCED: log entry 54. -/
def execLinkStateChange (port : Nat) (up : Bool) (s : State) : Out := live s fun s => linkChange s port up

/-- What has waited 2^24 cycles for a path to a device is given up (R319): PEERLOST, DSTLOST, SRCLOST. The wait begins with
the loss of the last path, or with what is asked or sent after it. -/
def pathTimeout (s : State) (dev : Nat) : State :=
  if (hopTo s dev).isSome then s
  else
    let from_ (t : Nat) : Nat := max t (((s.fabric.lost.find? (·.1 == dev)).map (·.2)).getD 0)
    let reqs := s.fabric.reqs.filter fun r => r.dev == dev && r.answer.isNone
    let sends := s.wharf.sends.filter fun x => x.started && x.ended.isNone && (parseSend x.desc).dst == dev
    let pulls := s.wharf.landings.filter fun l => l.msg.src == dev && l.ended.isNone && !l.msg.eager && decide (l.msg.payload.length < l.msg.len)
    match (reqs.map (from_ ·.since) ++ sends.map (from_ ·.since) ++ pulls.map (from_ ·.since)).min? with
    | none => s
    | some t0 =>
      let s := { s with cycle := max s.cycle (t0 + Config.pathTimeout) }
      let due (t : Nat) : Bool := decide (from_ t + Config.pathTimeout ≤ s.cycle)
      let gone := (reqs.filter fun r => due r.since).map (·.xid)
      let s := { s with fabric := { s.fabric with
        reqs := s.fabric.reqs.map fun r => if r.dev = dev ∧ gone.contains r.xid ∧ r.answer.isNone then { r with answer := some (2, []) } else r
        sendq := s.fabric.sendq.filter fun q => !(q.1 == dev && q.2.src == s.fabric.dev && match q.2 with
          | .ctl f => decide (f.kind ≤ 3) && gone.contains f.xid
          | .data f _ => gone.contains f.xid) } }
      let s := (sends.filter fun x => due x.since).foldl (fun s x => endSend s x.index 4 0 0 0 0) s
      (pulls.filter fun l => due l.since).foldl (fun s l =>
        landingDone (updLanding (dropComing s l.msg l.sent) l.post.index fun l => { l with ended := some (4, 0, 0, 0), acked := true }) l.post.index) s

/-- R319. -/
def execPeerPathTimeout (dev : Nat) (s : State) : Out := live s fun s => pathTimeout s dev

/-- R335. -/
def execWharfLandingComplete (i : Nat) (s : State) : Out := live s fun s => landingAt s i

/-- R337: the 50-cycle hold ends. -/
def execTokenPass (s : State) : Out :=
  live s fun s => match s.pod.token with
    | none => s
    | some t => sendToken { s with cycle := max s.cycle (s.pod.lastToken + 50), pod := { s.pod with token := none } } t

/-- R337: device 0 sends a new token when it has held none for 40,000 cycles. -/
def execTokenTimeout (s : State) : Out :=
  live s fun s => if s.fabric.dev ≠ 0 ∨ s.pod.token.isSome then s
    else
      let c := max s.cycle (s.pod.lastToken + 40000)
      sendToken { s with cycle := c, pod := { s.pod with lastToken := c } }
        { vf := fld s.pod.pelq 23 8, loads := List.replicate 16 0, reqs := List.replicate 16 false }

/-- One STEAL entry is pushed, or goes back where it came from. -/
def pushSteal (s : State) (src : Nat) (e : List Byte) : State :=
  let h := match stealQueue s with
    | some (vf, q) => queueClear s true vf q
    | none => (true, s)
  let s := h.2
  let back : State := { s with pod := { s.pod with shipped := s.pod.shipped ++ [(src, e)] } }
  if !h.1 then back
  else match stealQueue s with
  | none => back
  | some (vf, q) => match queueBlock s true vf q with
    | .error _ => back
    | .ok b =>
      if b.closed || decide (2 ^ b.lg ≤ b.count) then back
      else match pushEntry s vf b e with
        | .ok s => wakePops s vf q
        | .error _ => back

/-- R337: shipped entries are pushed in order of arrival; those that find no room return. DEDUCED: log entry 56. -/
def execStealEntriesArrive (src : Nat) (es : List (List Byte)) (s : State) : Out :=
  live s fun s => es.foldl (fun s e => pushSteal s src (asSteal e)) (match stealQueue s with
    | some (vf, q) => serveFirst s vf q ((s.dies.map fun k => k.wq.length).sum)
    | none => s)

end Sys2Proof.Machine
end

