-- ==== Sys2Proof/Machine/Integer.lean ====
section
/-! DEFINITION. Meanings of the uniform and vector integer words, compares, immediates, selects and predicate logic
(R59 to R72). Every word reads its operands from step 1 of R13 (`old`) and writes only where R59 and R255 let it. -/

namespace Sys2Proof.Machine

/-- s[D] := f(s[A], s[B]), once per issue (R61). -/
def sop2 (s : State) (d a b : Nat) (f : Word → Word → Word) : State := wrS s d (f (rdS s.old a) (rdS s.old b))
/-- s[D] := f(s[A]) (R62). -/
def sop1 (s : State) (d a : Nat) (f : Word → Word) : State := wrS s d (f (rdS s.old a))
/-- v[D][l] := f(v[A][l], b) in each lane (R66). -/
def vop2 (s : State) (u : Bool) (d a b : Nat) (f : Word → Word → Word) : State :=
  wrV s d fun l => f (rdV s.old a l) (opB s u b l)
/-- v[D][l] := f(v[D][l], v[A][l], b): the words that also read D (R67). -/
def vop3 (s : State) (u : Bool) (d a b : Nat) (f : Word → Word → Word → Word) : State :=
  wrV s d fun l => f (rdV s.old d l) (rdV s.old a l) (opB s u b l)
/-- v[D][l] := f(v[A][l]) (R70). -/
def vop1 (s : State) (d a : Nat) (f : Word → Word) : State := wrV s d fun l => f (rdV s.old a l)
/-- p[D][l] := f(p[A][l], p[B][l]) (R72). -/
def pop2 (s : State) (d a b : Nat) (f : Bool → Bool → Bool) : State :=
  wrP s d fun l => f (rdP s.old a l) (rdP s.old b l)

/-- R61. -/
def execSadd (d a b : Nat) (s : State) : Out :=
  issue (.sadd d a b) s fun s => sop2 s d a b (· + ·)

/-- R61. -/
def execSsub (d a b : Nat) (s : State) : Out :=
  issue (.ssub d a b) s fun s => sop2 s d a b (· - ·)

/-- R61. -/
def execSmul (d a b : Nat) (s : State) : Out :=
  issue (.smul d a b) s fun s => sop2 s d a b (· * ·)

/-- R61. -/
def execSmulh (d a b : Nat) (s : State) : Out :=
  issue (.smulh d a b) s fun s => sop2 s d a b mulHS

/-- R61. -/
def execSmulhu (d a b : Nat) (s : State) : Out :=
  issue (.smulhu d a b) s fun s => sop2 s d a b mulHU

/-- R61. -/
def execSand (d a b : Nat) (s : State) : Out :=
  issue (.sand d a b) s fun s => sop2 s d a b (· &&& ·)

/-- R61. -/
def execSor (d a b : Nat) (s : State) : Out :=
  issue (.sor d a b) s fun s => sop2 s d a b (· ||| ·)

/-- R61. -/
def execSxor (d a b : Nat) (s : State) : Out :=
  issue (.sxor d a b) s fun s => sop2 s d a b (· ^^^ ·)

/-- R61. -/
def execSshl (d a b : Nat) (s : State) : Out :=
  issue (.sshl d a b) s fun s => sop2 s d a b shlW

/-- R61. -/
def execSshr (d a b : Nat) (s : State) : Out :=
  issue (.sshr d a b) s fun s => sop2 s d a b shrW

/-- R61. -/
def execSsra (d a b : Nat) (s : State) : Out :=
  issue (.ssra d a b) s fun s => sop2 s d a b sraW

/-- R61. -/
def execSmin (d a b : Nat) (s : State) : Out :=
  issue (.smin d a b) s fun s => sop2 s d a b minS

/-- R61. -/
def execSmax (d a b : Nat) (s : State) : Out :=
  issue (.smax d a b) s fun s => sop2 s d a b maxS

/-- R61. -/
def execSminu (d a b : Nat) (s : State) : Out :=
  issue (.sminu d a b) s fun s => sop2 s d a b minU

/-- R61. -/
def execSmaxu (d a b : Nat) (s : State) : Out :=
  issue (.smaxu d a b) s fun s => sop2 s d a b maxU

/-- R61; B is not read. -/
def execSmov (d a b : Nat) (s : State) : Out :=
  issue (.smov d a b) s fun s => sop1 s d a fun x => x

/-- R62; B is not read. -/
def execSclz (d a b : Nat) (s : State) : Out :=
  issue (.sclz d a b) s fun s => sop1 s d a clzW

/-- R62; B is not read. -/
def execSpopc (d a b : Nat) (s : State) : Out :=
  issue (.spopc d a b) s fun s => sop1 s d a popcW

/-- R62; B is not read. -/
def execSbrev (d a b : Nat) (s : State) : Out :=
  issue (.sbrev d a b) s fun s => sop1 s d a brevW

/-- R62: extract. -/
def execSext (d a b : Nat) (s : State) : Out :=
  issue (.sext d a b) s fun s => sop2 s d a b extractW

/-- R62: insert, reads D. -/
def execSins (d a b : Nat) (s : State) : Out :=
  issue (.sins d a b) s fun s => wrS s d (insertW (rdS s.old d) (rdS s.old a) (rdS s.old b))

/-- R62: select by the old s[D]. -/
def execSsel (d a b : Nat) (s : State) : Out :=
  issue (.ssel d a b) s fun s => wrS s d (if rdS s.old d ≠ 0 then rdS s.old a else rdS s.old b)

/-- R63: one result into every lane. -/
def execScmp (cc : Cond) (d a b : Nat) (s : State) : Out :=
  issue (.scmp cc d a b) s fun s => wrP s d fun _ => condW cc (rdS s.old a) (rdS s.old b)

/-- R64. -/
def execSaddi (d a imm : Nat) (s : State) : Out :=
  issue (.saddi d a imm) s fun s => wrS s d (rdS s.old a + imm11 imm)

/-- R65. -/
def execSli (hi : Bool) (d imm : Nat) (s : State) : Out :=
  issue (.sli hi d imm) s fun s => wrS s d (immH hi imm)

/-- R65: the other half is kept. -/
def execSlik (hi : Bool) (d imm : Nat) (s : State) : Out :=
  issue (.slik hi d imm) s fun s => wrS s d (likW hi (rdS s.old d) imm)

/-- R66. -/
def execVadd (u : Bool) (d a b : Nat) (s : State) : Out :=
  issue (.vadd u d a b) s fun s => vop2 s u d a b (· + ·)

/-- R66. -/
def execVsub (u : Bool) (d a b : Nat) (s : State) : Out :=
  issue (.vsub u d a b) s fun s => vop2 s u d a b (· - ·)

/-- R66. -/
def execVmul (u : Bool) (d a b : Nat) (s : State) : Out :=
  issue (.vmul u d a b) s fun s => vop2 s u d a b (· * ·)

/-- R66. -/
def execVmulh (u : Bool) (d a b : Nat) (s : State) : Out :=
  issue (.vmulh u d a b) s fun s => vop2 s u d a b mulHS

/-- R66. -/
def execVmulhu (u : Bool) (d a b : Nat) (s : State) : Out :=
  issue (.vmulhu u d a b) s fun s => vop2 s u d a b mulHU

/-- R66. -/
def execVand (u : Bool) (d a b : Nat) (s : State) : Out :=
  issue (.vand u d a b) s fun s => vop2 s u d a b (· &&& ·)

/-- R66. -/
def execVor (u : Bool) (d a b : Nat) (s : State) : Out :=
  issue (.vor u d a b) s fun s => vop2 s u d a b (· ||| ·)

/-- R66. -/
def execVxor (u : Bool) (d a b : Nat) (s : State) : Out :=
  issue (.vxor u d a b) s fun s => vop2 s u d a b (· ^^^ ·)

/-- R66. -/
def execVshl (u : Bool) (d a b : Nat) (s : State) : Out :=
  issue (.vshl u d a b) s fun s => vop2 s u d a b shlW

/-- R66. -/
def execVshr (u : Bool) (d a b : Nat) (s : State) : Out :=
  issue (.vshr u d a b) s fun s => vop2 s u d a b shrW

/-- R66. -/
def execVsra (u : Bool) (d a b : Nat) (s : State) : Out :=
  issue (.vsra u d a b) s fun s => vop2 s u d a b sraW

/-- R66. -/
def execVmin (u : Bool) (d a b : Nat) (s : State) : Out :=
  issue (.vmin u d a b) s fun s => vop2 s u d a b minS

/-- R66. -/
def execVmax (u : Bool) (d a b : Nat) (s : State) : Out :=
  issue (.vmax u d a b) s fun s => vop2 s u d a b maxS

/-- R66. -/
def execVminu (u : Bool) (d a b : Nat) (s : State) : Out :=
  issue (.vminu u d a b) s fun s => vop2 s u d a b minU

/-- R66. -/
def execVmaxu (u : Bool) (d a b : Nat) (s : State) : Out :=
  issue (.vmaxu u d a b) s fun s => vop2 s u d a b maxU

/-- R66. -/
def execVaddmin (u : Bool) (d a b : Nat) (s : State) : Out :=
  issue (.vaddmin u d a b) s fun s => vop2 s u d a b addMinW

/-- R67. -/
def execVmad (u : Bool) (d a b : Nat) (s : State) : Out :=
  issue (.vmad u d a b) s fun s => vop3 s u d a b fun x y z => y * z + x

/-- R67. -/
def execVaddsat (u : Bool) (d a b : Nat) (s : State) : Out :=
  issue (.vaddsat u d a b) s fun s => vop2 s u d a b addSatW

/-- R67. -/
def execVsubsat (u : Bool) (d a b : Nat) (s : State) : Out :=
  issue (.vsubsat u d a b) s fun s => vop2 s u d a b subSatW

/-- R67. -/
def execVabsdiff (u : Bool) (d a b : Nat) (s : State) : Out :=
  issue (.vabsdiff u d a b) s fun s => vop2 s u d a b absDiffW

/-- R67. -/
def execVext (u : Bool) (d a b : Nat) (s : State) : Out :=
  issue (.vext u d a b) s fun s => vop2 s u d a b extractW

/-- R67. -/
def execVins (u : Bool) (d a b : Nat) (s : State) : Out :=
  issue (.vins u d a b) s fun s => vop3 s u d a b insertW

/-- R68. -/
def execVmorton (u : Bool) (d a b : Nat) (s : State) : Out :=
  issue (.vmorton u d a b) s fun s => vop2 s u d a b mortonW

/-- R69. -/
def execVcellh (u : Bool) (d a b : Nat) (s : State) : Out :=
  issue (.vcellh u d a b) s fun s => vop2 s u d a b cellhW

/-- R70. -/
def execVnot (d a : Nat) (s : State) : Out :=
  issue (.vnot d a) s fun s => vop1 s d a (fun x => ~~~x)

/-- R70. -/
def execVneg (d a : Nat) (s : State) : Out :=
  issue (.vneg d a) s fun s => vop1 s d a (fun x => -x)

/-- R70. -/
def execVabs (d a : Nat) (s : State) : Out :=
  issue (.vabs d a) s fun s => vop1 s d a absW

/-- R70. -/
def execVclz (d a : Nat) (s : State) : Out :=
  issue (.vclz d a) s fun s => vop1 s d a clzW

/-- R70. -/
def execVpopc (d a : Nat) (s : State) : Out :=
  issue (.vpopc d a) s fun s => vop1 s d a popcW

/-- R70. -/
def execVbrev (d a : Nat) (s : State) : Out :=
  issue (.vbrev d a) s fun s => vop1 s d a brevW

/-- R70. -/
def execVmov (d a : Nat) (s : State) : Out :=
  issue (.vmov d a) s fun s => vop1 s d a (fun x => x)

/-- R70. -/
def execVbcastS (d a : Nat) (s : State) : Out :=
  issue (.vbcastS d a) s fun s => wrV s d fun _ => rdS s.old a

/-- R63. -/
def execVcmp (cc : Cond) (d a b : Nat) (s : State) : Out :=
  issue (.vcmp cc d a b) s fun s => wrP s d fun l => condW cc (rdV s.old a l) (rdV s.old b l)

/-- R64. -/
def execVaddi (d a imm : Nat) (s : State) : Out :=
  issue (.vaddi d a imm) s fun s => vop1 s d a (· + imm11 imm)

/-- R65. -/
def execVli (hi : Bool) (d imm : Nat) (s : State) : Out :=
  issue (.vli hi d imm) s fun s => wrV s d fun _ => immH hi imm

/-- R71. -/
def execVsel (u : Bool) (n d a b : Nat) (s : State) : Out :=
  issue (.vsel u n d a b) s fun s => wrV s d fun l => if rdP s.old n l then rdV s.old a l else opB s u b l

/-- R72. -/
def execPand (d a b : Nat) (s : State) : Out :=
  issue (.pand d a b) s fun s => pop2 s d a b (· && ·)

/-- R72. -/
def execPor (d a b : Nat) (s : State) : Out :=
  issue (.por d a b) s fun s => pop2 s d a b (· || ·)

/-- R72. -/
def execPxor (d a b : Nat) (s : State) : Out :=
  issue (.pxor d a b) s fun s => pop2 s d a b (· != ·)

/-- R72. -/
def execPandn (d a b : Nat) (s : State) : Out :=
  issue (.pandn d a b) s fun s => pop2 s d a b (fun x y => x && !y)

/-- R72. -/
def execPnot (d a : Nat) (s : State) : Out :=
  issue (.pnot d a) s fun s => wrP s d fun l => !rdP s.old a l

/-- R72. -/
def execPmov (d a : Nat) (s : State) : Out :=
  issue (.pmov d a) s fun s => wrP s d fun l => rdP s.old a l

end Sys2Proof.Machine
end

