-- ==== Sys2Proof/Machine/Repeat.lean ====
section
/-! DEFINITION. The repeats of a repeated word (R18 to R21, R107, R265): the words a prefix may repeat, the issue of one
repeat and the end of a repeat. -/

namespace Sys2Proof.Machine

/-- The meaning of a word that may be repeated (R19): formats A, I, L, U and M but for CTL and SAFE. Any other word
kills the warp. -/
def dispatchRepeatable (i : Instr) (s : State) : Out :=
  match i with
  | .sadd d a b => execSadd d a b s
  | .ssub d a b => execSsub d a b s
  | .smul d a b => execSmul d a b s
  | .smulh d a b => execSmulh d a b s
  | .smulhu d a b => execSmulhu d a b s
  | .sand d a b => execSand d a b s
  | .sor d a b => execSor d a b s
  | .sxor d a b => execSxor d a b s
  | .sshl d a b => execSshl d a b s
  | .sshr d a b => execSshr d a b s
  | .ssra d a b => execSsra d a b s
  | .smin d a b => execSmin d a b s
  | .smax d a b => execSmax d a b s
  | .sminu d a b => execSminu d a b s
  | .smaxu d a b => execSmaxu d a b s
  | .smov d a b => execSmov d a b s
  | .sclz d a b => execSclz d a b s
  | .spopc d a b => execSpopc d a b s
  | .sbrev d a b => execSbrev d a b s
  | .sext d a b => execSext d a b s
  | .sins d a b => execSins d a b s
  | .ssel d a b => execSsel d a b s
  | .scmp cc d a b => execScmp cc d a b s
  | .saddi d a imm => execSaddi d a imm s
  | .sli hi d imm => execSli hi d imm s
  | .slik hi d imm => execSlik hi d imm s
  | .vadd u d a b => execVadd u d a b s
  | .vsub u d a b => execVsub u d a b s
  | .vmul u d a b => execVmul u d a b s
  | .vmulh u d a b => execVmulh u d a b s
  | .vmulhu u d a b => execVmulhu u d a b s
  | .vand u d a b => execVand u d a b s
  | .vor u d a b => execVor u d a b s
  | .vxor u d a b => execVxor u d a b s
  | .vshl u d a b => execVshl u d a b s
  | .vshr u d a b => execVshr u d a b s
  | .vsra u d a b => execVsra u d a b s
  | .vmin u d a b => execVmin u d a b s
  | .vmax u d a b => execVmax u d a b s
  | .vminu u d a b => execVminu u d a b s
  | .vmaxu u d a b => execVmaxu u d a b s
  | .vaddmin u d a b => execVaddmin u d a b s
  | .vmad u d a b => execVmad u d a b s
  | .vaddsat u d a b => execVaddsat u d a b s
  | .vsubsat u d a b => execVsubsat u d a b s
  | .vabsdiff u d a b => execVabsdiff u d a b s
  | .vext u d a b => execVext u d a b s
  | .vins u d a b => execVins u d a b s
  | .vmorton u d a b => execVmorton u d a b s
  | .vcellh u d a b => execVcellh u d a b s
  | .vnot d a => execVnot d a s
  | .vneg d a => execVneg d a s
  | .vabs d a => execVabs d a s
  | .vclz d a => execVclz d a s
  | .vpopc d a => execVpopc d a s
  | .vbrev d a => execVbrev d a s
  | .vmov d a => execVmov d a s
  | .vbcastS d a => execVbcastS d a s
  | .vcmp cc d a b => execVcmp cc d a b s
  | .vaddi d a imm => execVaddi d a imm s
  | .vli hi d imm => execVli hi d imm s
  | .vsel u n d a b => execVsel u n d a b s
  | .pand d a b => execPand d a b s
  | .por d a b => execPor d a b s
  | .pxor d a b => execPxor d a b s
  | .pandn d a b => execPandn d a b s
  | .pnot d a => execPnot d a s
  | .pmov d a => execPmov d a s
  | .vfadd u d a b => execVfadd u d a b s
  | .vfsub u d a b => execVfsub u d a b s
  | .vfmul u d a b => execVfmul u d a b s
  | .vffma u d a b => execVffma u d a b s
  | .vfmin u d a b => execVfmin u d a b s
  | .vfmax u d a b => execVfmax u d a b s
  | .vfcpys u d a b => execVfcpys u d a b s
  | .vfabsd u d a b => execVfabsd u d a b s
  | .vdadd d a b => execVdadd d a b s
  | .vdsub d a b => execVdsub d a b s
  | .vdmul d a b => execVdmul d a b s
  | .vdfma d a b => execVdfma d a b s
  | .vdmin d a b => execVdmin d a b s
  | .vdmax d a b => execVdmax d a b s
  | .vhadd2 f d a b => execVhadd2 f d a b s
  | .vhsub2 f d a b => execVhsub2 f d a b s
  | .vhmul2 f d a b => execVhmul2 f d a b s
  | .vhfma2 f d a b => execVhfma2 f d a b s
  | .vfcmp cc d a b => execVfcmp cc d a b s
  | .vfcmpF64 cc d a b => execVfcmpF64 cc d a b s
  | .vcvtF32F64 d a sat rm => execVcvtF32F64 d a sat rm s
  | .vcvtF64F32 d a => execVcvtF64F32 d a s
  | .vcvtF32I32 d a sat rm => execVcvtF32I32 d a sat rm s
  | .vcvtF32O32 d a sat rm => execVcvtF32O32 d a sat rm s
  | .vcvtI32F32 d a rm => execVcvtI32F32 d a rm s
  | .vcvtO32F32 d a rm => execVcvtO32F32 d a rm s
  | .vcvtF64I32 d a => execVcvtF64I32 d a s
  | .vcvtI32F64 d a rm => execVcvtI32F64 d a rm s
  | .vcvtF19F32 d a sat rm => execVcvtF19F32 d a sat rm s
  | .vcvtBf16x2F32 d a sat rm => execVcvtBf16x2F32 d a sat rm s
  | .vcvtF16x2F32 d a sat rm => execVcvtF16x2F32 d a sat rm s
  | .vcvtF32x2F16x2 d a => execVcvtF32x2F16x2 d a s
  | .vcvtE4m3x4F32 d a sat rm => execVcvtE4m3x4F32 d a sat rm s
  | .vcvtE5m2x4F32 d a sat rm => execVcvtE5m2x4F32 d a sat rm s
  | .vcvtI16x2F32 d a rm => execVcvtI16x2F32 d a rm s
  | .vcvtO8x4F32 d a rm => execVcvtO8x4F32 d a rm s
  | .vfrcp la d a => execVfrcp la d a s
  | .vfrsq la d a => execVfrsq la d a s
  | .vfsqrt la d a => execVfsqrt la d a s
  | .vfexp2 la d a => execVfexp2 la d a s
  | .vflog2 la d a => execVflog2 la d a s
  | .vfsin la d a => execVfsin la d a s
  | .vfcos la d a => execVfcos la d a s
  | .vftanh la d a => execVftanh la d a s
  | .ret a => execRet a s
  | .brx a => execBrx a s
  | .exit  => execExit  s
  | .nop  => execNop  s
  | .yieldL  => execYieldL  s
  | .bar n => execBar n s
  | .barq n => execBarq n s
  | .ld la d a v sx poll sz => execLd la d a v sx poll sz s
  | .st la d a v sz => execSt la d a v sz s
  | .ldt la d a v sz hs => execLdt la d a v sz hs s
  | .stt la d a v sz hs => execStt la d a v sz hs s
  | .lds la d a v sx sz => execLds la d a v sx sz s
  | .sts la d a v sz => execSts la d a v sz s
  | .ldw la d a v sx sz => execLdw la d a v sx sz s
  | .atom la d a v dbl op => execAtom la d a v dbl op s
  | .atomf la d a v op => execAtomf la d a v op s
  | .cas la d a v dbl => execCas la d a v dbl s
  | .satom la d a v dbl op => execSatom la d a v dbl op s
  | .satomCas la d a v dbl => execSatomCas la d a v dbl s
  | .prefetch a v => execPrefetch a v s
  | .discard a v => execDiscard a v s
  | .writeback a v => execWriteback a v s
  | .tdesc la d a => execTdesc la d a s
  | .binit la d a sp => execBinit la d a sp s
  | .barrive la d a sp => execBarrive la d a sp s
  | .bwait la d a sp => execBwait la d a sp s
  | .bquery la d a sp => execBquery la d a sp s
  | _ => .next (kill .repeated s)

/-! ### The lanes of a repeat -/

/-- Number of repeats and index of the next one, as `%rep` holds them (R21). -/
def repCnt (w : Warp) : Nat := repCount (fld w.rep.toNat 19 6)
def repK (w : Warp) : Nat := w.rep.toNat % 64
/-- V of `%rep`. -/
def repV (w : Warp) : Bool := w.rep.getLsbD 31

/-- A lane that takes part in the repeat: one that began it, or has joined it (R265). -/
def Lane.joined (ln : Lane) : Bool := ln.inRep && ln.repk.isNone
/-- A carrying lane that has not joined yet. -/
def Lane.carries (ln : Lane) : Bool := ln.inRep && ln.repk.isSome

/-- R20: %rep.V := 0, and the lanes of the repeat go on after the word. -/
def endRepeat (w : Warp) : Warp :=
  { w with
    rep := w.rep &&& 0x7FFFFFFF, repFin := false,
    lanes := w.lanes.map fun ln => if ln.inRep then { ln with pc := ln.pc + 1, inRep := false, repk := none } else ln }

/-- R107: every lane has left the repeat by a fault; carrying lanes that have not joined keep their indices. -/
def breakRepeat (w : Warp) : Warp :=
  { w with
    rep := w.rep &&& 0x7FFFFFFF, repFin := false,
    lanes := w.lanes.map fun ln => if ln.inRep then { ln with inRep := false } else ln }

/-- %rep.K := %rep.K + 1 (R20): K has six bits (R21). -/
def bumpK (w : Warp) : Warp := { w with rep := (w.rep &&& 0xFFFFFFC0) ||| w32 ((repK w + 1) % 64) }

/-- After a repeat: the next index, or the end; K counts the last repeat too. After the last repeat the waiting lanes are awaited (R107). -/
def nextRepeat (w : Warp) : Warp :=
  if !(w.lanes.any fun ln => ln.joined && (ln.st == .run || ln.st == .waiting)) then breakRepeat w
  else if repK w + 1 < repCnt w then bumpK w
  else if w.lanes.any fun ln => ln.joined && ln.st == .waiting then { w with repFin := true }
  else endRepeat (bumpK w)

/-- R16: the word reads or writes the target of an open window. -/
def breaches (w : Warp) (i : Instr) : Bool := w.pend.any fun p => decide (0 < p.left) && touches p.target i

/-- One repeat has issued: it counts, unless it killed the warp or could not issue. -/
def countRepeat (o : Out) : Out :=
  match o with
  | .next s => .next (if s.iss.stall || s.w.finished then s else { s with w := nextRepeat s.w })
  | o => o

/-- R20: the issue of the repeat that `%rep.K` names, as a one-word bundle of its own. Outside a repeat nothing issues.
DEDUCED: log entry 49. -/
def execRepeatIssue (s : State) : Out :=
  if s.c.id = 0 || !repV s.w then .next s
  else if repCnt s.w ≤ repK s.w then .next { s with w := endRepeat s.w }
  else
    let r := s.w.rep.toNat
    match fetchWord s s.c s.w s.iss.pc.toNat with
    | none => .next (noFetch s s.iss.pc.toNat)
    | some w =>
      match repWord w (fld r 16 3) (fld r 14 2) (fld r 12 2) (fld r 10 2) (repK s.w) with
      | none => .next (kill .regrange s)
      | some w' =>
        match decodeWord w' with
        | .error k => .next (kill k s)
        | .ok i =>
          if regrange s.w.window i then .next (kill .regrange s)
          else if breaches s.w i then .next (kill .lookahead s)
          else countRepeat (dispatchRepeatable i (if afterPerformed i then settle s else s))

end Sys2Proof.Machine
end

