-- ==== Sys2Proof/Machine/Pick.lean ====
section
/-! DEFINITION. Which lanes of a warp issue and where (R106, R107, R265, R270), and which warp of a core issues (R144). -/

namespace Sys2Proof.Machine

/-! ### The issue PC and the Active set -/

/-- What a warp would issue: a bundle at a PC, the next repeat, or a repeat that cannot begin (R265). -/
inductive Pick where
  | bundle (active : LaneMask) (pc : Word)
  | rep (active : LaneMask) (pc : Word)
  | bad (active : LaneMask) (pc : Word) (k : KillClass)
  deriving DecidableEq, Repr

def Pick.active : Pick → LaneMask
  | .bundle a _ | .rep a _ | .bad a _ _ => a
def Pick.pc : Pick → Word
  | .bundle _ x | .rep _ x | .bad _ x _ => x
def Pick.isRep : Pick → Bool
  | .rep .. => true
  | _ => false

/-- Carrying lanes join when K reaches their index (R265). -/
def joinLanes (w : Warp) : Warp :=
  { w with lanes := w.lanes.map fun ln => if ln.carries && ln.st == .run && ln.repk == some (repK w) then { ln with repk := none } else ln }

/-- A repeat in progress before its next issue (R107): it waits with its waiting lanes, ends after its last repeat, and
ends at once when every lane has left it. -/
def settleRepeat (w : Warp) : Warp :=
  if !repV w || (w.lanes.any fun ln => ln.joined && ln.st == .waiting) then w
  else if w.repFin then endRepeat (bumpK w)
  else
    let w := joinLanes w
    if w.lanes.any fun ln => ln.joined && ln.st == .run then w else breakRepeat w

/-- R106 and R270: the lanes that may issue, RUN ones and deferred ones. -/
def mayRun (w : Warp) (ln : Lane) : Bool := (ln.st == .run || ln.st == .deferred) && (!w.trapV || ln.ts)

/-- R106: every deferral is cleared where no candidate is RUN. -/
def clearDeferral (w : Warp) : Warp :=
  if w.lanes.any fun ln => mayRun w ln && ln.st == .run then w
  else { w with lanes := w.lanes.map fun ln => if mayRun w ln then { ln with st := .run } else ln }

/-- R106: the lowest PC of a RUN candidate. -/
def lowestPc (w : Warp) : Option Word :=
  w.lanes.foldl (fun m ln =>
    if mayRun w ln && ln.st == .run then
      match m with
      | some x => if ln.pc.toNat < x.toNat then some ln.pc else some x
      | none => some ln.pc
    else m) none

/-- The word before `x` in its packet is chained (R11). -/
def chainBefore (f : Nat → Option Nat) (x : Nat) : Bool := x % 3 != 0 && (f (x - 1)).any chained

/-- R265: the repeat that lanes at `x` carry begins again at their lowest index, after the checks of R19. -/
def resumeRepeat (f : Nat → Option Nat) (w : Warp) (x : Word) : Warp × Pick :=
  let n := x.toNat
  let carrying (ln : Lane) : Bool := mayRun w ln && ln.st == .run && ln.pc == x && ln.repk.isSome
  let k := w.lanes.foldl (fun m ln => if carrying ln then min m (ln.repk.getD 64) else m) 64
  let go := lanesWhere w fun ln => carrying ln && ln.repk == some k
  let bad (c : KillClass) : Warp × Pick := (w, .bad go (x - 1) c)
  match f (n - 1) with
  | none => bad .fetch
  | some p =>
    if fld p 25 6 ≠ 0x3F ∨ n = 0 then bad .repeated
    else if chainBefore f (n - 1) then bad .bundle
    else match f n with
      | none => bad .fetch
      | some wd => match prefixCheck w.window p wd false with
        | some c => bad c
        | none => ({ w with
            rep := repWordOf (fld p 19 6) (fld p 16 3) (fld p 14 2) (fld p 12 2) (fld p 10 2) k,
            lanes := w.lanes.map fun ln => if carrying ln then
              { ln with inRep := true, repk := if ln.repk = some k then none else ln.repk } else ln },
            .rep go x)

/-- The issue PC and the Active set of a warp, and the warp as it issues; none where it has nothing to issue. `f` reads
its code. -/
def pickWarp (f : Nat → Option Nat) (w : Warp) : Option (Warp × Pick) :=
  let w := settleRepeat w
  if repV w then
    let a := lanesWhere w fun ln => ln.joined && ln.st == .run
    match lowest a with
    | none => none
    | some l => if w.repFin then none else some (w, .rep a (w.lane l).pc)
  else
    let w := clearDeferral w
    match lowestPc w with
    | none => none
    | some x =>
      if w.lanes.any fun ln => mayRun w ln && ln.st == .run && ln.pc == x && ln.repk.isSome then some (resumeRepeat f w x)
      else
        let a := lanesWhere w fun ln => mayRun w ln && ln.pc == x
        some (mapLanes w a fun _ ln => { ln with st := .run }, .bundle a x)

/-! ### Which warp of a core issues (R144, R145) -/

/-- The results whose windows have ended are known, and nothing else holds the warp (R14, R16, R234, R266, R282, R297). -/
def mayIssue (s : State) (k : Crew) (w : Warp) : Bool :=
  w.hold == .none && w.stopped.isNone && (match w.sleepUntil with
    | some t => decide (t ≤ s.cycle)
    | none => true) &&
  (w.pend.all fun p => p.kept || decide (0 < p.left) || p.arrived || p.ready) &&
  !(s.frags.any fun f => f.crew == k.id && f.warp == w.idx && f.whole && !f.freed)

/-- R11: the words of a bundle, and whether the fetch of a further one failed. -/
def takeWords (f : Nat → Option Nat) (x : Nat) : Nat → List Nat × Bool
  | 0 => ([], false)
  | n + 1 =>
    match f x with
    | none => ([], true)
    | some w => if chained w then let r := takeWords f (x + 1) n; (w :: r.1, r.2) else ([w], false)

/-- A fetch that the issue needs waits for a die out of service (R275, R315): the word before in the packet, the words of
the bundle, the word after a prefix, or the words of a repeat. -/
def pickHeld (s : State) (k : Crew) (w : Warp) : Pick → Bool
  | .bundle _ x =>
    let b := takeWords (fetchWord s k w) x.toNat 3
    (x.toNat % 3 != 0 && fetchHeld s k w (x.toNat - 1)) || (b.2 && fetchHeld s k w (x.toNat + b.1.length)) ||
      (b.1.head?.any (fun p => fld p 25 6 == 0x3F) && fetchHeld s k w (x.toNat + 1))
  | .rep _ x => fetchHeld s k w x.toNat
  | .bad _ x _ => fetchHeld s k w x.toNat || fetchHeld s k w (x.toNat + 1)

structure Ready where
  crew : Crew
  warp : Warp
  pick : Pick
  deriving DecidableEq, Repr

/-- The ready warps of a core. -/
def readyWarps (s : State) (core : Nat) : List Ready :=
  (s.crews.filter (·.core == core)).flatMap fun k => k.warps.filterMap fun w =>
    if !mayIssue s k w then none
    else match pickWarp (fetchWord s k w) w with
      | some p => if pickHeld s k p.1 p.2 then none else some ⟨k, p.1, p.2⟩
      | none => none

/-- Older by placement time, then by `%warp`. -/
def older (a b : Ready) : Bool :=
  decide (a.crew.placedAt < b.crew.placedAt) || (a.crew.placedAt == b.crew.placedAt && decide (a.warp.idx < b.warp.idx))
def oldest (rs : List Ready) : Option Ready :=
  rs.foldl (fun m r => match m with
    | some o => if older r o then some r else some o
    | none => some r) none

/-- R144, step 3: younger warps have issued, and this one has not for 256 cycles. -/
def overdue (s : State) (w : Warp) : Bool := w.promoted || (w.passed && decide (w.lastIssue + 256 ≤ s.cycle))

/-- The ready warps whose next bundle is not known to wait; all of them where every one has just had to wait.
DEDUCED: log entry 95. -/
def freeFirst (rs : List Ready) : List Ready := if rs.any fun r => !r.warp.held then rs.filter fun r => !r.warp.held else rs
/-- R144: a warp passed over for 256 cycles, else the warp that issued last, else the oldest. -/
def chooseWarp (s : State) (core : Nat) : Option Ready :=
  let rs := freeFirst (readyWarps s core)
  match oldest (rs.filter fun r => overdue s r.warp) with
  | some r => some r
  | none => match rs.find? fun r => (coreAt s core).last == some (r.crew.id, r.warp.idx) with
    | some r => some r
    | none => oldest rs

end Sys2Proof.Machine
end

