-- ==== Sys2Proof/Machine/System.lean ====
section
/-! DEFINITION. The fault ring (R261, R262) and the words of SYS, FRAG and MMU (R288 to R303): traps, special registers,
sleep and wake, fragment control, invalidation, stopped walks and weight-store windows. -/

namespace Sys2Proof.Machine

/-! ### The fault ring (R262) -/

/-- What an attempt to write the oldest waiting record gives. -/
inductive RingTry where
  /-- There is no record, the ring is full, or its die is out of service. -/
  | hold
  | blocked
  | done (s : State)

/-- Puts the time at which a record is performed into it (R261). -/
def stampRecord (bs : List Byte) (t : Nat) : List Byte := bs.take 0x18 ++ bytesOfNat 8 t ++ bs.drop 0x20

/-- The entry of a repaired fragment may be taken again once its record is written. -/
def releaseEntry (s : State) (r : FrRecord) : State :=
  match r.frag with
  | none => s
  | some (c, e) => { s with frags := s.frags.filter fun f => !(f.core == c && f.entry == e && f.freed) }

/-- Writes the oldest waiting record of a function's ring: steps 1 to 5 of R262. -/
def tryRecord (s : State) (vf : Nat) : RingTry :=
  let v := vfAt s vf
  match v.frPend with
  | [] => .hold
  | r :: rest =>
    if v.frbase = 0 ∨ 12 < v.frlog2n then .blocked
    else if ringCount v.frhead v.frtail = 2 ^ v.frlog2n then .hold
    else match writeVa s vf (v.frbase + 128 * (v.frhead % 2 ^ v.frlog2n)) (stampRecord r.bytes (spanTime s vf (v.frbase + 128 * (v.frhead % 2 ^ v.frlog2n)) 128)) with
      | .error (0, _, _) => .hold
      | .error _ => .blocked
      | .ok s =>
        let s := updVf s vf fun v => { v with frPend := rest, frhead := (v.frhead + 1) % 2 ^ 32 }
        let s := releaseEntry s r
        let s := if v.fobj = 0 then s else (signalVa s none vf (v.fobj % 2 ^ 56)).2
        .done (interrupt s vf 0)

/-- What the next record of a function writes may be written: its slot, and the object that is signalled (R315, R328). -/
def recordClear (s : State) (vf : Nat) : Bool × State :=
  let v := vfAt s vf
  let h := spanClear s vf (v.frbase + 128 * (v.frhead % 2 ^ v.frlog2n)) 128
  let g := if v.fobj = 0 then (false, h.2) else signalHeld h.2 none vf (v.fobj % 2 ^ 56)
  (h.1 && !g.1, g.2)

/-- FAULT_RECORD_WRITE: a ring that cannot take the record sets FRERR, and nothing is tried until something changes.
DESIGN CHOICE: log entry 75. -/
def recordWrite (s : State) (vf : Nat) : State :=
  let h := recordClear s vf
  if (vfAt s vf).frBlocked || (vfAt s vf).frPend.isEmpty then s
  else if !h.1 then h.2
  else
  let s := h.2
  match tryRecord s vf with
    | .hold => s
    | .blocked => interrupt (updVf s vf fun v => { v with frBlocked := true }) vf 3
    | .done s => s

/-- Tries the waiting records again, in order (R262). -/
def retryN (s : State) (vf : Nat) : Nat → State
  | 0 => s
  | n + 1 => retryN (recordWrite s vf) vf n
/-- DESIGN CHOICE: log entry 75. -/
def retryRecords (s : State) (vf : Nat) : State :=
  let s := updVf s vf fun v => { v with frBlocked := false }
  retryN s vf (vfAt s vf).frPend.length

/-! ### Traps (R270, R272, R295, R296) -/

/-- R270. -/
def execTrap (n : Nat) (s : State) : Out :=
  issue (.trap n) s (takeTrap n)

/-- R272. -/
def execSret  (s : State) : Out :=
  issue (.sret) s leaveTrap

/-! ### Special registers (R291 to R294) -/

/-- `%wsref` of bank `l` of a die, and its uniform form (R175). -/
def refCount (s : State) (die : Nat) : Nat := (s.cycle - (dieAt s die).epoch) % 128000
def wsrefLane (s : State) (die l : Nat) : Word :=
  let t := (refCount s die + 128000 - l * 2000) % 128000
  if t < 2000 then w32 (2 ^ 31 + (2000 - t)) else w32 (128000 - t)
def wsrefUni (s : State) (die : Nat) : Word :=
  let t := refCount s die
  w32 (t / 2000 * 2 ^ 17 + (2000 - t % 2000))

/-- `%frag` (R267), as a bundle reads it before it acts (R13). -/
def fragWord (s : State) : Word :=
  let fs := s.frags.filter fun f => f.crew == s.c.id && f.warp == s.w.idx && !f.freed
  w32 ((if fs.any (·.whole) then 2 ^ 31 else 0) + fs.length * 2 ^ 8 + s.w.lanes.countP fun ln => ln.st == .parked)

/-- `%xpc` of a lane (R271). -/
def xpcWord (ln : Lane) : Word := (if ln.ts then 0x80000000 else 0) ||| (ln.rpc &&& 0x1FFFFF)

/-- The value of a special register: `l` for a vector destination's lane or the lane a uniform one is read from. -/
def spValue (s : State) (idx l : Nat) (vec : Bool) : Word :=
  let die := dieOfCore s.c.core
  match idx with
  | 0 => w32 l
  | 1 => w32 Config.width
  | 2 => w32 s.w.idx
  | 3 => w32 s.c.crewIdx
  | 4 => w32 s.w.role
  | 5 | 6 | 7 | 8 => w32 (s.c.tile.getD (idx - 5) 0)
  | 9 => w32 s.c.tensor
  | 10 => w32 s.c.launch
  | 11 => w32 (s.c.core % Config.coresPerDie)
  | 12 => w32 (quadOfCore s.c.core % Config.quadsPerDie)
  | 13 => w32 (bayOfCore s.c.core % Config.baysPerDie)
  | 14 => w32 die
  | 15 => w32 s.fabric.dev
  | 16 => s.iss.pc
  | 17 => s.old.vote ||| (if vec && (s.old.lane l).absl then 0x80000000 else 0)
  | 18 => s.old.rep
  | 19 => s.c.err
  | 20 => s.old.fpmode
  | 21 => s.old.fpflags
  | 22 => w32 (s.cycle - (dieAt s die).epoch)
  | 23 => w32 s.iss.ltime0
  | 24 => if vec then wsrefLane s die l else wsrefUni s die
  | 25 => w32 s.w.priv
  | 26 => s.iss.frag0
  | 32 => xpcWord (s.old.lane l)
  | 33 => (if s.old.trapV then 0x80000000 else 0) ||| w32 s.old.trapN
  | 34 => s.old.xs0
  | 35 => s.old.xs1
  | _ => 0
/-- Lane-scope registers (R291). -/
def laneScope (idx : Nat) : Bool := idx == 0 || idx == 16 || idx == 32

/-- The results `srd %fpflags` waits for are known, and arrive (R42). -/
def fpArrived (s : State) : State :=
  let w := deliverAll (·.fp) s.w
  { s with w := w, old := { s.old with fpflags := w.fpflags } }

/-- R292. -/
def readSpecial (s : State) (i : Instr) (d idx : Nat) (v : Bool) : State :=
  let s := if idx = 21 then fpArrived s else s
  if v then resV s i d (fun l => spValue s idx l true) 0 false
  else if laneScope idx then
    match lowest (liveMask s) with
    | some l => resWord s i d (spValue s idx l false)
    | none => addPend s i [] 0 false 0 false
  else resWord s i d (spValue s idx 0 false)

/-- R291, R292. -/
def execSrd (la d idx : Nat) (v : Bool) (s : State) : Out :=
  issue (.srd la d idx v) s fun s => readSpecial s (.srd la d idx v) d idx v

/-- R293: the source value of a `swr`, none where no Active lane completes the bundle. -/
def swrSource (s : State) (d : Nat) (v : Bool) : Option Word :=
  if v then (lowest (liveMask s)).map (rdV s.old d) else some (rdS s.old d)

/-- W1C of `%err` (R23). -/
def clearErr (e x : Word) : Word :=
  let e := if x.getLsbD 31 then e &&& 0x200000 else e
  if x.getLsbD 21 then e &&& ~~~0x200000 else e

/-- R293: the write of each register. -/
def writeSpecial (s : State) (d idx : Nat) (v : Bool) : State :=
  match swrSource s d v with
  | none => s
  | some x =>
    match idx with
    | 18 => { s with w := { s.w with rep := x &&& 0x01FFFC3F } }
    | 19 => { s with c := { s.c with err := clearErr s.c.err x } }
    | 20 => { s with w := { s.w with fpmode := x &&& 7 } }
    | 21 => { s with w := { s.w with fpflags := s.w.fpflags &&& ~~~x } }
    | 32 => { s with w := mapLanes s.w (liveMask s) fun l ln => { ln with rpc := (if v then rdV s.old d l else x) &&& 0x1FFFFF } }
    | 34 => { s with w := { s.w with xs0 := x } }
    | 35 => { s with w := { s.w with xs1 := x } }
    | _ => s

/-- R291, R293. -/
def execSwr (d idx : Nat) (v : Bool) (s : State) : Out :=
  issue (.swr d idx v) s fun s => writeSpecial s d idx v

/-! ### Sleep and wake (R297) -/

/-- A token that is set is spent; else the warp sleeps for a count that is not 0. -/
def sleepWarp (s : State) (n : Nat) : State :=
  if n = 0 then s
  else if s.w.token then { s with w := { s.w with token := false } }
  else { s with w := { s.w with sleepUntil := some (s.cycle + n) } }

/-- R297. -/
def execSleep (ua : Nat) (s : State) : Out :=
  issue (.sleep ua) s fun s => sleepWarp s (rdS s.old ua).toNat

/-- A warp that sleeps goes on, another keeps the token, one whose count has passed too; what a woken warp loads comes after
the waker's accesses. -/
def wakeWarp (s : State) (x : Nat) : State :=
  updWarp s s.c.id x fun w =>
    if w.sleepUntil.any fun t => decide (s.cycle < t) then { w with sleepUntil := none } else { w with token := true }

/-- R297. -/
def execWake (ua : Nat) (s : State) : Out :=
  issue (.wake ua) s fun s => wakeWarp s ((rdS s.old ua).toNat % 32)

/-! ### Fragment control (R298, R299) -/

/-- The VF an id must belong to: none at hypervisor level (R299). -/
def fragVf (s : State) : Option Nat := if s.w.priv = 2 then none else some s.c.vf

/-- R298; the bytes of an armed object stay as they are. DEDUCED: log entry 88. -/
def statFrag (s : State) (i : Instr) (d id off : Nat) : State :=
  if off % 32 ≠ 0 ∨ s.c.shareSize < off + 32 then resWord s i d (w32 (2 * 2 ^ 24))
  else match findFrag s (fragVf s) id with
    | none => resWord s i d (w32 (2 ^ 24))
    | some f =>
      if (List.range 32).any fun j => shPinned s (ownShare s) (off + j) then stalled s
      else resWord (shCore s (ownShare s) off (fragBytes f)) i d (w32 (lanesOf f.lanes).length)

/-- R298. -/
def execFstat (la d ua : Nat) (s : State) : Out :=
  issue (.fstat la d ua) s fun s => statFrag s (.fstat la d ua) d (rdS s.old ua).toNat (rdS s.old (ua + 1)).toNat

/-- The act on a fragment: what its lanes do next follows every access performed so far (R299). -/
def actFrag (s : State) (vf : Option Nat) (id : Nat) (k : Bool) : State :=
  match findFrag s vf id with
  | none => s
  | some f =>
    let s := syncCore s f.core
    let s := if s.c.id = 0 then s else raiseTime s f.core (ltimeOf s s.c.core)
    if k then afterDeaths (killFrag s f) else resumeFrag s f

/-- R263, R299. -/
def execFresume (ua : Nat) (s : State) : Out :=
  issue (.fresume ua) s fun s => actFrag s (fragVf s) (rdS s.old ua).toNat false
/-- R263, R299. -/
def execFkill (ua : Nat) (s : State) : Out :=
  issue (.fkill ua) s fun s => actFrag s (fragVf s) (rdS s.old ua).toNat true

/-! ### Translations, walks and windows (R279, R300 to R302) -/

/-- The invalidation descriptor of R279: KIND, VFN and ADDR, and whether it carries a reserved value. -/
structure Inval where
  kind : Nat
  vfn : Nat
  addr : Nat
  bad : Bool
  deriving DecidableEq, Repr
def parseInval (bs : List Byte) : Inval :=
  let w := leAt bs 0 4
  { kind := fld w 0 4, vfn := fld w 8 8, addr := leAt bs 8 8
    bad := fld w 16 16 != 0 || fld w 4 4 != 0 || decide (3 < fld w 0 4) || leAt bs 4 4 != 0 || leAt bs 16 16 != 0 }
/-- What an invalidation does: KIND, target and address; `d` is none where the descriptor is misaligned or outside the share,
which then names no VF: the warp's own is the target. DESIGN CHOICE: log entry 108. -/
def invalTarget (hyp : Bool) (own : Nat) (d : Option Inval) : Nat × Nat × Nat :=
  match d with
  | none => (if hyp then 3 else 1, own, 0)
  | some x =>
    (if x.bad then (if hyp then 3 else 1) else if !hyp && decide (2 ≤ x.kind) then 1 else x.kind, if hyp then x.vfn else own, x.addr)

/-- The TLB entries that an invalidation of some KIND covers (R279). -/
def covered (kind a : Nat) (e : TlbEnt) : Bool :=
  match kind with
  | 0 => isLeafAt false (a % 2 ^ 56) e
  | 1 => isStage1 e
  | 2 => isLeafAt true a e
  | _ => true
/-- The translations of a function that an invalidation covers go, with its export entries, and its fault ring is tried again
(R262, R276, R279, R326). -/
def invalTlb (s : State) (vf kind a : Nat) : State :=
  let s := if kind = 0 ∨ kind = 2 then s
    else { s with fabric := { s.fabric with exports := s.fabric.exports.filter (·.1 != vf) } }
  retryRecords (dropTlb s vf (covered kind a)) vf

/-- R279: once the accesses under way are performed, the matching translations go. -/
def invalidate (s : State) (off : Nat) : State :=
  let d := if off % 32 ≠ 0 ∨ s.c.shareSize < off + 32 then none else some (parseInval (shRead s (ownShare s) off 32))
  let t := invalTarget (s.w.priv == 2) s.c.vf d
  let s := settleAll s
  if (merged s).any fun k => k.vf == t.2.1 && k.warps.any fun w => !w.memq.isEmpty then stalled s else invalTlb s t.2.1 t.1 t.2.2

/-- R300. -/
def execTlbinv (ua : Nat) (s : State) : Out :=
  issue (.tlbinv ua) s fun s => invalidate s (rdS s.old ua).toNat

/-- R301: a launch of another VF is left unchanged at supervisor level. -/
def execLres (ua : Nat) (s : State) : Out :=
  issue (.lres ua) s fun s => match launchOf s (rdS s.old ua).toNat with
    | none => s
    | some l => if l.vf = s.c.vf ∨ s.w.priv = 2 then resumeLaunch (syncEngine s s.c.core) l else s

/-- The windows a mask of R302 names: dies that are not fenced, and groups. -/
def maskWindows (s : State) (m : Nat) : List (Nat × Nat) :=
  (List.range 8).flatMap fun die =>
    if bitB m die && (dieAt s die).st != .fenced then ((List.range 8).filter fun g => bitB m (8 + g)).map fun g => (die, g) else []

/-- R302. -/
def execWsopen (ua : Nat) (s : State) : Out :=
  issue (.wsopen ua) s fun s =>
    let m := (rdS s.old ua).toNat
    updVf s s.c.vf fun v => { v with windows := (v.windows ++ maskWindows s m).eraseDups }

/-- R302: the warp's next bundle waits, and then the groups are closed. -/
def execWsclose (ua : Nat) (s : State) : Out :=
  issue (.wsclose ua) s fun s =>
    let m := (rdS s.old ua).toNat % 2 ^ 16
    let s := updVf s s.c.vf fun v => { v with closes := v.closes ++ [(m, s.opSeq)] }
    { s with w := { s.w with hold := .wsclose m s.opSeq }, opSeq := s.opSeq + 1 }

/-- A slice writes a group of a mask in the weight store. -/
def slicesGroup (s : State) (vf mask : Nat) (d : SliceD) : Bool :=
  d.kind == 1 && d.dsp == 2 && (wsGroups d.dst (min d.len ((vfAt s vf).wsLen - d.dst))).any fun g => bitB mask (8 + g)
/-- A copy of the VF formed before a `wsclose` writes a group of its mask (R302), or a later one is in the midst of a slice
that does: no slice is cut short (R212). DEDUCED: log entry 86. -/
def writesGroup (s : State) (e : ChanEntry) (vf mask before : Nat) : Bool :=
  e.kind == .copy && e.vf == vf && e.formed && bitB mask (dieOfCore e.core) &&
    ((decide (e.ref ≤ before) && e.readable.any (slicesGroup s vf mask)) ||
      (e.ended.isNone && match whichSlice e.slices (opSizes s e) e.done with
        | some (x, j, _) => decide (0 < j) && slicesGroup s vf mask (parseSlice (x.bytes.getD []))
        | none => false))

/-- A `wsclose` has nothing left to wait for. -/
def closeClear (s : State) (vf mask before : Nat) : Bool :=
  !s.bays.any fun b => b.ch.any fun c => c.entries.any fun e => writesGroup s e vf mask before
/-- Closes the groups of a mask. -/
def closeWindows (s : State) (vf mask : Nat) : State :=
  updVf s vf fun v => { v with windows := v.windows.filter fun w => !(maskWindows s mask).contains w }
/-- The `wsclose` words of a VF that have nothing left to wait for close their groups, whatever became of their warps. -/
def settleCloses (s : State) : State :=
  (s.vfs.mapIdx fun i v => (i, v.closes)).foldl (fun s x => x.2.foldl (fun s c =>
    if closeClear s x.1 c.1 c.2 then updVf (closeWindows s x.1 c.1) x.1 fun v => { v with closes := v.closes.erase c } else s) s) s

end Sys2Proof.Machine
end

