-- ==== Sys2Proof/Machine/Engines.lean ====
section
/-! DEFINITION. The steps of the device's own units: the BTE's chunks and completions (R212, R215, R342), the QME (R220, R221),
queue engines and refills (R223, R225), performing stores and atomics (R178, R180), results (R16), leases (R170), refresh
windows (R175), walks (R278), fault records (R262), and the launch hardware's events. -/

namespace Sys2Proof.Machine

/-! ### The BTE -/

/-- The head entry of a channel has gone: fences and kept shares are looked at again. -/
def dropHead (s : State) (bay ch : Nat) : State :=
  sweepKept (settleFences (updChan (forgetWalks s bay ch) bay ch fun c => { c with entries := c.entries.drop 1 }) bay)

/-- Reads up to `n` bytes of virtual memory: the bytes, and how it ended, if it did. -/
def readRun (s : State) (who : Requester) (vf va : Nat) : Nat → List Byte × Option (Nat × Nat × Nat)
  | 0 => ([], none)
  | n + 1 => match vaByte s who vf va with
    | .ok b => let r := readRun s who vf (va + 1) n; (b :: r.1, r.2)
    | .wait _ => ([], none)
    | .stop _ cls code a => ([], some (cls, code, a % 2 ^ 56))

/-- One chunk of a payload as a channel reads it, as far as its translations are known; the next one asks for its walk (R278).
The bytes are elements of S (R202). -/
def readChunk (s : State) (bay ch vf va n : Nat) : State × List Byte × Option (Nat × Nat × Nat) :=
  let who : Requester := some (bay, ch)
  let r := readRun s who vf va n
  let k := r.1.length
  let s := engRead s ((List.range k).map fun i => flatTag vf (va + i)).eraseDups
  let s := if k = 0 then s else usedWalks s bay ch
  (if r.2.isNone && decide (k < n) then askFor s who vf (va + k) else s, r.1, r.2)

/-- Sends the header of a message: TAG, LEN, MSGID and EAGER, with an eager payload (R321, R342). -/
def sendHeader (s : State) (x : Send) (eager : Bool) (payload : List Byte) : State :=
  let d := parseSend x.desc
  let y := newXid s
  let xid := y.1
  let s := updSend y.2 x.index fun x => { x with started := true, since := s.cycle, xid := xid, buf := [] }
  let s := sendCtl s x.vf d.dst 0x08 xid (bytesOfNat 4 d.tag ++ bytesOfNat 4 d.len ++ bytesOfNat 4 x.handle ++ bytesOfNat 1 (if eager then 1 else 0)) 0
  sendData s x.vf d.dst xid payload 256

/-- One chunk of a send: the first starts it (R342). -/
def sendChunk (s : State) (bay ch n : Nat) (e : ChanEntry) : State :=
  match s.wharf.sends.find? (·.index == e.ref) with
  | none => dropHead s bay ch
  | some x =>
    let d := parseSend x.desc
    if 65536 < d.len then dropHead (sendHeader s x false []) bay ch
    else
      let y := readChunk s bay ch x.vf ((d.srcaddr + e.done) % 2 ^ 56) n
      let r := y.2
      let s := if r.1.isEmpty && r.2.isNone then y.1 else updSend y.1 x.index fun x => { x with
        started := true, since := if x.started then x.since else s.cycle, buf := x.buf ++ r.1 }
      match r.2 with
      | some (cls, code, a) => endSend s x.index 2 cls code a 0
      | none =>
        let done := e.done + r.1.length
        if done = d.len then dropHead (sendHeader s x true (x.buf ++ r.1)) bay ch else updHead s bay ch fun e => { e with done := done }

/-- One chunk of a pulled payload: it is read and shipped; a read fault ends landing and send (R342). -/
def dataChunk (s : State) (bay ch n : Nat) (e : ChanEntry) : State :=
  match s.wharf.sends.find? (·.index == e.ref) with
  | none => dropHead s bay ch
  | some x =>
    let d := parseSend x.desc
    let y := readChunk s bay ch x.vf ((d.srcaddr + e.done) % 2 ^ 56) n
    let r := y.2
    let s := sendData y.1 x.vf d.dst x.xid r.1 8
    let done := e.done + r.1.length
    match r.2 with
    | some (cls, code, a) =>
      let y := newXid s
      let s := updSend y.2 x.index fun x => { x with cut := some (cls, code, a) }
      dropHead (sendCtl s x.vf d.dst 0x0A y.1 (doneBody x.handle 2 cls code 1 0) done) bay ch
    | none => if done = d.len then dropHead s bay ch else updHead s bay ch fun e => { e with done := done }

/-- Size of the next chunk of a channel, none where it has no work: it waits on a full ring, a pin, a peer or a walk (R213,
R215). DESIGN CHOICE: log entry 33. -/
def chunkSize (s : State) (bay ch : Nat) : Option Nat :=
  match (chanAt s bay ch).entries.head? with
  | none => none
  | some e =>
    if chanWalks s bay ch then none else
    let left (x : Send) : Nat := min 2048 ((parseSend x.desc).len - e.done)
    match e.kind with
    | .copy => if e.formed && e.started && e.ended.isNone && decide (0 < copyLeft s e) && !copyHeld s e then some (min 2048 (copyLeft s e)) else none
    | .send => match s.wharf.sends.find? (·.index == e.ref) with
      | some x => some (if 65536 < (parseSend x.desc).len then 0 else left x)
      | none => some 0
    | .data => match s.wharf.sends.find? (·.index == e.ref) with
      | some x => some (left x)
      | none => some 0
    | .fence => none

def doChunk (s : State) (bay ch n : Nat) : State :=
  match (chanAt s bay ch).entries.head? with
  | none => s
  | some e => match e.kind with
    | .copy => copyChunk s bay ch n
    | .send => sendChunk s bay ch n e
    | .data => dataChunk s bay ch n e
    | .fence => s

/-- The copies that head a channel begin. -/
def beginHeads (s : State) (bay : Nat) : State :=
  (List.range 16).foldl (fun s ch => match (chanAt s bay ch).entries.head? with
    | some e => if e.kind = .copy ∧ e.formed ∧ !e.started then beginCopy s bay ch e else s
    | none => s) s

/-- The next channel of a class after the one served last whose chunk the deficit covers; those of `skip` can move nothing
now. -/
def nextChan (s : State) (bay k : Nat) (skip : List Nat) : Option (Nat × Nat) :=
  let b := bayAt s bay
  let last := b.lastCh.getD k 0
  (((List.range 4).map fun i => 4 * k + (last + 1 + i) % 4).filter fun ch => !skip.contains ch).findSome? fun ch =>
    match chunkSize s bay ch with
    | some n => if n ≤ b.deficit.getD k 0 then some (ch, n) else none
    | none => none

/-- Bytes of a chunk of `n` bytes that a channel has moved from `s` to `t`; one that ends its entry counts whole. None where the
channel could not go on at all. -/
def chunkMoved (s t : State) (bay ch n : Nat) : Option Nat :=
  match (chanAt s bay ch).entries.head?, (chanAt t bay ch).entries.head? with
  | some a, some b =>
    if a.op != b.op || b.ended.isSome || decide ((chanAt t bay ch).entries.length < (chanAt s bay ch).entries.length) then some n
    else if b.done = a.done then none else some (b.done - a.done)
  | _, _ => some n

/-- Deficit round-robin up to the next chunk (R215); `fuel` bounds the classes and channels passed. What a chunk moves is
deducted as it moves; a channel that can move nothing yet is passed over. None where no channel could go on.
DESIGN CHOICE: log entry 33. -/
def roundRobin (s : State) (bay : Nat) (skip : List Nat) : Nat → Bool × State
  | 0 => (false, s)
  | fuel + 1 =>
    let b := bayAt s bay
    let k := b.cls
    let onward (s : State) : State := updBay s bay fun b => { b with cls := (k + 1) % 4, fresh := true }
    if b.fresh && ((List.range 4).all fun i => (chunkSize s bay (4 * k + i)).isNone) then
      roundRobin (onward (updBay s bay fun b => { b with deficit := b.deficit.set k 0 })) bay skip fuel
    else
      let s := if b.fresh then updBay s bay fun b => { b with
        deficit := b.deficit.set k (b.deficit.getD k 0 + max 1 (b.quanta.getD k 1) * 1024), fresh := false } else s
      match nextChan s bay k skip with
      | none => roundRobin (onward s) bay skip fuel
      | some (ch, n) =>
        let t := doChunk s bay ch n
        match chunkMoved s t bay ch n with
        | none => roundRobin t bay (ch :: skip) fuel
        | some m => (true, updBay t bay fun b => { b with deficit := b.deficit.set k (b.deficit.getD k 0 - m), lastCh := b.lastCh.set k ch })
/-- One chunk of the BTE; where no channel could go on, the rounds do not move. -/
def serveChunk (s : State) (bay : Nat) : State :=
  let r := roundRobin s bay [] 32
  if r.1 then r.2 else updBay r.2 bay fun b => { b with deficit := (bayAt s bay).deficit, cls := (bayAt s bay).cls, fresh := (bayAt s bay).fresh }

/-- The BTE has no work: in the rounds that pass every class finds none, and its deficit is 0 (R215). -/
def idleRounds (s : State) (bay : Nat) : State :=
  if (List.range 16).all fun ch => (chunkSize s bay ch).isNone then updBay s bay fun b => { b with deficit := [0, 0, 0, 0], fresh := true } else s
/-- BTE_CHUNK. -/
def bteChunk (s : State) (bay : Nat) : State :=
  let s := beginHeads s bay
  if (List.range 16).all fun ch => (chunkSize s bay ch).isNone then idleRounds s bay else idleRounds (beginHeads (serveChunk s bay) bay) bay

/-- BTE_COMPLETION of the copy that heads a channel. -/
def bteComplete (s : State) (bay ch : Nat) : State :=
  let s := beginHeads s bay
  match (chanAt s bay ch).entries.head? with
  | some e => if e.kind = .copy && copyOver s e then sweepKept (settleFences (copyDone s bay ch e) bay) else s
  | none => s

/-- R215. -/
def execBteChunk (bay : Nat) (s : State) : Out := live s fun s => bteChunk s bay
/-- R212. -/
def execBteCompletion (bay ch : Nat) (s : State) : Out := live s fun s => bteComplete s bay ch

/-! ### QME and queue engines -/

/-- R220. -/
def execQmeGrant (quad : Nat) (s : State) : Out := live s fun s => grant s quad
/-- R221: entry `e` of the table, once it has been granted. -/
def execQmeCompletion (quad e : Nat) (s : State) : Out :=
  live s fun s => match (quadAt s quad).qme.find? fun x => x.entry == e && x.active with
    | some x => sweepKept (settleFences (completeEntry s quad x) (quad / 4))
    | none => s
/-- R220: an entry that has waited 4,096 cycles counts as class 3. -/
def execQmeEntryAging (quad e : Nat) (s : State) : Out :=
  live s fun s => match (quadAt s quad).qme.find? fun x => x.entry == e && !x.active && x.kind != 4 with
    | some x => updQuad { s with cycle := max s.cycle (x.posted + 4096) } quad fun q => { q with
        qme := q.qme.map fun y => if y.op = x.op then { y with aged := true } else y }
    | none => s
/-- R223. -/
def execWorkqRequestServed (die i : Nat) (s : State) : Out := live s fun s => serveAt s die i
/-- R225. -/
def execRefillArrival (quad i : Nat) (s : State) : Out := live s fun s => refillAt s quad i

/-! ### Results and accesses -/

/-- The reads of the weight store with which a warp waits for a refresh window are performed, if it is over (R175). -/
def performReads (s : State) (c x : Nat) : State :=
  match findWarp s c x with
  | some w => match w.memq with
    | .wread .. :: _ => performN s c x w.memq.length
    | _ => s
  | none => s
/-- R16: a known result arrives in its registers. -/
def execResultArrives (c x id : Nat) (s : State) : Out :=
  live s fun s => updWarp (performReads s c x) c x fun w => dropDone (deliver w id)

/-- The oldest access of a warp is performed, if it is of the kind named (R178, R180). -/
def performIf (s : State) (c x : Nat) (f : MemOp → Bool) : State :=
  match (findWarp s c x).bind fun w => w.memq.head? with
  | some o => if f o then reap (checkBars (performHead s c x)) else s
  | none => s
def MemOp.isStore : MemOp → Bool
  | .store .. => true
  | _ => false
def MemOp.isAtomic : MemOp → Bool
  | .rmw .. => true
  | _ => false

/-- R178. -/
def execStorePerformed (c x : Nat) (s : State) : Out := live s fun s => performIf s c x MemOp.isStore
/-- R180. -/
def execAtomicPerformed (c x : Nat) (s : State) : Out := live s fun s => performIf s c x MemOp.isAtomic

/-- R170: the core's time passes the end of a lease, and its copy goes. -/
def execLeaseExpiry (core i : Nat) (s : State) : Out :=
  live s fun s => match (coreAt s core).copies[i]? with
    | some cp => updCore (raiseTime s core cp.rts) core fun k => { k with copies := k.copies.eraseIdx i }
    | none => s

/-- R175: time passes to the next start or end of a refresh window of a die, and the reads that waited for it are performed. -/
def execWsRefreshWindow (die : Nat) (s : State) : Out :=
  live s fun s => if (dieAt s die).st = .fenced ∨ Config.dies ≤ die then s
    else
      let t := { s with cycle := s.cycle + (2000 - (s.cycle - (dieAt s die).epoch) % 2000) }
      (s.crews.filter fun k => dieOfCore k.core == die).foldl (fun t k =>
        (List.range k.warps.length).foldl (fun t x => performReads t k.id x) t) t

/-- R144, step 3: time passes until a ready warp that younger ones have passed over has not issued for 256 cycles. -/
def promoteWarp (s : State) (c x : Nat) : State :=
  match (findCrew s c).bind fun k => (readyWarps s k.core).find? fun r => r.crew.id == c && r.warp.idx == x && r.warp.passed with
  | some r => updWarp { s with cycle := max s.cycle (r.warp.lastIssue + 256) } c x fun w => { w with promoted := true }
  | none => s
/-- R144. -/
def execIssueAgePromotion (c x : Nat) (s : State) : Out := live s fun s => promoteWarp s c x

/-- R297. -/
def execSleepExpiry (c x : Nat) (s : State) : Out :=
  live s fun s => match (findWarp s c x).bind (·.sleepUntil) with
    | some t => updWarp { s with cycle := max s.cycle t } c x fun w => { w with sleepUntil := none }
    | none => s

/-- R262. -/
def execFaultRecordWrite (vf : Nat) (s : State) : Out := live s fun s => recordWrite s vf
/-- R278. -/
def execPageWalkComplete (die i : Nat) (s : State) : Out := live s fun s => walkComplete die i s

/-! ### Issues that kill (R15, R22, R37) -/

/-- R37: a bundle with a word that is no instruction, or an illegal bundle. Nothing is issuing outside an issue. -/
def execIllegalWord (k : KillClass) (s : State) : Out := .next (if s.c.id = 0 then s else kill k s)
/-- R15: the fetch of the bundle lies at or beyond the end of the code object, or fails. -/
def execFetchFault (s : State) : Out := .next (if s.c.id = 0 then s else kill .fetch s)

/-! ### The launch hardware -/

/-- R309. -/
def execLqTailWrite (fn q v : Nat) (s : State) : Out := live s fun s => lqTailWrite s fn q v
/-- R121, R124. -/
def execLaunchAccept (vf q : Nat) (s : State) : Out := live s fun s => launchAccept s vf q
/-- R125. -/
def execLaunchWalkStart (l : Nat) (s : State) : Out := live s fun s => walkStart s l
/-- R133. -/
def execTillerEvaluateReach (l die : Nat) (s : State) : Out := live s fun s => evaluateReach s l die
/-- R141. -/
def execTillerPush (l die : Nat) (s : State) : Out := live s fun s => tillerPush s l die
/-- R126. -/
def execLaunchDone (l : Nat) (s : State) : Out := live s fun s => launchDone s l
/-- R128. -/
def execLabortWrite (fn id : Nat) (s : State) : Out := live s fun s => labortWrite s fn id
/-- R137. -/
def execSluicePlaceCrew (bay : Nat) (s : State) : Out := live s fun s => placeCrew s bay
/-- R282. -/
def execSaveBundleLimit (c x : Nat) (s : State) : Out := live s fun s => saveLimit s c x
/-- R283. -/
def execCrewSave (c : Nat) (s : State) : Out := live s fun s => crewSave s c
/-- R287. -/
def execCrewRestore (c core : Nat) (s : State) : Out := live s fun s => crewRestore s c core
/-- R312. -/
def execTimeSliceEnd (s : State) : Out := live s sliceEnd

end Sys2Proof.Machine
end

