-- ==== Sys2Proof/Machine/Package.lean ====
section
/-! DEFINITION. The package: draining, resetting and returning dies (R313 to R315), failure in service and device reset (R304,
R305), and moving reaches (R132, R314). -/

namespace Sys2Proof.Machine

/-- One entry of the event log (R357): kind, and die or target; the newest stands first, 4,096 are kept.
DESIGN CHOICE: log entry 23. -/
def logEvent (s : State) (kind who : Nat) : State :=
  { s with
    freeCtr := s.freeCtr + 1
    towpath := { s.towpath with log := (((Config.towpathTime s.freeCtr).toNat, kind, who) :: s.towpath.log).take 4096 } }

/-- GO of the service request register clears when the request that runs is over. -/
def requestOver (s : State) (die : Nat) : State := if s.drRun = some die then { s with drGo := false, drRun := none } else s
/-- A request is written: it runs, or does nothing and GO clears at once (R314). DESIGN CHOICE: log entry 60. -/
def requestBegins (s : State) (op die : Nat) (go : Bool) : State :=
  { s with drOp := op, drDie := die, drGo := go, drRun := if go then some die else none }

/-- The die that takes the reaches of a VF from a die which is drained: the lowest ACTIVE one that holds a quad of it. -/
def targetDie (s : State) (vf : Nat) : Option Nat :=
  (List.range Config.dies).find? fun d => (dieAt s d).st == .active &&
    (List.range Config.quadsPerDie).any fun q => ownsQuad s vf (Config.quadsPerDie * d + q)
/-- A tensor of a function still has a VALID reach on a die, or may have one, as far as its tables can be read: what lies on a
die out of service counts. DEDUCED: log entry 62. -/
def tensorOn (s : State) (vf die t : Nat) : Bool :=
  match readVa s vf ((vfAt s vf).ttbase + 64 * t) 64 with
  | .error e => e.1 == 0
  | .ok bs =>
    let d := parseDesc bs
    d.valid && (List.range d.nreach).any fun i => match readVa s vf (d.place + 32 * i) 32 with
      | .error e => e.1 == 0
      | .ok r => let r := parseReach r; r.tensor == t && r.st == 1 && r.hdie == die
/-- Nothing has been written: there is no table. -/
def noTables (s : State) : Bool := s.mem.isEmpty && s.owners.isEmpty && s.hostMem.isEmpty
/-- Step 1 of R314 is over: every reach whose home is the die has been moved, where a die can take it. The migration service
reads the tables on a die that is being drained. -/
def reachesMoved (s : State) (die : Nat) : Bool :=
  noTables s || (List.range 193).all fun vf => (vf != 0 && !(vfAt s vf).en) || (targetDie s vf).isNone ||
    !(List.range (2 ^ 16)).any fun t => t != 0 && tensorOn (serving s fun _ => true) vf die t
/-- Step 2 of R314 begins once step 1 is over: the die takes no further crew, and its crews are asked to save where the drain
saves them. -/
def beginEmptying (s : State) (die : Nat) : State :=
  match (dieAt s die).moving with
  | none => s
  | some save =>
    if !reachesMoved s die then s
    else
      let s := updDie s die fun d => { d with moving := none }
      if save then askSave s .drain fun k => dieOfCore k.core == die else s
/-- A die leaves ACTIVE, and its drain begins (R314). -/
def startDrain (s : State) (die : Nat) (save : Bool) : State :=
  beginEmptying (dieLinks (updDie s die fun d => { d with st := .draining, moving := some save }) die) die
/-- A request with OP 0 or 1 (R314): an ACTIVE die is drained; with OP 1 its crews are asked to save. -/
def drainDie (s : State) (op die : Nat) : State :=
  if (dieAt s die).st ≠ .active ∨ Config.dies ≤ die then requestBegins s op die false
  else startDrain (requestBegins s op die true) die (op == 1)

/-- A die's walk of a launch has nothing left. -/
def DieWalk.over (w : DieWalk) : Bool := w.todo.isEmpty && w.deferred.isEmpty && w.cur.isNone && w.stop.isNone
/-- Steps 1 to 3 of R314 are over: no reach names the die, no crew runs on it, its engines are idle, its Tiller has
no walk. DEDUCED: log entry 62. -/
def drainOver (s : State) (die : Nat) : Bool :=
  (dieAt s die).moving.isNone && !(s.crews.any fun k => dieOfCore k.core == die) &&
    ((List.range Config.baysPerDie).all fun b => (bayAt s (8 * die + b)).ch.all (·.entries.isEmpty)) &&
    ((List.range Config.quadsPerDie).all fun q => (quadAt s (32 * die + q)).qme.isEmpty) &&
    (s.launches.all fun l => l.st.final || l.walks.all fun w => w.die != die || w.over) && reachesMoved s die

/-- DIE_DRAIN_COMPLETE: what L2 holds is in GDDR-7, copies are gone, and the die is DRAINED; a drain whose first step is
over goes on before. -/
def drainComplete (s : State) (die : Nat) : State :=
  let s := beginEmptying s die
  if (dieAt s die).st ≠ .draining ∨ !drainOver s die then s
  else
    let s := updDie (dropCopies s) die fun d => { d with st := .drained }
    logEvent (requestOver s die) 8 die

/-- A request with OP 2: a DRAINED die is reset; its weight store is lost, and it loads its active microcode slot. Page walks
that waited for it wait at their requesters (R315). -/
def resetDie (s : State) (die : Nat) : State :=
  if (dieAt s die).st ≠ .drained ∨ Config.dies ≤ die then requestBegins s 2 die false
  else
    let s := requestBegins s 2 die true
    let s := updDie s die fun d => { d with st := .resetting, ws := [], descs := [], walks := [], misses := [], epoch := s.cycle, auth := false }
    { s with
      cores := s.cores.mapIdx fun i k => if dieOfCore i = die then { k with copies := [], tlb := [] } else k
      bays := s.bays.mapIdx fun i b => if dieOfBay i = die then { b with tlb := [], copies := [] } else b
      towpath := { s.towpath with fw := s.towpath.fw.modify (die + 1) fun f => { f with loaded := f.active } } }

/-- DIE_RESET_COMPLETE. -/
def resetDone (s : State) (die : Nat) : State :=
  if (dieAt s die).st ≠ .resetting then s else requestOver (updDie s die fun d => { d with st := .drained }) die

/-- A request with OP 3: a DRAINED die authenticates again. -/
def returnDie (s : State) (die : Nat) : State :=
  if (dieAt s die).st ≠ .drained ∨ Config.dies ≤ die then requestBegins s 3 die false
  else requestBegins (updDie s die fun d => { d with auth := true }) 3 die true

/-! ### Service crews (R311) -/

/-- Service crews of a VF: running, saved, waiting for a core, or for their descriptor. -/
def serviceCrews (s : State) (vf : Nat) : Nat :=
  (s.crews.countP fun k => k.service && k.vf == vf) + (vfAt s vf).svcPend.length +
    (s.bays.map fun b => (b.service.countP (·.1 == vf)) + b.queue.countP fun q => q.launch == 0 && q.vf == vf).sum

/-- The bay of a service crew: the lowest of BAYMASK that holds a quad of the VF, else the lowest that holds one. -/
def serviceBay (s : State) (fn : Nat) (d : LDesc) : Option Nat :=
  let bays := (List.range Config.bays).filter fun b => (List.range 4).any fun i => holdsQuad s fn (4 * b + i)
  ((bays.filter fun b => bitB d.baymask b) ++ bays).head?

/-- A service crew starts from the descriptor at an address, waits for it, or does not start and SVCEND is set.
DEDUCED: log entry 61. -/
def serviceTry (s : State) (fn a : Nat) : State :=
  let fail := interrupt s fn 2
  match readVa s fn (a % 2 ^ 56) 128 with
  | .error (0, _, _) => updVf s fn fun x => { x with svcPend := x.svcPend ++ [a] }
  | .error _ => fail
  | .ok bs =>
    let d := parseLaunch bs
    match serviceBay s fn d with
    | none => fail
    | some b =>
      if d.badCode ∨ d.badShape ∨ d.shapeResv ≠ 0 ∨ d.badAddr then fail
      else
        let s := updBay s b fun x => { x with service := x.service ++ [(fn, bs)] }
        if (bayAt s b).service.length = 1 then placeCrew s b else s

/-- SVCSTART_WRITE: a fifth service crew does not start. -/
def svcStart (s : State) (fn v : Nat) : State :=
  let s := updVf s fn fun x => { x with svcstart := v % 2 ^ 64 }
  if 4 ≤ serviceCrews s fn then interrupt s fn 2 else serviceTry s fn (v % 2 ^ 64)

/-- The service crews whose descriptors lay on a die out of service are tried again (R315). -/
def retryService (s : State) (fn : Nat) : State :=
  let as := (vfAt s fn).svcPend
  if as.isEmpty then s else as.foldl (serviceTry · fn ·) (updVf s fn fun x => { x with svcPend := [] })

/-! ### A die returns or fails (R314, R315) -/

/-- DIE_AUTHENTICATED: a genuine die is ACTIVE, and what waited for it goes on; another stays DRAINED. -/
def authenticated (s : State) (die : Nat) (ok : Bool) : State :=
  if !(dieAt s die).auth then s
  else
    let s := updDie s die fun d => { d with auth := false, st := if ok then .active else d.st }
    let s := logEvent (requestOver s die) 8 die
    if ok then settleFabric ((List.range 193).foldl (fun s v => retryService (retryStatus s v) v) (dieLinks s die)) else s

/-- DIE_FAILS_IN_SERVICE: the die is drained, its crews saved. -/
def dieFails (s : State) (die : Nat) : State :=
  if (dieAt s die).st ≠ .active ∨ Config.dies ≤ die then s
  else startDrain s die true

/-! ### Device reset (R304, R305) -/

/-- The stripe table over the surviving dies. -/
def stripeOf (alive : List Nat) : List Nat := (List.range 64).map fun i => alive.getD (i % alive.length) 0

/-- The device after a reset: a die that fails its authentication is fenced. What survives is memory with the keys it was
written under, the host's memory, the event log, the firmware slots and a level-2 alarm. -/
def resetDevice (s : State) (genuine : List Bool) : State :=
  let alive := (List.range Config.dies).filter fun d => genuine.getD d false
  let r := State.reset
  let s' : State := { r with
    moves := s.moves, steps := s.steps, freeCtr := s.freeCtr, opSeq := s.opSeq, nextCrew := s.nextCrew,
    mem := s.mem, hostMem := s.hostMem, poison := s.poison, owners := s.owners, nextKey := s.nextKey,
    dies := (List.range Config.dies).map fun d => { st := if alive.contains d then .active else .fenced }
    stripe := if alive.isEmpty then r.stripe else stripeOf alive
    elect := alive.headD 0
    vfs := r.vfs.modify 0 fun v => { v with key := (vfAt s 0).key }
    fabric := { r.fabric with
      dev := s.fabric.dev, pod := s.fabric.pod, ports := r.fabric.ports.mapIdx fun i p => { p with up := !s.towpath.level2 && alive.contains (i / 2) } }
    towpath := { r.towpath with
      log := s.towpath.log, level2 := s.towpath.level2, identityKey := s.towpath.identityKey,
      fw := s.towpath.fw.mapIdx fun i f => if i = 0 then f else { f with loaded := f.active } }
    halted := s.towpath.level2 || alive.isEmpty }
  ((List.range Config.dies).filter fun d => !alive.contains d).foldl (fun s d => logEvent s 3 d) s'

/-! ### Moving reaches (R132) -/

/-- Writes the word at 0x10 of a reach record. -/
def putReach (s : State) (vf addr : Nat) (r : ReachRec) : State := match writeVa s vf (addr + 0x10) (bytesOfNat 8 r.word) with
  | .ok s => s
  | .error _ => s
/-- MIGRATION_SERVICE_MOVE: a VALID reach is marked MIGRATING, its tiles move, and the new home is written as VALID; GEN
counts both changes, and STAMP is kept. A reach of a die that is not ACTIVE goes to the die that takes them (R314). Device
memory keeps its places, so the tiles' bytes do not change; `s0` has the dies as they are. -/
def moveRecord (s0 s : State) (vf addr hdie hbay : Nat) : State :=
  match readVa s vf addr 32 with
  | .ok bs =>
    let r := parseReach bs
    let h := spanClear s vf (addr + 0x10) 8
    if r.st ≠ 1 ∨ 8 ≤ hdie ∨ 8 ≤ hbay ∨ ((dieAt s0 r.hdie).st ≠ .active ∧ targetDie s0 vf ≠ some hdie) then s
    else if !h.1 then h.2
    else
      let s := h.2
      let s := putReach s vf addr { r with st := 2, gen := (r.gen + 1) % 2 ^ 32 }
      putReach s vf addr { r with hdie := hdie, hbay := hbay, gen := (r.gen + 2) % 2 ^ 32 }
  | .error _ => s
/-- The same, on dies that are being drained too (DEDUCED: log entry 42); a drain that waited for it goes on. -/
def moveReach (s : State) (vf addr hdie hbay : Nat) : State :=
  let t := served s (moveRecord s (serving s fun _ => true) vf addr hdie hbay)
  (List.range Config.dies).foldl beginEmptying t

/-- R314. -/
def execDrainFinish (die : Nat) (s : State) : Out := live s fun s => drainDie s 0 die
/-- R314. -/
def execDrainSave (die : Nat) (s : State) : Out := live s fun s => drainDie s 1 die
/-- R314. DEDUCED: log entry 62. -/
def execDieDrainComplete (die : Nat) (s : State) : Out := live s fun s => drainComplete s die
/-- R314. -/
def execReset (die : Nat) (s : State) : Out := live s fun s => resetDie s die
/-- R314. -/
def execDieResetComplete (die : Nat) (s : State) : Out := live s fun s => resetDone s die
/-- R314. -/
def execReturn_ (die : Nat) (s : State) : Out := live s fun s => returnDie s die
/-- R314, R315. -/
def execDieAuthenticated (die : Nat) (ok : Bool) (s : State) : Out := live s fun s => authenticated s die ok
/-- R304, R305. DEDUCED: log entry 63. -/
def execDeviceReset (genuine : List Bool) (s : State) : Out := .next (resetDevice s genuine)
/-- R304. DEDUCED: log entry 62. -/
def execDieFailsInService (die : Nat) (s : State) : Out := live s fun s => dieFails s die
/-- R132, R314. -/
def execMigrationServiceMove (vf addr hdie hbay : Nat) (s : State) : Out := live s fun s => moveReach s vf addr hdie hbay

end Sys2Proof.Machine
end

