-- ==== Sys2Proof/Machine/Host.lean ====
section
/-! DEFINITION. The host's side of the device: memory through BAR2 (R179, R308), the registers of the functions (R308 to R311,
R327), the quota blocks (R310) and the device registers of the PF (R313, R336), and the mailbox's registers (R354). -/

namespace Sys2Proof.Machine

/-! ### Memory through BAR2 (R179, R308, R316) -/

/-- Where the bytes of a host access lie: none where one must wait for a die, and a byte without a place is none.
DEDUCED: log entry 59. -/
def hostLocs (s : State) (fn gpa : Nat) (wr : Bool) (n : Nat) : Option (List (Option Loc)) :=
  (List.range n).mapM fun i => match walk2 s fn ((gpa + i) % 2 ^ 51) with
    | .ok (k, r, w) => some (if (if wr then w else r) then some (.dev k) else none)
    | .error .wait => none
    | .error (.code _) => some none

/-- A host write takes its place in S: after every lease and every write of the function's lines; each of them counts it, those
that nothing has touched since by `hostTime` (R178, R179). DEDUCED: log entry 59. -/
def hostStamp (s : State) (fn : Nat) : State :=
  let ts := (s.lines.filter fun x => x.1.vf == fn && decide (x.1.tensor < 2 ^ 16)).map (·.1)
  let now := max (writeTime s ts (engTime s)) ((vfAt s fn).hostTime + 1)
  { updVf (writeLines s ts now) fn fun v => { v with hostTime := now } with etime := now }
/-- A host write enters S, once no peer holds its lines (R328). A write that must wait has not entered S.
DEDUCED: log entry 59. -/
def hostWrite (s : State) (fn gpa : Nat) (data : List Byte) : State :=
  if 2 ^ 51 ≤ gpa then { s with hostMem := memWrite s.hostMem (gpa % 2 ^ 51) data }
  else match hostLocs s fn gpa true data.length with
    | none => s
    | some ls =>
      let h := homeClear s fn (ls.filterMap id)
      if !h.1 then h.2
      else
        hostStamp (putLocs h.2 fn ((ls.zip data).filterMap fun x => x.1.map fun l => (l, x.2))) fn

/-! ### What registers read (R308 to R313, R327, R336, R354) -/

/-- A field of a block: offset, bytes, value. -/
abbrev RegField := Nat × Nat × Nat

/-- The registers of a function in its BAR0. A launch queue outside the quota reads 0 (R309). -/
def funcRegs (s : State) (fn : Nat) : List RegField :=
  let v := vfAt s fn
  [(0, 4, fn), (0x08, 8, v.s1root), (0x10, 8, v.ttbase), (0x18, 8, v.qtbase), (0x20, 8, v.trapcode), (0x28, 8, v.frbase + v.frlog2n),
    (0x30, 4, v.frhead), (0x34, 4, v.frtail), (0x38, 8, v.fobj), (0x40, 4, v.fresume), (0x44, 4, v.fkill), (0x48, 4, v.labort),
    (0x4C, 4, v.intst.toNat), (0x50, 4, v.inten), (0x58, 8, v.svcstart), (0x60, 8, v.exbase), (0x68, 8, v.imbase), (0x70, 8, v.uqbase),
    (0x78, 4, v.uqsize), (0x80, 4, v.trapsize)] ++
  (List.range (lqCount s fn)).flatMap fun q =>
    let x := v.lq.getD q {}
    [(0x100 + 16 * q, 8, x.base + (if x.err then 16 else 0) + x.log2n), (0x108 + 16 * q, 4, x.head), (0x10C + 16 * q, 4, x.tail)]

/-- The quota block of a VF (R310); QUADS reads as it was last written. -/
def quotaRegs (s : State) (vf : Nat) : List RegField :=
  let v := vfAt s vf
  [(0, 4, (if v.en then 2 ^ 31 else 0) + (if v.ts then 2 ^ 30 else 0) + v.lqn * 256 + v.fragq), (4, 4, v.qfirst * 2 ^ 16 + v.qcount),
    (8, 4, v.fslot * 2 ^ 16 + v.wharfq), (12, 4, v.wsbase * 2 ^ 16 + v.wssize), (0x10, 12, v.chan), (0x20, 32, v.quadsNext.getD v.quads),
    (0x40, 8, v.ctxbase), (0x48, 8, v.ctxsize)] ++ (List.range 8).map fun i => (0x50 + 8 * i, 8, v.s2root.getD i 0)

/-- DSTATE (R313). -/
def DieState.code : DieState → Nat
  | .active => 0 | .draining => 1 | .drained => 2 | .resetting => 3 | .fenced => 4

/-- Fields of a width side by side, the first lowest. -/
def packBits (w : Nat) : List Nat → Nat
  | [] => 0
  | x :: xs => x % 2 ^ w + 2 ^ w * packBits w xs

/-- The device registers of the PF (R313, R336). -/
def deviceRegs (s : State) : List RegField :=
  [(0x8000, 8, packBits 8 (s.dies.map (·.st.code))), (0x8008, 16, packBits 16 s.dcap), (0x8018, 4, s.elect), (0x8020, 24, packBits 3 s.stripe),
    (0x8040, 4, (if s.drGo then 2 ^ 31 else 0) + s.drOp * 256 + s.drDie), (0x8048, 4, s.tslen), (0x8050, 4, s.pod.pelq),
    (0x8054, 4, s.pod.ship * 2 ^ 24 + s.pod.high * 2 ^ 12 + s.pod.low)] ++ s.bays.mapIdx fun i b => (0x8100 + 4 * i, 4, packBits 8 b.quanta)

/-- The mailbox (R354). -/
def mailboxRegs (s : State) : List RegField :=
  let t := s.towpath
  [(0, 4, (if t.go then 2 ^ 31 else 0) + t.op * 256 + t.arg), (4, 4, t.status * 2 ^ 24 + t.value), (8, 8, t.buf), (0x10, 4, t.len),
    (0x14, 4, (if t.l1 then 4 else 0) + (if t.level2 then 2 else if t.l1 then 1 else 0))]

/-- A byte of a block; a byte in no field reads 0. -/
def fieldByte (fs : List RegField) (a : Nat) : Byte :=
  match fs.find? fun f => decide (f.1 ≤ a) && decide (a < f.1 + f.2.1) with
  | some f => BitVec.ofNat 8 (f.2.2 / 256 ^ (a - f.1))
  | none => 0
def fieldRead (fs : List RegField) (a n : Nat) : List Byte := (List.range n).map fun i => fieldByte fs (a + i)

/-- The blocks of a function's BAR0; those past its own registers are the PF's. -/
def regFields (s : State) (fn off : Nat) : List RegField :=
  if off < 0x8000 then funcRegs s fn
  else if fn ≠ 0 then []
  else if off < 0x10000 then deviceRegs s
  else
    let vf := (off - 0x10000) / 256
    if 1 ≤ vf ∧ vf ≤ Config.vfs then (quotaRegs s vf).map fun f => (0x10000 + 256 * vf + f.1, f.2) else []

/-- No die has survived: the device has not joined the host link (R304). -/
def noLink (s : State) : Bool := s.dies.all (·.st == .fenced)
/-- A register read of a function at a BAR0 offset; the PF's BAR4 is counted from 2^20. While the Towpath restarts its
mailbox reads all ones (R359); a stopped module aborts every request but those of the mailbox, which alone can end the
alarm (R361). DEDUCED: log entry 64. -/
def regRead (s : State) (fn off n : Nat) : State :=
  if noLink s then { s with hostReadback := [] }
  else if 2 ^ 20 ≤ off then
    if fn ≠ 0 then s
    else if s.towpath.restarting then { s with hostReadback := List.replicate n 0xFF }
    else { s with hostReadback := fieldRead (mailboxRegs s) (off - 2 ^ 20) n }
  else if s.halted then { s with hostReadback := [] }
  else { s with hostReadback := fieldRead (regFields s fn off) off n }

/-- The PF reads a register of the capacities: they are counted afresh (R307, R313). DESIGN CHOICE: log entry 94. -/
def countCaps (s : State) : State :=
  { s with
    dcap := (List.range Config.dies).map fun d => (Config.dieCapacity d s.freeCtr).toNat
    freeCtr := s.freeCtr + 1 }

/-- A host read returns the values at their homes; a byte that cannot be reached reads all ones. -/
def hostRead (s : State) (fn gpa n : Nat) : State :=
  if 2 ^ 51 ≤ gpa then { s with hostReadback := memRead s.hostMem (gpa % 2 ^ 51) n }
  else match hostLocs s fn gpa false n with
    | none => s
    | some ls => { s with hostReadback := ls.map fun l => match l with
        | some l => locGet s fn l
        | none => 0xFF }

/-! ### Registers with an effect -/

/-- R308: the new root, and the cached translations of the function go as `tlbinv` with KIND VFALL drops them. -/
def s1rootWrite (s : State) (fn v : Nat) : State := invalTlb (updVf s fn fun x => { x with s1root := v % 2 ^ 64 }) fn 1 0

/-- R262: FRBASE with FRLOG2N (0x28) or FRTAIL (0x34), and the waiting records are tried again. -/
def frWrite (s : State) (fn off v : Nat) : State :=
  let s := if off = 0x28 then updVf s fn fun x => { x with frbase := v % 2 ^ 64 / 4096 * 4096, frlog2n := v % 16 }
    else updVf s fn fun x => { x with frtail := v % 2 ^ 32 }
  retryRecords s fn

/-- R263: the fragment of the function that an id names is resumed or killed. -/
def fragWrite (s : State) (fn id : Nat) (k : Bool) : State :=
  let s := updVf s fn fun x => if k then { x with fkill := id % 2 ^ 32 } else { x with fresume := id % 2 ^ 32 }
  reap (actFrag s (if fn = 0 then none else some fn) (id % 2 ^ 32) k)

/-- R310: device queues of a VF that is to be enabled fit, and meet no enabled VF's. -/
def queuesFree (s : State) (vf : Nat) : Bool :=
  let v := vfAt s vf
  decide (v.qfirst + v.qcount ≤ 4096) && ((List.range 193).all fun u =>
    u == vf || !(vfAt s u).en || decide ((vfAt s u).qfirst + (vfAt s u).qcount ≤ v.qfirst) || decide (v.qfirst + v.qcount ≤ (vfAt s u).qfirst) ||
      v.qcount == 0 || (vfAt s u).qcount == 0)

/-- R310, R317: EN. Setting it gives the VF a key; clearing it aborts its launches, ends its service crews, those that wait
too (SVCEND), and erases the key. -/
def enableWrite (s : State) (vf : Nat) (en : Bool) : State :=
  if vf = 0 ∨ 192 < vf ∨ (vfAt s vf).en = en then s
  else if en then
    if !queuesFree s vf then s
    else logEvent { updVf s vf fun v => { v with en := true, key := some s.nextKey } with nextKey := s.nextKey + 1 } 9 vf
  else
    let s := settleIf (fun k => k.vf == vf) s
    let s := mapAllWarps s fun k w => if k.vf = vf then { w with memq := [] } else w
    let s := (s.launches.filter (·.vf == vf)).foldl abortLaunch s
    let s := (s.crews.filter fun (k : Crew) => k.vf == vf && k.service).foldl (fun s k =>
      (List.range k.warps.length).foldl (fun s x => dropFrags s k.id x) s) s
    let s := mapCrews s fun k => if k.vf = vf ∧ k.service then { k with claims := [], warps := k.warps.map killedWarp } else k
    let waiting := serviceCrews s vf - s.crews.countP fun k => k.service && k.vf == vf
    let s := { s with bays := s.bays.map fun (b : Bay) => { b with
      service := b.service.filter (·.1 != vf), queue := b.queue.filter fun q => !(q.launch == 0 && q.vf == vf) } }
    let s := if waiting = 0 then s else interrupt (updVf s vf fun v => { v with svcPend := [] }) vf 2
    let s := reap (afterDeaths s)
    logEvent (updVf s vf fun v => { v with en := false, key := none }) 9 vf

/-- R310: QUADS. While EN = 1 the VF's crews on quads that go are saved before the change takes effect. -/
def quadsWrite (s : State) (vf n : Nat) : State :=
  let n := n % 2 ^ 256
  if vf = 0 ∨ 192 < vf then s
  else if !(vfAt s vf).en then updVf s vf fun v => { v with quads := n }
  else
    let s := updVf s vf fun v => { v with quadsNext := some n }
    settleQuads (askSave s .quads fun k => k.vf == vf && !bitB n (quadOfCore k.core)) vf

/-! ### Plain registers -/

/-- A field of a function's BAR0 that has no effect beyond its value (R308, R327). -/
def plainWrite (x : Vf) (off v : Nat) : Vf :=
  let q := v % 2 ^ 64
  if off = 0x10 then { x with ttbase := q }
  else if off = 0x18 then { x with qtbase := q }
  else if off = 0x20 then { x with trapcode := q }
  else if off = 0x38 then { x with fobj := q }
  else if off = 0x4C then { x with intst := x.intst &&& ~~~(BitVec.ofNat 4 v) }
  else if off = 0x50 then { x with inten := v % 8 }
  else if off = 0x60 then { x with exbase := q }
  else if off = 0x68 then { x with imbase := q }
  else if off = 0x70 then { x with uqbase := q }
  else if off = 0x78 then { x with uqsize := v % 2 ^ 16 }
  else if off = 0x80 then
    if v % 12 = 0 ∧ 768 ≤ v ∧ v ≤ Config.maxCode then { x with trapsize := v } else x
  else x

/-- A launch queue's base and size (R309): a queue outside the quota ignores writes. -/
def lqWrite (s : State) (fn q v : Nat) : State :=
  if lqCount s fn ≤ q then s else setLq s fn q fun x => { x with base := v % 2 ^ 64 / 4096 * 4096, log2n := v % 16 }

/-- Replaces the `n` bits at `lo` of a number. -/
def setBits (x lo n v : Nat) : Nat := x % 2 ^ lo + v % 2 ^ n * 2 ^ lo + x / 2 ^ (lo + n) * 2 ^ (lo + n)

/-- A word of a quota block (R310), kept as written; EN and QUADS come last, as writes of their own. Words of CHAN and QUADS are 32 bits
wide. -/
def quotaWrite (s : State) (vf o v : Nat) : State :=
  if o = 0 then
    enableWrite (updVf s vf fun x => { x with ts := bitB v 30, lqn := fld v 8 5, fragq := fld v 0 8 }) vf (bitB v 31)
  else if o = 4 then updVf s vf fun x => { x with qfirst := fld v 16 16, qcount := fld v 0 13 }
  else if o = 8 then updVf s vf fun x => { x with fslot := fld v 16 16, wharfq := fld v 0 13 }
  else if o = 12 then updVf s vf fun x => { x with wsbase := fld v 16 16, wssize := fld v 0 16 }
  else if o = 0x10 ∨ o = 0x14 ∨ o = 0x18 then updVf s vf fun x => { x with chan := setBits x.chan (8 * (o - 0x10)) 32 v }
  else if 0x20 ≤ o ∧ o < 0x40 ∧ o % 4 = 0 then
    let x := vfAt s vf
    quadsWrite s vf (setBits (x.quadsNext.getD x.quads) (8 * (o - 0x20)) 32 v)
  else if o = 0x40 then updVf s vf fun x => { x with ctxbase := v % 2 ^ 64 }
  else if o = 0x48 then updVf s vf fun x => { x with ctxsize := v % 2 ^ 64 }
  else if 0x50 ≤ o ∧ o < 0x90 ∧ o % 8 = 0 then updVf s vf fun x => { x with s2root := x.s2root.set ((o - 0x50) / 8) (v % 2 ^ 64) }
  else s

/-- The service request register (R313, R314). -/
def requestWrite (s : State) (v : Nat) : State :=
  let op := fld v 8 2
  let die := v % 8
  if !bitB v 31 then { s with drOp := op, drDie := die }
  else if op ≤ 1 then drainDie s op die
  else if op = 2 then resetDie s die
  else returnDie s die

/-- The device registers of the PF (R313, R336). -/
def deviceWrite (s : State) (off v : Nat) : State :=
  if off = 0x8040 then requestWrite s v
  else if off = 0x8048 then { s with tslen := v % 2 ^ 32 }
  else if off = 0x8050 then { s with pod := { s.pod with pelq := setBits (v % 2 ^ 32) 12 11 0 } }
  else if off = 0x8054 then { s with pod := { s.pod with ship := fld v 24 8, high := fld v 12 12, low := fld v 0 12 } }
  else if 0x8100 ≤ off ∧ off < 0x8200 ∧ off % 4 = 0 then
    updBay s ((off - 0x8100) / 4) fun b => { b with quanta := [fld v 0 8, fld v 8 8, fld v 16 8, fld v 24 8] }
  else s

/-- The mailbox (R354), at BAR4 offset `off`: nothing is taken while GO reads 1 or the Towpath restarts. A command whose code
no row names ends at once (R355); L1 has a row of its own. -/
def mailboxWrite (s : State) (off v : Nat) : State :=
  let t := s.towpath
  if t.restarting then s
  else if off = 0x14 ∨ t.go then s
  else if off = 0 then
    let op := fld v 8 8
    let t := { t with op := op, arg := v % 256 }
    if !bitB v 31 then { s with towpath := t }
    else if op = 0 ∨ 6 < op then { s with towpath := { t with status := 2, value := 0 } }
    else { s with towpath := { t with go := true } }
  else if off = 8 then { s with towpath := { t with buf := v % 2 ^ 64 } }
  else if off = 0x10 then { s with towpath := { t with len := v % 2 ^ 32 } }
  else s

/-- A register write of a function, at a BAR0 offset; the PF's BAR4 is counted from 2^20. -/
def regWrite (s : State) (fn off v : Nat) : State :=
  if 192 < fn ∨ noLink s then s
  else if 2 ^ 20 ≤ off then if fn = 0 then mailboxWrite s (off - 2 ^ 20) v else s
  else if s.halted then s
  else if 0x8000 ≤ off then
    if fn ≠ 0 then s
    else if off < 0x10000 then deviceWrite s off v
    else if 256 ≤ off - 0x10000 ∧ off - 0x10000 < 256 * 193 then quotaWrite s ((off - 0x10000) / 256) ((off - 0x10000) % 256) v
    else s
  else if 0x100 ≤ off ∧ off < 0x200 then
    let q := (off - 0x100) / 16
    if off % 16 = 0 then lqWrite s fn q v else if off % 16 = 12 then lqTailWrite s fn q v else s
  else if off = 8 then s1rootWrite s fn v
  else if off = 0x28 ∨ off = 0x34 then frWrite s fn off v
  else if off = 0x40 then fragWrite s fn v false
  else if off = 0x44 then fragWrite s fn v true
  else if off = 0x48 then labortWrite s fn v
  else if off = 0x58 then svcStart s fn v
  else updVf s fn fun x => plainWrite x off v

/-- R179. -/
def execHostWrite (fn gpa : Nat) (data : List Byte) (s : State) : Out := live s fun s => hostWrite s fn gpa data
/-- R179; a stopped module aborts it (R361); from 2^52 on the read is one of the function's registers (R308 to R313, R327, R336, R354).
DEDUCED: log entries 58, 59. -/
def execHostRead (fn gpa n : Nat) (s : State) : Out :=
  if 2 ^ 52 ≤ gpa then
    .next (regRead (if fn = 0 ∧ 0x8008 < gpa - 2 ^ 52 + n ∧ gpa - 2 ^ 52 < 0x8018 then countCaps s else s) fn (gpa - 2 ^ 52) n)
  else .next (if s.halted then { s with hostReadback := [] } else hostRead s fn gpa n)
/-- R308. -/
def execS1rootWrite (fn v : Nat) (s : State) : Out := live s fun s => s1rootWrite s fn v
/-- R262. -/
def execFaultRingConfigWrite (fn off v : Nat) (s : State) : Out :=
  live s fun s => if off = 0x28 ∨ off = 0x34 then frWrite s fn off v else s
/-- R263. -/
def execFresumeWrite (fn id : Nat) (s : State) : Out := live s fun s => fragWrite s fn id false
/-- R263. -/
def execFkillWrite (fn id : Nat) (s : State) : Out := live s fun s => fragWrite s fn id true
/-- R311. -/
def execSvcstartWrite (fn v : Nat) (s : State) : Out := live s fun s => svcStart s fn v
/-- R310. -/
def execVfEnableWrite (vf : Nat) (en : Bool) (s : State) : Out := live s fun s => enableWrite s vf en
/-- R310. -/
def execVfQuadsChange (vf quads : Nat) (s : State) : Out := live s fun s => quadsWrite s vf quads
/-- R308, R310, R313, R327, R336, R354. DEDUCED: log entries 58, 60. -/
def execRegisterWrite (fn off v : Nat) (s : State) : Out := .next (regWrite s fn off v)

end Sys2Proof.Machine
end

