-- ==== Sys2Proof/Machine/Towpath.lean ====
section
/-! DEFINITION. The Towpath (R353 to R361): the mailbox's commands, sensors and the event log, firmware slots, alarms. -/

namespace Sys2Proof.Machine

/-- A command that waits in the mailbox: its code, and LEVEL 2 lets it run (R355). -/
def isCmd (s : State) (op : Nat) : Bool := s.towpath.go && !s.towpath.restarting && s.towpath.op == op
/-- A command ends with a status and a value. -/
def cmdDone (s : State) (status value : Nat) : State :=
  { s with towpath := { s.towpath with go := false, status := status, value := value % 2 ^ 24 } }
/-- Runs a command, or ends it HALTED under a level-2 alarm (R355). -/
def command (s : State) (op : Nat) (f : State → State) : Out :=
  .next (if !isCmd s op then s
    else if s.towpath.level2 ∧ op ≠ 1 ∧ op ≠ 2 ∧ op ≠ 6 then cmdDone s 7 0 else f s)

/-- A reading of a sensor of heat, current or power: a free value. -/
def readSensor (s : State) (i : Nat) : State := cmdDone { s with freeCtr := s.freeCtr + 1 } 0 (Config.sensor i s.freeCtr).toNat
/-- A reading of a die's droop counter: the events since the last one are a free value, and the count saturates (R356). -/
def readDroops (s : State) (die : Nat) : State :=
  let n := min 0xFFFFFF (s.towpath.droops.getD die 0 + (Config.newDroops die s.freeCtr).toNat)
  cmdDone { s with freeCtr := s.freeCtr + 1, towpath := { s.towpath with droops := s.towpath.droops.set die n } } 0 n
/-- R356: one reading; a fenced die reads 0. -/
def execSense (s : State) : Out :=
  command s 1 fun s =>
    let i := s.towpath.arg
    if i < 8 then (if (dieAt s i).st = .fenced then cmdDone s 0 0 else readSensor s i)
    else if 16 ≤ i ∧ i < 24 then (if (dieAt s (i - 16)).st = .fenced then cmdDone s 0 0 else readDroops s (i - 16))
    else if 32 ≤ i ∧ i < 35 then readSensor s i
    else cmdDone s 8 0

/-- The places of the command's buffer: the PF's stage 2 (R354); none while a die that holds some of it is out of service, and
the command waits (R315). -/
def bufLocs (s : State) (n : Nat) : Option (List Loc) :=
  (List.range n).mapM fun i => match locate s 0 ((s.towpath.buf + i) % 2 ^ 52) with
    | .ok (l, _, _) => some l
    | .error _ => none
def bufRead (s : State) (n : Nat) : Option (List Byte) := (bufLocs s n).map fun ls => ls.map (locGet s 0)
/-- An entry of the log as 32 bytes (R357). -/
def logBytes (e : Nat × Nat × Nat) : List Byte := bytesOfNat 8 e.1 ++ bytesOfNat 1 e.2.1 ++ bytesOfNat 1 e.2.2 ++ bytesOfNat 22 0

/-- R357: the newest entries go into the buffer. DEDUCED: log entry 65. -/
def execLogread (s : State) : Out :=
  command s 2 fun s =>
    if s.towpath.arg ≠ 0 then cmdDone s 8 0
    else
      let es := s.towpath.log.take (min (s.towpath.len / 32) 4096)
      match bufLocs s (32 * es.length) with
      | none => s
      | some ls => cmdDone (putLocs s 0 (ls.zip (es.flatMap logBytes))) 0 es.length

/-! ### Firmware (R358, R359) -/

/-- Index of a target's slots: 0 the Towpath, 1 + d die d; none for another ARG. -/
def fwIndex (t : Nat) : Option Nat := if t = 0 then some 0 else if 16 ≤ t ∧ t < 24 then some (t - 15) else none
def fwAt (s : State) (i : Nat) : FwSlot := s.towpath.fw.getD i {}
def updFw (s : State) (i : Nat) (f : FwSlot → FwSlot) : State := { s with towpath := { s.towpath with fw := s.towpath.fw.modify i f } }

/-- Bytes of an LMS signature with LMS_SHA256_M32_H10 and W8 (RFC 8554). PRESUMED: log entry 24. -/
def lmsBytes : Nat := 1452
/-- The format checks of an image: its version, none where it is a bad image (R358). PRESUMED: log entry 24. -/
def imageVersion (target len : Nat) (img : List Byte) : Option Nat :=
  let body := leAt img 12 4
  if len ≠ 512 + body + 96 + lmsBytes ∨ leAt img 0 4 ≠ 0x53574B46 ∨ leAt img 4 1 ≠ target then none
  else if (img.drop 16).take 48 ≠ sha384 ((img.drop 512).take body) then none
  else some (leAt img 8 4)

/-- R360: the throttle begins; the figures of timing are not modelled. -/
def alarm1 (s : State) (die : Nat) : State := logEvent { s with towpath := { s.towpath with l1 := true } } 1 die
/-- A signature is refused: logged, and the third since reset raises a level-1 alarm. -/
def sigRefused (s : State) (target : Nat) : State :=
  let s := logEvent { s with towpath := { s.towpath with sigRefusals := s.towpath.sigRefusals + 1 } } 7 target
  if s.towpath.sigRefusals = 3 then alarm1 s target else s

/-- The outcome of checking an image: a status of refusal, or its version. PRESUMED: log entry 24. -/
def checkImage (target minVer : Nat) (sigOk : Bool) (img : List Byte) : Except Nat Nat :=
  match imageVersion target img.length img with
  | none => .error 5
  | some v => if !sigOk then .error 3 else if v < minVer then .error 4 else .ok v
/-- An image that passes is written to the inactive slot (R358). -/
def stageSlot (v : Nat) (img : List Byte) (f : FwSlot) : FwSlot :=
  if f.active then { f with staged := true, verA := v, imgA := img } else { f with staged := true, verB := v, imgB := img }

/-- R358; `sigOk` is the outcome of the two signature checks. -/
def execStage (sigOk : Bool) (s : State) : Out :=
  command s 3 fun s =>
    let t := s.towpath.arg
    match fwIndex t with
    | none => cmdDone s 8 0
    | some i => match bufRead s s.towpath.len with
      | none => s
      | some img => match checkImage t (fwAt s i).minVer sigOk img with
        | .error st =>
          let s := updFw s i fun f => { f with staged := false }
          cmdDone (if st = 3 then sigRefused s t else s) st 0
        | .ok v => cmdDone (logEvent (updFw s i (stageSlot v img)) 4 t) 0 0

/-- The staged slot becomes the active one, and the minimum version follows. -/
def activateSlot (f : FwSlot) : FwSlot :=
  { f with active := !f.active, staged := false, minVer := max f.minVer (if f.active then f.verA else f.verB) }

/-- R359. DEDUCED: log entry 65. -/
def execActivate (s : State) : Out :=
  command s 4 fun s =>
    let t := s.towpath.arg
    match fwIndex t with
    | none => cmdDone s 8 0
    | some i =>
      if i = 0 then
        if (fwAt s 0).staged then { s with towpath := { s.towpath with restarting := true } } else cmdDone s 5 0
      else if (dieAt s (i - 1)).st ≠ .drained then cmdDone s 6 0
      else if !(fwAt s i).staged then cmdDone s 5 0
      else cmdDone (logEvent (updFw s i activateSlot) 5 t) 0 0

/-- R359: the restart ends, on the new image (`ok`) or on the old one. DEDUCED: log entry 65. -/
def execTowpathRestartComplete (ok : Bool) (s : State) : Out :=
  .next (if !s.towpath.restarting then s
    else
      let s := { s with towpath := { s.towpath with restarting := false } }
      if ok then cmdDone (logEvent (updFw s 0 fun f => let f := activateSlot f; { f with loaded := f.active }) 5 0) 0 0
      else cmdDone (logEvent s 6 0) 0 0)

/-- R355. -/
def execSlots (s : State) : Out :=
  command s 5 fun s => match fwIndex s.towpath.arg with
    | none => cmdDone s 8 0
    | some i =>
      let f := fwAt s i
      cmdDone s 0 ((if f.active then 2 ^ 23 else 0) + (if f.staged then 2 ^ 22 else 0) + (if f.active then f.verB else f.verA) % 2 ^ 16)

/-! ### Alarms (R360, R361) -/

/-- R360: heat, power or droop. DESIGN CHOICE: log entry 66. -/
def execAlarmLevel1 (die : Nat) (s : State) : Out := .next (alarm1 s die)
/-- R360: a write of 1 to L1 ends the throttle unless a cause has persisted. -/
def execAlarmL1Clear (persisted : Bool) (s : State) : Out :=
  .next (if persisted ∨ s.towpath.restarting then s else { s with towpath := { s.towpath with l1 := false } })

/-- R361, steps 1 to 5. -/
def execAlarmLevel2 (s : State) : Out :=
  let busy := s.towpath.go && (s.towpath.op == 3 || s.towpath.op == 4)
  let s := if busy then match fwIndex s.towpath.arg with
    | some i => updFw s i fun f => { f with staged := false }
    | none => s
    else s
  let s := { s with
    vfs := s.vfs.map fun v => { v with key := none, posts := [] }
    crews := [], frags := [], launches := s.launches.map fun l => { l with walks := [], closing := false }
    bays := s.bays.map fun b => { b with queue := [], service := [], ch := b.ch.map fun c => { c with entries := [] } }
    quads := s.quads.map fun q => { q with qme := [], bindings := [], kept := [] }
    dies := s.dies.map fun d => { d with walks := [], misses := [], wq := [] }
    wharf := {}
    fabric := { s.fabric with
      ports := s.fabric.ports.map fun _ => { up := false }
      sendq := [], reqs := [], homeWaits := [], invals := [], sinks := [], relayed := [], routes := []
      held := [], heldData := [], rels := [], frels := [] }
    pod := { s.pod with token := none }
    c := {}, w := {}, old := {}, iss := {}
    towpath := { s.towpath with level2 := true, identityKey := false, go := s.towpath.go && !busy, restarting := false }
    halted := true }
  .next (logEvent s 2 0)

/-- R361: a new identity-wrapping key from a bundle signed as an image with target 0xFF, and the device is reset; no memory
written before can be read under a new key. Which dies authenticate at that reset (R304) is a free value.
DEDUCED: log entries 64, 65. -/
def execReprovision (sigOk : Bool) (s : State) : Out :=
  command s 6 fun s =>
    if s.towpath.arg ≠ 0 then cmdDone s 8 0
    else if !s.towpath.level2 then cmdDone s 2 0
    else match bufRead s s.towpath.len with
      | none => s
      | some img => match checkImage 0xFF 0 sigOk img with
        | .error st => cmdDone (if st = 3 then sigRefused s 0xFF else s) st 0
        | .ok _ =>
          let s := cmdDone { s with towpath := { s.towpath with level2 := false, identityKey := true } } 0 0
          let s := { updVf s 0 fun v => { v with key := some s.nextKey } with nextKey := s.nextKey + 1 }
          let n := fresh s
          resetDevice n.2 ((List.range Config.dies).map (Config.authentic n.1))

end Sys2Proof.Machine
end

