-- ==== Sys2Proof/Machine/Dispatch.lean ====
section
/-! DEFINITION. One arm for each instruction and event: its meaning. -/

namespace Sys2Proof.Machine

/-- The meaning of an instruction or event. -/
def exec (i : Instr) (s : State) : Host.Outcome State Fault Refusal :=
  match i with
  | .sadd d a b => Sys2Proof.Machine.execSadd d a b s
  | .ssub d a b => Sys2Proof.Machine.execSsub d a b s
  | .smul d a b => Sys2Proof.Machine.execSmul d a b s
  | .smulh d a b => Sys2Proof.Machine.execSmulh d a b s
  | .smulhu d a b => Sys2Proof.Machine.execSmulhu d a b s
  | .sand d a b => Sys2Proof.Machine.execSand d a b s
  | .sor d a b => Sys2Proof.Machine.execSor d a b s
  | .sxor d a b => Sys2Proof.Machine.execSxor d a b s
  | .sshl d a b => Sys2Proof.Machine.execSshl d a b s
  | .sshr d a b => Sys2Proof.Machine.execSshr d a b s
  | .ssra d a b => Sys2Proof.Machine.execSsra d a b s
  | .smin d a b => Sys2Proof.Machine.execSmin d a b s
  | .smax d a b => Sys2Proof.Machine.execSmax d a b s
  | .sminu d a b => Sys2Proof.Machine.execSminu d a b s
  | .smaxu d a b => Sys2Proof.Machine.execSmaxu d a b s
  | .smov d a b => Sys2Proof.Machine.execSmov d a b s
  | .sclz d a b => Sys2Proof.Machine.execSclz d a b s
  | .spopc d a b => Sys2Proof.Machine.execSpopc d a b s
  | .sbrev d a b => Sys2Proof.Machine.execSbrev d a b s
  | .sext d a b => Sys2Proof.Machine.execSext d a b s
  | .sins d a b => Sys2Proof.Machine.execSins d a b s
  | .ssel d a b => Sys2Proof.Machine.execSsel d a b s
  | .scmp cc d a b => Sys2Proof.Machine.execScmp cc d a b s
  | .saddi d a imm => Sys2Proof.Machine.execSaddi d a imm s
  | .sli hi d imm => Sys2Proof.Machine.execSli hi d imm s
  | .slik hi d imm => Sys2Proof.Machine.execSlik hi d imm s
  | .vadd u d a b => Sys2Proof.Machine.execVadd u d a b s
  | .vsub u d a b => Sys2Proof.Machine.execVsub u d a b s
  | .vmul u d a b => Sys2Proof.Machine.execVmul u d a b s
  | .vmulh u d a b => Sys2Proof.Machine.execVmulh u d a b s
  | .vmulhu u d a b => Sys2Proof.Machine.execVmulhu u d a b s
  | .vand u d a b => Sys2Proof.Machine.execVand u d a b s
  | .vor u d a b => Sys2Proof.Machine.execVor u d a b s
  | .vxor u d a b => Sys2Proof.Machine.execVxor u d a b s
  | .vshl u d a b => Sys2Proof.Machine.execVshl u d a b s
  | .vshr u d a b => Sys2Proof.Machine.execVshr u d a b s
  | .vsra u d a b => Sys2Proof.Machine.execVsra u d a b s
  | .vmin u d a b => Sys2Proof.Machine.execVmin u d a b s
  | .vmax u d a b => Sys2Proof.Machine.execVmax u d a b s
  | .vminu u d a b => Sys2Proof.Machine.execVminu u d a b s
  | .vmaxu u d a b => Sys2Proof.Machine.execVmaxu u d a b s
  | .vaddmin u d a b => Sys2Proof.Machine.execVaddmin u d a b s
  | .vmad u d a b => Sys2Proof.Machine.execVmad u d a b s
  | .vaddsat u d a b => Sys2Proof.Machine.execVaddsat u d a b s
  | .vsubsat u d a b => Sys2Proof.Machine.execVsubsat u d a b s
  | .vabsdiff u d a b => Sys2Proof.Machine.execVabsdiff u d a b s
  | .vext u d a b => Sys2Proof.Machine.execVext u d a b s
  | .vins u d a b => Sys2Proof.Machine.execVins u d a b s
  | .vmorton u d a b => Sys2Proof.Machine.execVmorton u d a b s
  | .vcellh u d a b => Sys2Proof.Machine.execVcellh u d a b s
  | .vnot d a => Sys2Proof.Machine.execVnot d a s
  | .vneg d a => Sys2Proof.Machine.execVneg d a s
  | .vabs d a => Sys2Proof.Machine.execVabs d a s
  | .vclz d a => Sys2Proof.Machine.execVclz d a s
  | .vpopc d a => Sys2Proof.Machine.execVpopc d a s
  | .vbrev d a => Sys2Proof.Machine.execVbrev d a s
  | .vmov d a => Sys2Proof.Machine.execVmov d a s
  | .vbcastS d a => Sys2Proof.Machine.execVbcastS d a s
  | .vcmp cc d a b => Sys2Proof.Machine.execVcmp cc d a b s
  | .vaddi d a imm => Sys2Proof.Machine.execVaddi d a imm s
  | .vli hi d imm => Sys2Proof.Machine.execVli hi d imm s
  | .vsel u n d a b => Sys2Proof.Machine.execVsel u n d a b s
  | .pand d a b => Sys2Proof.Machine.execPand d a b s
  | .por d a b => Sys2Proof.Machine.execPor d a b s
  | .pxor d a b => Sys2Proof.Machine.execPxor d a b s
  | .pandn d a b => Sys2Proof.Machine.execPandn d a b s
  | .pnot d a => Sys2Proof.Machine.execPnot d a s
  | .pmov d a => Sys2Proof.Machine.execPmov d a s
  | .vfadd u d a b => Sys2Proof.Machine.execVfadd u d a b s
  | .vfsub u d a b => Sys2Proof.Machine.execVfsub u d a b s
  | .vfmul u d a b => Sys2Proof.Machine.execVfmul u d a b s
  | .vffma u d a b => Sys2Proof.Machine.execVffma u d a b s
  | .vfmin u d a b => Sys2Proof.Machine.execVfmin u d a b s
  | .vfmax u d a b => Sys2Proof.Machine.execVfmax u d a b s
  | .vfcpys u d a b => Sys2Proof.Machine.execVfcpys u d a b s
  | .vfabsd u d a b => Sys2Proof.Machine.execVfabsd u d a b s
  | .vdadd d a b => Sys2Proof.Machine.execVdadd d a b s
  | .vdsub d a b => Sys2Proof.Machine.execVdsub d a b s
  | .vdmul d a b => Sys2Proof.Machine.execVdmul d a b s
  | .vdfma d a b => Sys2Proof.Machine.execVdfma d a b s
  | .vdmin d a b => Sys2Proof.Machine.execVdmin d a b s
  | .vdmax d a b => Sys2Proof.Machine.execVdmax d a b s
  | .vhadd2 f d a b => Sys2Proof.Machine.execVhadd2 f d a b s
  | .vhsub2 f d a b => Sys2Proof.Machine.execVhsub2 f d a b s
  | .vhmul2 f d a b => Sys2Proof.Machine.execVhmul2 f d a b s
  | .vhfma2 f d a b => Sys2Proof.Machine.execVhfma2 f d a b s
  | .vfcmp cc d a b => Sys2Proof.Machine.execVfcmp cc d a b s
  | .vfcmpF64 cc d a b => Sys2Proof.Machine.execVfcmpF64 cc d a b s
  | .vcvtF32F64 d a sat rm => Sys2Proof.Machine.execVcvtF32F64 d a sat rm s
  | .vcvtF64F32 d a => Sys2Proof.Machine.execVcvtF64F32 d a s
  | .vcvtF32I32 d a sat rm => Sys2Proof.Machine.execVcvtF32I32 d a sat rm s
  | .vcvtF32O32 d a sat rm => Sys2Proof.Machine.execVcvtF32O32 d a sat rm s
  | .vcvtI32F32 d a rm => Sys2Proof.Machine.execVcvtI32F32 d a rm s
  | .vcvtO32F32 d a rm => Sys2Proof.Machine.execVcvtO32F32 d a rm s
  | .vcvtF64I32 d a => Sys2Proof.Machine.execVcvtF64I32 d a s
  | .vcvtI32F64 d a rm => Sys2Proof.Machine.execVcvtI32F64 d a rm s
  | .vcvtF19F32 d a sat rm => Sys2Proof.Machine.execVcvtF19F32 d a sat rm s
  | .vcvtBf16x2F32 d a sat rm => Sys2Proof.Machine.execVcvtBf16x2F32 d a sat rm s
  | .vcvtF16x2F32 d a sat rm => Sys2Proof.Machine.execVcvtF16x2F32 d a sat rm s
  | .vcvtF32x2F16x2 d a => Sys2Proof.Machine.execVcvtF32x2F16x2 d a s
  | .vcvtE4m3x4F32 d a sat rm => Sys2Proof.Machine.execVcvtE4m3x4F32 d a sat rm s
  | .vcvtE5m2x4F32 d a sat rm => Sys2Proof.Machine.execVcvtE5m2x4F32 d a sat rm s
  | .vcvtI16x2F32 d a rm => Sys2Proof.Machine.execVcvtI16x2F32 d a rm s
  | .vcvtO8x4F32 d a rm => Sys2Proof.Machine.execVcvtO8x4F32 d a rm s
  | .vfrcp la d a => Sys2Proof.Machine.execVfrcp la d a s
  | .vfrsq la d a => Sys2Proof.Machine.execVfrsq la d a s
  | .vfsqrt la d a => Sys2Proof.Machine.execVfsqrt la d a s
  | .vfexp2 la d a => Sys2Proof.Machine.execVfexp2 la d a s
  | .vflog2 la d a => Sys2Proof.Machine.execVflog2 la d a s
  | .vfsin la d a => Sys2Proof.Machine.execVfsin la d a s
  | .vfcos la d a => Sys2Proof.Machine.execVfcos la d a s
  | .vftanh la d a => Sys2Proof.Machine.execVftanh la d a s
  | .hrnd la d ua ub => Sys2Proof.Machine.execHrnd la d ua ub s
  | .vshflUp la d ua m => Sys2Proof.Machine.execVshflUp la d ua m s
  | .vshflDown la d ua m => Sys2Proof.Machine.execVshflDown la d ua m s
  | .vshflXor la d ua m => Sys2Proof.Machine.execVshflXor la d ua m s
  | .vshflIdx la d m => Sys2Proof.Machine.execVshflIdx la d m s
  | .vbcast la d ua m => Sys2Proof.Machine.execVbcast la d ua m s
  | .vvoteAny la d ps m => Sys2Proof.Machine.execVvoteAny la d ps m s
  | .vvoteAll la d ps m => Sys2Proof.Machine.execVvoteAll la d ps m s
  | .vballot la d ps m => Sys2Proof.Machine.execVballot la d ps m s
  | .vredStep la d ua op m => Sys2Proof.Machine.execVredStep la d ua op m s
  | .vscanStep la d ua op m => Sys2Proof.Machine.execVscanStep la d ua op m s
  | .br p off => Sys2Proof.Machine.execBr p off s
  | .call p off => Sys2Proof.Machine.execCall p off s
  | .bvSplit p off => Sys2Proof.Machine.execBvSplit p off s
  | .bvAny p off => Sys2Proof.Machine.execBvAny p off s
  | .bvAll p off => Sys2Proof.Machine.execBvAll p off s
  | .bvUni p off => Sys2Proof.Machine.execBvUni p off s
  | .ret a => Sys2Proof.Machine.execRet a s
  | .brx a => Sys2Proof.Machine.execBrx a s
  | .exit => Sys2Proof.Machine.execExit s
  | .nop => Sys2Proof.Machine.execNop s
  | .yieldL => Sys2Proof.Machine.execYieldL s
  | .bar n => Sys2Proof.Machine.execBar n s
  | .barq n => Sys2Proof.Machine.execBarq n s
  | .safe n => Sys2Proof.Machine.execSafe n s
  | .ld la d a v sx poll sz => Sys2Proof.Machine.execLd la d a v sx poll sz s
  | .st la d a v sz => Sys2Proof.Machine.execSt la d a v sz s
  | .ldt la d a v sz hs => Sys2Proof.Machine.execLdt la d a v sz hs s
  | .stt la d a v sz hs => Sys2Proof.Machine.execStt la d a v sz hs s
  | .lds la d a v sx sz => Sys2Proof.Machine.execLds la d a v sx sz s
  | .sts la d a v sz => Sys2Proof.Machine.execSts la d a v sz s
  | .ldw la d a v sx sz => Sys2Proof.Machine.execLdw la d a v sx sz s
  | .atom la d a v dbl op => Sys2Proof.Machine.execAtom la d a v dbl op s
  | .atomf la d a v op => Sys2Proof.Machine.execAtomf la d a v op s
  | .cas la d a v dbl => Sys2Proof.Machine.execCas la d a v dbl s
  | .satom la d a v dbl op => Sys2Proof.Machine.execSatom la d a v dbl op s
  | .satomCas la d a v dbl => Sys2Proof.Machine.execSatomCas la d a v dbl s
  | .prefetch a v => Sys2Proof.Machine.execPrefetch a v s
  | .discard a v => Sys2Proof.Machine.execDiscard a v s
  | .writeback a v => Sys2Proof.Machine.execWriteback a v s
  | .tdesc la d a => Sys2Proof.Machine.execTdesc la d a s
  | .binit la d a sp => Sys2Proof.Machine.execBinit la d a sp s
  | .barrive la d a sp => Sys2Proof.Machine.execBarrive la d a sp s
  | .bwait la d a sp => Sys2Proof.Machine.execBwait la d a sp s
  | .bquery la d a sp => Sys2Proof.Machine.execBquery la d a sp s
  | .xcopy la d ua ub => Sys2Proof.Machine.execXcopy la d ua ub s
  | .cpoll la d ua => Sys2Proof.Machine.execCpoll la d ua s
  | .csleep la d ua => Sys2Proof.Machine.execCsleep la d ua s
  | .cpop la d ua => Sys2Proof.Machine.execCpop la d ua s
  | .xwp la d ua => Sys2Proof.Machine.execXwp la d ua s
  | .qfence ua => Sys2Proof.Machine.execQfence ua s
  | .drain scope => Sys2Proof.Machine.execDrain scope s
  | .mmaAcc la d ua k => Sys2Proof.Machine.execMmaAcc la d ua k s
  | .mmaZero la d ua k => Sys2Proof.Machine.execMmaZero la d ua k s
  | .mout la d ua k => Sys2Proof.Machine.execMout la d ua k s
  | .mclear ua k => Sys2Proof.Machine.execMclear ua k s
  | .mwait ua => Sys2Proof.Machine.execMwait ua s
  | .mtest la d ua => Sys2Proof.Machine.execMtest la d ua s
  | .mcancel la d ua => Sys2Proof.Machine.execMcancel la d ua s
  | .qpush la d ua => Sys2Proof.Machine.execQpush la d ua s
  | .qpop ua => Sys2Proof.Machine.execQpop ua s
  | .qpopLanes d ua => Sys2Proof.Machine.execQpopLanes d ua s
  | .qstat la d ua => Sys2Proof.Machine.execQstat la d ua s
  | .qclose ua => Sys2Proof.Machine.execQclose ua s
  | .launch la d ua => Sys2Proof.Machine.execLaunch la d ua s
  | .lwait ua => Sys2Proof.Machine.execLwait ua s
  | .rgive n => Sys2Proof.Machine.execRgive n s
  | .rclaim n => Sys2Proof.Machine.execRclaim n s
  | .wsend la d ua => Sys2Proof.Machine.execWsend la d ua s
  | .wpost la d ua => Sys2Proof.Machine.execWpost la d ua s
  | .wprobe la d ua => Sys2Proof.Machine.execWprobe la d ua s
  | .wcancel la d ua => Sys2Proof.Machine.execWcancel la d ua s
  | .wtest la d ua => Sys2Proof.Machine.execWtest la d ua s
  | .fencePodRel => Sys2Proof.Machine.execFencePodRel s
  | .fencePodAcq => Sys2Proof.Machine.execFencePodAcq s
  | .fencePod => Sys2Proof.Machine.execFencePod s
  | .trap n => Sys2Proof.Machine.execTrap n s
  | .sret => Sys2Proof.Machine.execSret s
  | .srd la d idx v => Sys2Proof.Machine.execSrd la d idx v s
  | .swr d idx v => Sys2Proof.Machine.execSwr d idx v s
  | .sleep ua => Sys2Proof.Machine.execSleep ua s
  | .wake ua => Sys2Proof.Machine.execWake ua s
  | .fstat la d ua => Sys2Proof.Machine.execFstat la d ua s
  | .fresume ua => Sys2Proof.Machine.execFresume ua s
  | .fkill ua => Sys2Proof.Machine.execFkill ua s
  | .tlbinv ua => Sys2Proof.Machine.execTlbinv ua s
  | .lres ua => Sys2Proof.Machine.execLres ua s
  | .wsopen ua => Sys2Proof.Machine.execWsopen ua s
  | .wsclose ua => Sys2Proof.Machine.execWsclose ua s
  | .rep count mask sd sa sb => Sys2Proof.Machine.execRep count mask sd sa sb s
  | .repeatIssue => Sys2Proof.Machine.execRepeatIssue s
  | .illegalWord k => Sys2Proof.Machine.execIllegalWord k s
  | .fetchFault => Sys2Proof.Machine.execFetchFault s
  | .resultArrives c x id => Sys2Proof.Machine.execResultArrives c x id s
  | .storePerformed c x => Sys2Proof.Machine.execStorePerformed c x s
  | .atomicPerformed c x => Sys2Proof.Machine.execAtomicPerformed c x s
  | .leaseExpiry core n => Sys2Proof.Machine.execLeaseExpiry core n s
  | .wsRefreshWindow die => Sys2Proof.Machine.execWsRefreshWindow die s
  | .issueAgePromotion c x => Sys2Proof.Machine.execIssueAgePromotion c x s
  | .sleepExpiry c x => Sys2Proof.Machine.execSleepExpiry c x s
  | .lqTailWrite fn q v => Sys2Proof.Machine.execLqTailWrite fn q v s
  | .launchAccept vf q => Sys2Proof.Machine.execLaunchAccept vf q s
  | .launchWalkStart l => Sys2Proof.Machine.execLaunchWalkStart l s
  | .tillerEvaluateReach l die => Sys2Proof.Machine.execTillerEvaluateReach l die s
  | .tillerPush l die => Sys2Proof.Machine.execTillerPush l die s
  | .launchDone l => Sys2Proof.Machine.execLaunchDone l s
  | .labortWrite fn id => Sys2Proof.Machine.execLabortWrite fn id s
  | .sluicePlaceCrew bay => Sys2Proof.Machine.execSluicePlaceCrew bay s
  | .saveBundleLimit c x => Sys2Proof.Machine.execSaveBundleLimit c x s
  | .crewSave c => Sys2Proof.Machine.execCrewSave c s
  | .crewRestore c core => Sys2Proof.Machine.execCrewRestore c core s
  | .timeSliceEnd => Sys2Proof.Machine.execTimeSliceEnd s
  | .bteChunk bay => Sys2Proof.Machine.execBteChunk bay s
  | .bteCompletion bay ch => Sys2Proof.Machine.execBteCompletion bay ch s
  | .qmeGrant quad => Sys2Proof.Machine.execQmeGrant quad s
  | .qmeCompletion quad e => Sys2Proof.Machine.execQmeCompletion quad e s
  | .qmeEntryAging quad e => Sys2Proof.Machine.execQmeEntryAging quad e s
  | .workqRequestServed die n => Sys2Proof.Machine.execWorkqRequestServed die n s
  | .refillArrival quad n => Sys2Proof.Machine.execRefillArrival quad n s
  | .stealEntriesArrive src es => Sys2Proof.Machine.execStealEntriesArrive src es s
  | .faultRecordWrite vf => Sys2Proof.Machine.execFaultRecordWrite vf s
  | .pageWalkComplete die n => Sys2Proof.Machine.execPageWalkComplete die n s
  | .hostWrite fn gpa data => Sys2Proof.Machine.execHostWrite fn gpa data s
  | .hostRead fn gpa n => Sys2Proof.Machine.execHostRead fn gpa n s
  | .s1rootWrite fn v => Sys2Proof.Machine.execS1rootWrite fn v s
  | .faultRingConfigWrite fn off v => Sys2Proof.Machine.execFaultRingConfigWrite fn off v s
  | .fresumeWrite fn id => Sys2Proof.Machine.execFresumeWrite fn id s
  | .fkillWrite fn id => Sys2Proof.Machine.execFkillWrite fn id s
  | .svcstartWrite fn v => Sys2Proof.Machine.execSvcstartWrite fn v s
  | .vfEnableWrite vf en => Sys2Proof.Machine.execVfEnableWrite vf en s
  | .vfQuadsChange vf quads => Sys2Proof.Machine.execVfQuadsChange vf quads s
  | .drainFinish die => Sys2Proof.Machine.execDrainFinish die s
  | .drainSave die => Sys2Proof.Machine.execDrainSave die s
  | .dieDrainComplete die => Sys2Proof.Machine.execDieDrainComplete die s
  | .reset die => Sys2Proof.Machine.execReset die s
  | .dieResetComplete die => Sys2Proof.Machine.execDieResetComplete die s
  | .return_ die => Sys2Proof.Machine.execReturn_ die s
  | .dieAuthenticated die ok => Sys2Proof.Machine.execDieAuthenticated die ok s
  | .deviceReset genuine => Sys2Proof.Machine.execDeviceReset genuine s
  | .linkStateChange port up => Sys2Proof.Machine.execLinkStateChange port up s
  | .peerPathTimeout dev => Sys2Proof.Machine.execPeerPathTimeout dev s
  | .rdreq f => Sys2Proof.Machine.execRdreq f s
  | .wrreq f => Sys2Proof.Machine.execWrreq f s
  | .atomreq f => Sys2Proof.Machine.execAtomreq f s
  | .resp f => Sys2Proof.Machine.execResp f s
  | .inval f => Sys2Proof.Machine.execInval f s
  | .invack f => Sys2Proof.Machine.execInvack f s
  | .frel f => Sys2Proof.Machine.execFrel f s
  | .fack f => Sys2Proof.Machine.execFack f s
  | .whdr f => Sys2Proof.Machine.execWhdr f s
  | .wpull f => Sys2Proof.Machine.execWpull f s
  | .wdone f => Sys2Proof.Machine.execWdone f s
  | .wharfLandingComplete n => Sys2Proof.Machine.execWharfLandingComplete n s
  | .dataFlit f => Sys2Proof.Machine.execDataFlit f s
  | .lack f => Sys2Proof.Machine.execLack f s
  | .lnak f => Sys2Proof.Machine.execLnak f s
  | .invalidFlit port lseq vf => Sys2Proof.Machine.execInvalidFlit port lseq vf s
  | .token f => Sys2Proof.Machine.execToken f s
  | .tokenPass => Sys2Proof.Machine.execTokenPass s
  | .tokenTimeout => Sys2Proof.Machine.execTokenTimeout s
  | .sense => Sys2Proof.Machine.execSense s
  | .logread => Sys2Proof.Machine.execLogread s
  | .stage sigOk => Sys2Proof.Machine.execStage sigOk s
  | .activate => Sys2Proof.Machine.execActivate s
  | .towpathRestartComplete ok => Sys2Proof.Machine.execTowpathRestartComplete ok s
  | .slots => Sys2Proof.Machine.execSlots s
  | .reprovision sigOk => Sys2Proof.Machine.execReprovision sigOk s
  | .alarmLevel1 die => Sys2Proof.Machine.execAlarmLevel1 die s
  | .alarmL1Clear persisted => Sys2Proof.Machine.execAlarmL1Clear persisted s
  | .alarmLevel2 => Sys2Proof.Machine.execAlarmLevel2 s
  | .registerWrite fn off v => Sys2Proof.Machine.execRegisterWrite fn off v s
  | .migrationServiceMove vf addr hdie hbay => Sys2Proof.Machine.execMigrationServiceMove vf addr hdie hbay s
  | .dieFailsInService die => Sys2Proof.Machine.execDieFailsInService die s

end Sys2Proof.Machine
end

