-- ==== Sys2Proof/Machine/Issue.lean ====
section
/-! DEFINITION. Issue: the bundle and its checks (R11, R15, R16, R19, R22), the order of its words (R13, R289), what follows
a bundle (R105, R110, R14, R16), and which of the device's own steps comes next where nothing has been chosen. -/

namespace Sys2Proof.Machine

/-! ### The bundle -/

/-- Some two members satisfy `p`. -/
def somePair {α : Type} (p : α → α → Bool) : List α → Bool
  | [] => false
  | x :: xs => xs.any (p x) || somePair p xs

/-- The words that are instructions, with their places. -/
def decoded (ws : List Nat) : List (Nat × Instr) :=
  (ws.mapIdx fun p w => (p, decodeWord w)).filterMap fun x => match x.2 with
    | .ok i => some (x.1, i)
    | .error _ => none

/-- R11: the bundle is illegal. DEDUCED: log entry 29. -/
def bundleBad (f : Nat → Option Nat) (x : Nat) (ws : List Nat) : Bool :=
  chainBefore f x || ((ws.mapIdx fun p w => chained w && (x + p) % 3 == 2).any id) ||
    (decide (1 < ws.length) && ws.any fun w => fld w 25 6 == 0x3F) ||
    somePair (fun i j => pipeOf i == pipeOf j || conflict i j) ((decoded ws).map (·.2))

/-- The class of a word's own check before the bundle begins. A `trap` bundled with a memory word is looked at again
once the failing lanes are known (R270). -/
def preKill (s : State) (mem : Bool) (i : Instr) : Option KillClass :=
  match i with
  | .trap _ => killOf i (if mem then { s with iss := { s.iss with faulted := s.iss.active } } else s)
  | _ => killOf i s

/-- The lowest class of a list (R23). -/
def lowestClass (ks : List KillClass) : Option KillClass :=
  ks.foldl (fun m k => match m with
    | some c => if k.code < c.code then some k else some c
    | none => some k) none

/-- R15, R16, R22: every class that holds of a bundle. A prefix in it, with what follows, breaks check 1 of R19 and
nothing else counts (R28). -/
def classesOf (s : State) (f : Nat → Option Nat) (ws : List Nat) (short : Bool) : List KillClass :=
  let us := ws.takeWhile fun w => fld w 25 6 != 0x3F
  let is := (decoded us).map (·.2)
  (if short then [.fetch] else []) ++
  (us.filterMap fun w => match decodeWord w with
    | .error k => some k
    | .ok _ => none) ++
  (if bundleBad f s.iss.pc.toNat ws then [.bundle] else []) ++
  is.filterMap (preKill s (is.any fun i => pipeOf i == .m)) ++
  (if is.any (breaches s.w) then [.lookahead] else [])

/-- A word that changes the window of its warp: the other words of its bundle have been checked against the window as it
stands before (R28, R157). -/
def resizes : Instr → Bool
  | .rgive _ | .rclaim _ => true
  | _ => false

/-- The memory word acts first (R289), then the word of pipe S, then the others; a change of the window comes last. Where a
memory word has its lanes wait and the word of pipe S gives them another state, the latter stands.
DEDUCED: log entry 81. -/
def issueOrder (is : List (Nat × Instr)) : List (Nat × Instr) :=
  (is.filter fun x => pipeOf x.2 == .m) ++ (is.filter fun x => pipeOf x.2 == .s && !resizes x.2) ++
    (is.filter fun x => pipeOf x.2 != .m && pipeOf x.2 != .s) ++ is.filter fun x => pipeOf x.2 == .s && resizes x.2

/-- A word at its place; what the warp issued before is performed first where the word asks for it. -/
def atWord (s : State) (p : Nat) (i : Instr) : State :=
  let s := { s with iss := { s.iss with pos := p } }
  if afterPerformed i then settle s else s

/-- The further words of a bundle: where one kills or must wait, no word has taken effect, as in `s0` (R22).
DESIGN CHOICE: log entry 2. -/
def runRest (s0 : State) : State → List (Nat × Instr) → Out
  | s, [] => .next s
  | s, (p, i) :: is =>
    let s := atWord s p i
    match killOf i s with
    | some k => exec (.illegalWord k) s0
    | none =>
      match exec i s with
      | .next t => if t.iss.stall then .next { s0 with iss := { s0.iss with stall := true } } else runRest s0 t is
      | o => o

/-- The words of a legal bundle in their order. -/
def runWords (s : State) : List (Nat × Instr) → Out
  | [] => .next s
  | (p, i) :: is =>
    match exec i (atWord s p i) with
    | .next t => if t.iss.stall || t.iss.abort then .next t else runRest s t is
    | o => o

/-- R19: the first check that a prefix fails, as it issues. -/
def prefixClass (s : State) (f : Nat → Option Nat) (p : Nat) : Option KillClass :=
  let x := s.iss.pc.toNat
  if chainBefore f x || chained p then some .bundle
  else match f (x + 1) with
    | some w => prefixCheck s.w.window p w false
    | none => none

/-- Issues one word that is not a prefix, or the prefix. -/
def issuePrefix (s : State) (f : Nat → Option Nat) (p : Nat) : Out :=
  match prefixClass s f p with
  | some k => exec (.illegalWord k) s
  | none => match decodeWord p with
    | .ok i => exec i s
    | .error k => exec (.illegalWord k) s

/-- R19: a prefix that a chained word precedes is what the kill names. DEDUCED: log entry 29. -/
def atPrefix (s : State) (ws : List Nat) : State :=
  match ws.findIdx? fun w => fld w 25 6 == 0x3F with
  | some p => { s with iss := { s.iss with pc := s.iss.pc + w32 p } }
  | none => s

/-- Issues the bundle at the issue PC. Where its first word cannot be fetched the class is FETCH, whatever word stands before it
in the packet. DESIGN CHOICE: log entry 99. -/
def issueBundle (s : State) : Out :=
  let f := fetchWord s s.c s.w
  let b := takeWords f s.iss.pc.toNat 3
  match b.1 with
  | [] => exec .fetchFault s
  | w :: _ =>
    if fld w 25 6 = 0x3F then issuePrefix s f w
    else
      let s := { s with iss := { s.iss with words := b.1.length } }
      match lowestClass (classesOf s f b.1 b.2) with
      | some .fetch => exec .fetchFault s
      | some k => exec (.illegalWord k) (if k = .bundle then atPrefix s b.1 else s)
      | none => runWords s (issueOrder (decoded b.1))

/-- The warp and its crew in issue; results whose windows have ended arrive first (R14, R16), what step 1 of R13 reads of the
device is kept, and the translation of its code is in the TLBs (R276).
DESIGN CHOICE: log entries 2, 9. -/
def beginIssue (s : State) (r : Ready) : State :=
  let w := dropDone (deliverAll (·.left == 0) { r.warp with sleepUntil := none })
  let s := { fetchFill s r.crew.core r.crew.vf (codeBase s r.crew r.warp + 4 * r.pick.pc.toNat) with
    c := { r.crew with warps := [] }
    w := w
    old := w
    iss := { active := r.pick.active, pc := r.pick.pc, rep := r.pick.isRep } }
  { s with iss := { s.iss with frag0 := fragWord s, ltime0 := ltimeOf s r.crew.core } }

/-- What the chosen lanes issue. DESIGN CHOICE: log entry 2. -/
def issuePick (s : State) (p : Pick) : Out :=
  match p with
  | .bundle .. => issueBundle s
  | .rep .. => exec .repeatIssue s
  | .bad _ _ k => exec (.illegalWord k) s

/-! ### After a bundle -/

/-- Where a lane of Active goes (R13, R105, R110): its branch target or the next bundle; a lane of a repeat stays. -/
def advanceLane (s : Issue) (l : Nat) (ln : Lane) : Lane :=
  let tgt := ((s.targets.find? (·.1 == l)).map (·.2)).getD (s.pc + w32 s.words)
  match ln.st with
  | .run | .deferred => if s.rep || ln.inRep then ln else { ln with pc := tgt }
  | .waiting => { ln with resume := if s.rep || ln.inRep then ln.pc else tgt }
  | .parked | .exited | .killed => ln

/-- The PCs after a bundle, unless it ended by a kill or in whole-warp mode. -/
def advance (s : State) : Warp := if s.iss.abort then s.w else mapLanes s.w (liveMask s) (advanceLane s.iss)

/-- The issue was that of a prefix: no bundle (R16). -/
def wasPrefix (s : State) : Bool := !s.iss.rep && repV s.w && !repV s.old

/-- R16, R17: the windows after a bundle; a trap ends them all. -/
def countWindows (s : State) (w : Warp) : Warp :=
  let w := if w.trapV && !s.old.trapV then { w with pend := w.pend.map fun p => { p with left := 1 } } else w
  if wasPrefix s then w else tickWindows w

/-- R282: the bundles since a save was asked for, at most 4,096; a prefix is no bundle (R16). -/
def countSave (s : State) (w : Warp) : Warp :=
  if s.c.saveReq.isSome && w.stopped.isNone && !wasPrefix s then
    let n := w.sinceReq + 1
    { w with sinceReq := n, stopped := if 4096 ≤ n then some .full else none }
  else w

/-- The issuing warp goes back to its crew, and nothing is in issue. -/
def putBack (s : State) : State := { s with crews := merged s, c := {}, w := {}, old := {}, iss := {} }

/-- Barriers, claims and engine operations after a bundle (R116, R143, R205). -/
def afterBundle (s : State) : State :=
  let s := checkBars (updCrew s s.c.id fun k => serveClaims k k.claims.length)
  if s.w.finished then formOps s (bayOfCore s.c.core) else s

/-- The older warps of the core, and those of other launches, have been passed over (R144, R145). DEDUCED: log entry 95. -/
def passOlder (s : State) : State :=
  let old (k : Crew) (w : Warp) : Bool := k.core == s.c.core && !w.passed &&
    (k.launch != s.c.launch || k.vf != s.c.vf || decide (k.placedAt < s.c.placedAt) ||
      (k.placedAt == s.c.placedAt && decide (w.idx < s.w.idx)))
  if (merged s).any fun k => k.warps.any (old k) then mapAllWarps s fun k w => if old k w then { w with passed := true } else w else s

/-- The warps of the issuing core that had to wait are tried again (R145). -/
def freeWarps (s : State) : State :=
  if (merged s).any fun k => k.core == s.c.core && k.warps.any (·.held) then
    mapAllWarps s fun k w => if k.core = s.c.core then { w with held := false } else w
  else s
/-- The warp has to wait: the others of its core go first; where all of them had to wait, each gets its turn (R144, R145).
DEDUCED: log entry 95. -/
def holdWarp (s : State) : State :=
  let s := if s.w.held then freeWarps s else s
  { s with w := { s.w with held := true } }

/-- The end of an issue. DESIGN CHOICE: log entries 2, 6. -/
def closeIssue (s : State) : State :=
  if s.iss.stall then { putBack (holdWarp s) with cycle := s.cycle + 1 }
  else
    let w := { countSave s (countWindows s (advance s)) with lastIssue := s.cycle, promoted := false, passed := false, held := false }
    let s := updCore { s with w := w } s.c.core fun k => { k with last := some (s.c.id, s.w.idx) }
    let s := putBack (afterBundle (freeWarps (passOlder s)))
    reap { s with cycle := s.cycle + 1 }

/-- One issue cycle of a core (R144). DESIGN CHOICE: log entry 6. -/
def issueOn (s : State) (core : Nat) : Out :=
  match chooseWarp s core with
  | none => .next { s with cycle := s.cycle + 1 }
  | some r =>
    match issuePick (beginIssue s r) r.pick with
    | .next t => .next (closeIssue t)
    | o => o

/-! ### Holds (R234, R302, R346) -/

/-- What a warp's hold waits for is over. -/
def holdOver (s : State) (k : Crew) (w : Warp) : Bool :=
  match w.hold with
  | .none => false
  | .drain scope before core crews => drainClear s scope before core crews
  | .wsclose mask before => !(vfAt s k.vf).closes.contains (mask, before)
  | .fence rel acq before => fenceClear s k.id w.idx rel acq before

/-- Ends a hold: what follows comes after every write so far. -/
def endHold (s : State) (k : Crew) (w : Warp) : State :=
  updWarp (syncCore s k.core) k.id w.idx fun w => { w with hold := .none }

def settleHolds (s : State) : State :=
  (s.crews.flatMap fun k => k.warps.filterMap fun w => if w.hold = .none then none else some (k, w)).foldl
    (fun s x => if holdOver s x.1 x.2 then endHold s x.1 x.2 else s) s

/-! ### What moves next where nothing has been chosen -/

/-- Steps of the device that may be due, with no jump in time. DESIGN CHOICE: log entry 1. -/
def dueEvents (s : State) : List Instr :=
  (s.crews.flatMap fun k =>
    (if k.saveReq.isSome then [Instr.crewSave k.id] else []) ++
    k.warps.flatMap fun w =>
      (match w.memq with
      | .store .. :: _ => [Instr.storePerformed k.id w.idx]
      | .rmw .. :: _ => [Instr.atomicPerformed k.id w.idx]
      | .wread id l d sz sx ls ts :: _ =>
        if MemOp.blocked s (dieOfCore k.core) (.wread id l d sz sx ls ts) then [] else [Instr.resultArrives k.id w.idx id]
      | [] => [])) ++
  ((s.dies.mapIdx fun d x =>
    (List.range x.walks.length).map (Instr.pageWalkComplete d) ++
    (List.range x.wq.length).map (Instr.workqRequestServed d)).flatMap id) ++
  ((s.bays.mapIdx fun b x =>
    (if x.queue.isEmpty && x.service.isEmpty then [] else
      Instr.sluicePlaceCrew b :: (x.queue.filterMap (·.saved)).flatMap fun k =>
        (List.range 16).map fun i => Instr.crewRestore k.id (16 * b + i)) ++
    (if x.ch.all (·.entries.isEmpty) then [] else Instr.bteChunk b :: (List.range 16).map (Instr.bteCompletion b))).flatMap id) ++
  ((s.quads.mapIdx fun q x =>
    (if x.qme.isEmpty then [] else [Instr.qmeGrant q]) ++
    (x.qme.filter (·.active)).map (fun e => Instr.qmeCompletion q e.entry) ++
    (List.range x.bindings.length).map (Instr.refillArrival q)).flatMap id) ++
  ((s.vfs.mapIdx fun v x =>
    (if x.frPend.isEmpty then [] else [Instr.faultRecordWrite v]) ++
    (if x.posts.isEmpty then [] else [Instr.launchAccept v 16]) ++
    ((x.lq.mapIdx fun q y => if y.head = y.tail then [] else [Instr.launchAccept v q]).flatMap id)).flatMap id) ++
  (s.launches.flatMap fun l =>
    if l.st.final then [] else
      [Instr.launchWalkStart l.seq, Instr.launchDone l.seq] ++
        l.walks.flatMap fun w => [Instr.tillerEvaluateReach l.seq w.die, Instr.tillerPush l.seq w.die]) ++
  (match s.slice with
  | some (_, t) => if t + sliceLen s ≤ s.cycle then [Instr.timeSliceEnd] else []
  | none => [])

/-- Steps that time alone brings (R175, R297, R312). -/
def timedEvents (s : State) : List Instr :=
  (s.crews.flatMap fun k => k.warps.filterMap fun w => w.sleepUntil.map fun _ => Instr.sleepExpiry k.id w.idx) ++
    (s.crews.flatMap fun k => if k.warps.any fun w => match w.memq with
        | .wread .. :: _ => true
        | _ => false
      then [Instr.wsRefreshWindow (dieOfCore k.core)] else []) ++
    (if s.slice.isSome then [Instr.timeSliceEnd] else [])

/-- The default choice: cores with a ready warp and due steps by turns; time passes as one of them when no core has a ready
warp. DESIGN CHOICE: log entry 1. -/
def defaultMove (s : State) : Move :=
  let cores := ((s.crews.map (·.core)).eraseDups).filter fun c => !(readyWarps s c).isEmpty
  let evs := dueEvents s ++ (if cores.isEmpty then timedEvents s else [])
  let n := s.steps / 2
  let core? := cores[n % max 1 cores.length]?
  let ev? := evs[n % max 1 evs.length]?
  match (if s.steps % 2 = 0 then (core?.map Move.issue).or (ev?.map Move.event) else (ev?.map Move.event).or (core?.map Move.issue)) with
  | some m => m
  | none => .issue 0

/-- A step of the device or of the outside world; a word issues only in a bundle. DESIGN CHOICE: log entry 71. -/
def runEvent (e : Instr) (s : State) : Out := if (encode e).isSome then .next s else exec e s

/-- What a step may have released or called for: flits that stand in their slots and have room now (R323, R342), rings with a
new HEAD (R231), warps that a save stops (R282), saves that now have room (R284), windows to close (R302) and holds. -/
def settleStep (s : State) : State :=
  settleHolds (settleCloses (askAgain (latchStops (settleRings (if s.fabric.held.isEmpty then s else settleFabric s)))))

/-- Every step: what it may have released, and the count of steps. -/
def stepDone (o : Out) : Out :=
  match o with
  | .next s => .next (settleStep { s with steps := s.steps + 1 })
  | o => o

/-- What `step` does with a move. A module that a level-2 alarm has stopped issues nothing (R361).
DESIGN CHOICE: log entries 1, 11. -/
def runMove (s : State) (m : Move) : Out :=
  match m with
  | .issue core => if s.halted then .fault .halted else stepDone (issueOn s core)
  | .event e => stepDone (runEvent e s)

/-- The move of this step. DESIGN CHOICE: log entry 1. -/
def nextMove (s : State) : Move := (s.moves.head?).getD (defaultMove s)

end Sys2Proof.Machine
end

