-- ==== Sys2Proof/Machine/Place.lean ====
section
/-! DEFINITION. Placing one instruction where the next step fetches it: what the host's set-up of a VF and the start of
a service crew (R306, R311) leave behind, for one word of code. -/

namespace Sys2Proof.Machine

/-- Places of the page tables and of the code in die-local memory, all below 2 MiB (R273, R305). -/
def placeTables : Nat := 0x1000
def placeCodeAt : Nat := 0x10000

/-- A table entry of 8 bytes: a pointer to the next table, or the leaf that maps the first 1 GiB (R274). -/
def tableEntry (at_ : Nat) (leaf : Bool) : List Byte := bytesOfNat 8 (if leaf then 15 else at_ + 1)

/-- Bytes at a die-local address, in no function's hands yet. -/
def plant (s : State) (die a : Nat) (bs : List Byte) : State :=
  let k := physKey die a
  { s with mem := memWrite s.mem k bs, owners := s.owners.filter fun o => !(decide (k / 128 ≤ o.1) && decide (o.1 ≤ (k + bs.length) / 128)) }

/-- The three levels of a table tree whose leaf maps the first 1 GiB onto itself. -/
def plantTree (s : State) (die root : Nat) : State :=
  plant (plant (plant s die root (tableEntry (root + 0x1000) false)) die (root + 0x1000) (tableEntry (root + 0x2000) false))
    die (root + 0x2000) (tableEntry 0 true)

/-- A crew of one warp on core 0 that is about to issue its first word, as a service crew starts (R311). -/
def placedCrew (id cycle : Nat) : Crew :=
  { id := id, vf := 1, service := true, code := placeCodeAt, csize := 12, placedAt := cycle,
    warps := [{
      window := 128, lanes := List.replicate 64 { v := List.replicate 128 0 }, priv := 1, promoted := true }] }

/-- The state in which the next step issues the word `w` on core 0 (DESIGN CHOICE, log entry 16). -/
def placeWord (s : State) (w : Nat) : State :=
  let die := dieOfGpa s 0
  let s := plantTree (plantTree s die placeTables) die (placeTables + 0x4000)
  let s := plant s die placeCodeAt (bytesOfNat 4 w)
  let s := updVf s 1 fun v => { v with
    en := true, s1root := placeTables, chan := 4095 * 2 ^ (12 * die),
    s2root := v.s2root.set die (placeTables + 0x4000) }
  { s with crews := placedCrew s.nextCrew s.cycle :: s.crews, nextCrew := s.nextCrew + 1, moves := [.issue 0] }

end Sys2Proof.Machine
end

