-- ==== Sys2Proof/Machine/Step.lean ====
section
/-! DEFINITION. One step: the move chosen for it, or the default one. -/

namespace Sys2Proof.Machine

/-- One step of the device: a core issues, one of its units acts, or an input arrives. -/
def step (s : State) : Host.Outcome State Fault Refusal := runMove { s with moves := s.moves.drop 1 } (nextMove s)

/-- The state whose next step fetches and runs the instruction with the bits `w` (DESIGN CHOICE, log entry 16): words of 32 bits, the
bits above `nbits` zero. -/
def State.withFetchWord (s : State) (nbits w : Nat) : State := placeWord s (w % 2 ^ nbits % 2 ^ 32)

end Sys2Proof.Machine
end

