-- ==== Sys2Proof/WellFormed.lean ====
section
/-! DEFINITION. Well-formed instructions: every field fits its place in the word (R25), the reserved values of R30 to R35
do not occur, and an event names a unit that the device has. -/

namespace Sys2Proof

/-- A 7-bit register field. -/
def reg7 (r : Nat) : Bool := decide (r < 128)
/-- A 6-bit uniform field of format X. -/
def reg6 (r : Nat) : Bool := decide (r < 64)
/-- A lookahead field (R16). -/
def la4 (la : Nat) : Bool := decide (la < 16)
/-- Three register fields; a lookahead field and two; a lookahead field, a register and a uniform field. -/
def regs3 (d a b : Nat) : Bool := reg7 d && reg7 a && reg7 b
def laRegs (la d a : Nat) : Bool := la4 la && reg7 d && reg7 a
def laUni (la d ua : Nat) : Bool := la4 la && reg7 d && reg6 ua
/-- Sizes that a sign-extending load may have (R81). -/
def sxOk (sx : Bool) (sz : Size) : Bool := !sx || sz == .b || sz == .h
/-- Sizes and handle of LDT and STT (R34). -/
def tensorOk (sz : Size) (hs : Nat) : Bool := sz != .q && decide (1 ≤ hs) && decide (hs < 16)

/-- A function of the device: 0 is the PF (R308). -/
def fnOk (fn : Nat) : Bool := decide (fn ≤ Config.vfs)
/-- A control flit that this device's ports can bring. -/
def flitOk (f : Flit) : Bool := decide (f.port < 15) && f.body.length == 16

/-- The fields of an instruction word and of an event are in range. -/
def wellFormed : Instr → Bool
  | .sadd d a b | .ssub d a b | .smul d a b | .smulh d a b | .smulhu d a b | .sand d a b | .sor d a b | .sxor d a b
  | .sshl d a b | .sshr d a b | .ssra d a b | .smin d a b | .smax d a b | .sminu d a b | .smaxu d a b | .smov d a b
  | .sclz d a b | .spopc d a b | .sbrev d a b | .sext d a b | .sins d a b | .ssel d a b | .scmp _ d a b
  | .vadd _ d a b | .vsub _ d a b | .vmul _ d a b | .vmulh _ d a b | .vmulhu _ d a b | .vand _ d a b | .vor _ d a b
  | .vxor _ d a b | .vshl _ d a b | .vshr _ d a b | .vsra _ d a b | .vmin _ d a b | .vmax _ d a b | .vminu _ d a b
  | .vmaxu _ d a b | .vaddmin _ d a b | .vmad _ d a b | .vaddsat _ d a b | .vsubsat _ d a b | .vabsdiff _ d a b
  | .vext _ d a b | .vins _ d a b | .vmorton _ d a b | .vcellh _ d a b | .vcmp _ d a b
  | .pand d a b | .por d a b | .pxor d a b | .pandn d a b
  | .vfadd _ d a b | .vfsub _ d a b | .vfmul _ d a b | .vffma _ d a b | .vfmin _ d a b | .vfmax _ d a b
  | .vfcpys _ d a b | .vfabsd _ d a b | .vdadd d a b | .vdsub d a b | .vdmul d a b | .vdfma d a b | .vdmin d a b
  | .vdmax d a b | .vhadd2 _ d a b | .vhsub2 _ d a b | .vhmul2 _ d a b | .vhfma2 _ d a b | .vfcmp _ d a b
  | .vfcmpF64 _ d a b => regs3 d a b
  | .vsel _ n d a b => decide (n < 8) && regs3 d a b
  | .saddi d a imm | .vaddi d a imm => reg7 d && reg7 a && decide (imm < 2 ^ 11)
  | .sli _ d imm | .slik _ d imm | .vli _ d imm => reg7 d && decide (imm < 2 ^ 16)
  | .vnot d a | .vneg d a | .vabs d a | .vclz d a | .vpopc d a | .vbrev d a | .vmov d a | .vbcastS d a | .pnot d a
  | .pmov d a | .vcvtF64F32 d a | .vcvtF64I32 d a | .vcvtF32x2F16x2 d a => reg7 d && reg7 a
  | .vcvtF32F64 d a _ rm | .vcvtF32I32 d a _ rm | .vcvtF32O32 d a _ rm | .vcvtI32F32 d a rm | .vcvtO32F32 d a rm
  | .vcvtI32F64 d a rm | .vcvtF19F32 d a _ rm | .vcvtBf16x2F32 d a _ rm | .vcvtF16x2F32 d a _ rm
  | .vcvtE4m3x4F32 d a _ rm | .vcvtE5m2x4F32 d a _ rm | .vcvtI16x2F32 d a rm | .vcvtO8x4F32 d a rm =>
    reg7 d && reg7 a && decide (rm < 4)
  | .vfrcp la d a | .vfrsq la d a | .vfsqrt la d a | .vfexp2 la d a | .vflog2 la d a | .vfsin la d a | .vfcos la d a
  | .vftanh la d a | .st la d a _ _ | .sts la d a _ _ | .atom la d a _ _ _ | .atomf la d a _ _ | .cas la d a _ _
  | .satom la d a _ _ _ | .satomCas la d a _ _ | .tdesc la d a | .binit la d a _ | .barrive la d a _ | .bwait la d a _
  | .bquery la d a _ => laRegs la d a
  | .hrnd la d ua ub | .xcopy la d ua ub => laUni la d ua && reg6 ub
  | .vshflUp la d ua m | .vshflDown la d ua m | .vshflXor la d ua m | .vbcast la d ua m | .vredStep la d ua _ m
  | .vscanStep la d ua _ m | .mmaAcc la d ua m | .mmaZero la d ua m | .mout la d ua m => laUni la d ua && decide (m < 4)
  | .vshflIdx la d m => la4 la && reg7 d && decide (m < 4)
  | .vvoteAny la d p m | .vvoteAll la d p m | .vballot la d p m => la4 la && reg7 d && decide (p < 8) && decide (m < 4)
  | .br p off | .call p off | .bvSplit p off | .bvAny p off | .bvAll p off | .bvUni p off =>
    decide (p < 8) && decide (off < 2 ^ 20)
  | .ret a | .brx a => reg7 a
  | .exit | .nop | .yieldL | .fencePodRel | .fencePodAcq | .fencePod | .sret => true
  | .bar n => decide (n < 16)
  | .barq n => decide (n < 4)
  | .safe n => decide (n < 2 ^ 16)
  | .ld la d a _ sx _ sz | .lds la d a _ sx sz | .ldw la d a _ sx sz => laRegs la d a && sxOk sx sz
  | .ldt la d a _ sz hs | .stt la d a _ sz hs => laRegs la d a && tensorOk sz hs
  | .prefetch a _ | .discard a _ | .writeback a _ => reg7 a
  | .cpoll la d ua | .csleep la d ua | .cpop la d ua | .xwp la d ua | .mtest la d ua | .mcancel la d ua | .qpush la d ua
  | .qstat la d ua | .launch la d ua | .wsend la d ua | .wpost la d ua | .wprobe la d ua | .wcancel la d ua
  | .wtest la d ua | .fstat la d ua => laUni la d ua
  | .qfence ua | .mwait ua | .qpop ua | .qclose ua | .lwait ua | .trap ua | .sleep ua | .wake ua | .fresume ua | .fkill ua
  | .tlbinv ua | .lres ua | .wsopen ua | .wsclose ua => reg6 ua
  | .drain scope => decide (scope < 6)
  | .mclear ua k => reg6 ua && decide (k < 4)
  | .qpopLanes d ua => reg7 d && reg6 ua
  | .rgive n | .rclaim n => decide (1 ≤ n) && decide (n ≤ 15)
  | .srd la d idx _ => la4 la && reg7 d && sregListed idx
  | .swr d idx _ => reg7 d && sregListed idx
  | .rep count mask sd sa sb =>
    decide (count < 64) && decide (mask < 8) && decide (sd < 4) && decide (sa < 4) && decide (sb < 4) &&
      (mask / 4 == 1 || sd == 0) && (mask / 2 % 2 == 1 || sa == 0) && (mask % 2 == 1 || sb == 0)
  -- events
  | .repeatIssue | .illegalWord _ | .fetchFault | .timeSliceEnd | .tokenPass | .tokenTimeout | .sense | .logread
  | .stage _ | .activate | .towpathRestartComplete _ | .slots | .reprovision _ | .alarmL1Clear _ | .alarmLevel2 => true
  | .resultArrives c _ _ | .storePerformed c _ | .atomicPerformed c _ | .issueAgePromotion c _ | .sleepExpiry c _
  | .saveBundleLimit c _ | .crewSave c => c != 0
  | .crewRestore c core => c != 0 && decide (core < Config.cores)
  | .leaseExpiry core _ => decide (core < Config.cores)
  | .wsRefreshWindow die | .workqRequestServed die _ | .pageWalkComplete die _ | .drainFinish die | .drainSave die
  | .dieDrainComplete die | .reset die | .dieResetComplete die | .return_ die | .dieAuthenticated die _
  | .alarmLevel1 die | .dieFailsInService die => decide (die < Config.dies)
  | .lqTailWrite fn q v => fnOk fn && decide (q < 16) && decide (v < 2 ^ 32)
  | .launchAccept vf q => fnOk vf && decide (q < 17)
  | .launchWalkStart l | .launchDone l => l != 0
  | .tillerEvaluateReach l die | .tillerPush l die => l != 0 && decide (die < Config.dies)
  | .labortWrite fn id | .fresumeWrite fn id | .fkillWrite fn id => fnOk fn && decide (id < 2 ^ 32)
  | .sluicePlaceCrew bay | .bteChunk bay => decide (bay < Config.bays)
  | .bteCompletion bay ch => decide (bay < Config.bays) && decide (ch < 16)
  | .qmeGrant quad => decide (quad < Config.quads)
  | .qmeCompletion quad e | .qmeEntryAging quad e => decide (quad < Config.quads) && decide (e < Config.qmeEntries)
  | .refillArrival quad _ => decide (quad < Config.quads)
  | .stealEntriesArrive src es => decide (src < 16) && es.all (·.length == 32)
  | .faultRecordWrite vf => fnOk vf
  | .hostWrite fn gpa data => fnOk fn && decide (gpa + data.length ≤ 2 ^ 52)
  | .hostRead fn gpa n => fnOk fn && decide (gpa + n ≤ 2 ^ 52 + 2 ^ 20 + 2 ^ 16)
  | .s1rootWrite fn v | .svcstartWrite fn v => fnOk fn && decide (v < 2 ^ 64)
  | .faultRingConfigWrite fn off v => fnOk fn && decide (off < 2 ^ 16) && decide (v < 2 ^ 64)
  | .registerWrite fn off v => fnOk fn && decide (off < 2 ^ 20 + 2 ^ 16) && decide (v < 2 ^ 256)
  | .vfEnableWrite vf _ => decide (1 ≤ vf) && fnOk vf
  | .vfQuadsChange vf quads => decide (1 ≤ vf) && fnOk vf && decide (quads < 2 ^ 256)
  | .deviceReset genuine => genuine.length == Config.dies
  | .linkStateChange port _ => decide (port < 15) || (decide (256 ≤ port) && decide (port < 512))
  | .peerPathTimeout dev => decide (dev < 16)
  | .rdreq f | .wrreq f | .atomreq f | .resp f | .inval f | .invack f | .frel f | .fack f | .whdr f | .wpull f | .wdone f
  | .lack f | .lnak f | .token f => flitOk f
  | .dataFlit f => decide (f.port < 15) && decide (1 ≤ f.payload.length) && decide (f.payload.length ≤ 496)
  | .invalidFlit port _ _ => decide (port < 15)
  | .wharfLandingComplete _ => true
  | .migrationServiceMove vf _ hdie hbay => fnOk vf && decide (hdie < 8) && decide (hbay < 8)

end Sys2Proof
end

