-- ==== Sys2Proof/Safety.lean ====
section
/-! DEFINITION. What counts as a safe run, and the conditions and results that statements use: nothing in issue, canonical
memories, a module stopped by a level-2 alarm, registers in range, results that arrive later, correct rounding. -/

namespace Sys2Proof

open Machine

/-- Every step of the next `n` answers a state: no fault and no refusal. -/
def SafeFor : Nat → State → Prop
  | 0, _ => True
  | n + 1, s => ∃ t, step s = .next t ∧ SafeFor n t

/-- The part of the state that stands in issue is empty, as it is between steps. -/
def Idle (s : State) : Prop := s.c = {} ∧ s.w = {} ∧ s.old = {} ∧ s.iss = {}

/-- Every memory of the device is in its canonical form. -/
def MemoriesOk (s : State) : Prop :=
  Memory.wf s.mem = true ∧ Memory.wf s.hostMem = true ∧
    (∀ q ∈ s.quads, Memory.wf q.sp = true) ∧ ∀ d ∈ s.dies, Memory.wf d.ws = true

/-- A level-2 alarm is in force: the module runs nothing and holds no crew (R361). -/
def Stopped (s : State) : Prop := s.halted = true ∧ s.towpath.level2 = true ∧ s.crews = []

/-- The word `i` may act in the issue context `s`: its registers are in range, no check of R22 kills the warp, and it
need not wait. -/
def Ready (i : Instr) (s : State) : Prop := killOf i s = none ∧ stallOf i s = false

/-- `n` vector registers from `r`: aligned (R26) and inside the warp's window (R8). -/
def InWindow (s : State) (r n : Nat) : Prop := r % n = 0 ∧ r + n ≤ s.w.window

/-- The B operand of a major marked A+u is in range (R8, R60). -/
def BInRange (s : State) (u : Bool) (b : Nat) : Prop := if u then b < 64 else b < s.w.window

/-- `fl` is the union of the exceptions that `f` gives the lanes of `m` (R41, R86). -/
def RaisedBy (m : LaneMask) (f : Nat → FpFlags) (fl : FpFlags) : Prop :=
  ∀ e < 5, fl.getLsbD e = true ↔ ∃ l < 64, m.getLsbD l = true ∧ (f l).getLsbD e = true

/-! ### Correct rounding (R40, R43, R45, R46) -/

/-- The value of a code without its sign, the exponent unbounded above: a zero exponent field gives the subnormals (R43). The
codes stand in the order of their values, so that `c + 1` has the next value above that of `c`. -/
def magOf (f : Fmt) (c : Nat) : ℚ :=
  let e : Nat := c / 2 ^ f.fb
  if e = 0 then (c : ℚ) * 2 ^ (1 - (f.bias : ℤ) - f.fb) else ((2 ^ f.fb + c % 2 ^ f.fb : Nat) : ℚ) * 2 ^ ((e : ℤ) - f.bias - f.fb)

/-- The exponent field of a code, and its sign. -/
def expField (f : Fmt) (c : Nat) : Nat := c / 2 ^ f.fb % 2 ^ f.eb
def signBit (f : Fmt) (c : Nat) : Nat := c / 2 ^ (f.eb + f.fb) % 2

/-- A finite code as an operation reads it: under FTZ a subnormal one is a zero (R45). -/
def readAs (f : Fmt) (ftz : Bool) (c : Nat) : ℚ :=
  if ftz = true ∧ expField f c = 0 then 0
  else if signBit f c = 1 then -magOf f (c % 2 ^ (f.eb + f.fb)) else magOf f (c % 2 ^ (f.eb + f.fb))

/-- A mode rounds a magnitude of a sign toward zero, or away from it (R40). -/
def towardZero (rm : Nat) (neg : Bool) : Bool := rm == 1 || (rm == 2 && neg) || (rm == 3 && !neg)

/-- `q` is the code, the exponent unbounded above, to which a mode rounds the magnitude `a` (R40): the nearest, of two as near
the even one; the next at or below; the next at or above. -/
def RoundsTo (f : Fmt) (rm : Nat) (neg : Bool) (a : ℚ) (q : Nat) : Prop :=
  if rm = 0 then
    2 * a ≤ magOf f q + magOf f (q + 1) ∧ (2 * a = magOf f q + magOf f (q + 1) → q % 2 = 0) ∧
      (q ≠ 0 → magOf f (q - 1) + magOf f q ≤ 2 * a ∧ (magOf f (q - 1) + magOf f q = 2 * a → q % 2 = 0))
  else if towardZero rm neg then magOf f q ≤ a ∧ a < magOf f (q + 1)
  else a ≤ magOf f q ∧ (q ≠ 0 → magOf f (q - 1) < a)

/-- The magnitude `a` is tiny: rounded with an unbounded exponent it lies below the least normal number (R45). -/
def Tiny (f : Fmt) (rm : Nat) (neg : Bool) (a : ℚ) : Prop :=
  let least : ℚ := 2 ^ (1 - (f.bias : ℤ))
  let step : ℚ := 2 ^ (-(f.bias : ℤ) - f.fb)
  if rm = 0 then a < least - step / 2 else if towardZero rm neg then a < least else a ≤ least - step

/-- What is written for the exact value `z`, not zero, of an operation that rounds once (R44 to R46): the rounded code; past the
largest, infinity or the largest with OF and NX; under FTZ a zero with UF and NX where the result would be subnormal. -/
def RoundedOnce (f : Fmt) (rm : Nat) (ftz : Bool) (z : ℚ) (r : Nat × FpFlags) : Prop :=
  let neg : Bool := decide (z < 0)
  let s : Nat := if z < 0 then 2 ^ (f.eb + f.fb) else 0
  let inf : Nat := (2 ^ f.eb - 1) * 2 ^ f.fb
  ∃ q, RoundsTo f rm neg |z| q ∧
    (inf ≤ q → r = (s + (if towardZero rm neg then inf - 1 else inf), flOF ||| flNX)) ∧
    (q < inf → ftz = true → q < 2 ^ f.fb → r = (s, flUF ||| flNX)) ∧
    (q < inf → ¬ (ftz = true ∧ q < 2 ^ f.fb) → r.1 = s + q ∧ (magOf f q = |z| → r.2 = 0) ∧
      (magOf f q ≠ |z| → Tiny f rm neg |z| → r.2 = flUF ||| flNX) ∧ (magOf f q ≠ |z| → ¬ Tiny f rm neg |z| → r.2 = flNX))

/-- The state with the warp in issue as `w` says, and nothing else changed. -/
def withWarp (s : State) (w : Warp) : State := { s with w := w }

/-- The word in issue has a result for the target `t` that is still to arrive: a window of `la` bundles after this one
(R16), and `need` accesses before it is known. -/
def withResult (s : State) (t : Target) (la need : Nat) (writes : List RegWrite) (flags : FpFlags) (fp : Bool) : State :=
  { s with w := { s.w with
      nextId := s.w.nextId + 1,
      pend := s.w.pend ++ [{ id := s.w.nextId, target := t, left := la + 1, need := need, writes := writes, flags := flags, fp := fp }] } }

/-- Register writes for the lanes of a mask, lowest first. -/
def perLane (m : LaneMask) (f : Nat → List RegWrite) : List RegWrite :=
  ((List.range 64).filter fun l => m.getLsbD l).flatMap f

/-- The lanes that `p` names, lowest first. -/
def lanesThat (p : Nat → Bool) : List Nat := (List.range 64).filter p

/-- The absent-lane report of `%vote` for the absent members `ab`: ABSL in each lane, FIRST and NABS; OUT and POL stay
(R151). -/
def withReport (s : State) (ab : Nat → Bool) : State :=
  { s with w := { s.w with
      lanes := s.w.lanes.mapIdx fun l ln => { ln with absl := decide (l < 64) && ab l },
      vote := (s.w.vote &&& 0xF) ||| BitVec.ofNat 32 ((lanesThat ab).headD 0 * 2 ^ 16 + (lanesThat ab).length * 2 ^ 8) } }

/-- A word in issue sends the lanes of a list to their targets (R74). -/
def withTargets (s : State) (ts : List (Nat × Word)) : State := { s with iss := { s.iss with targets := ts } }

/-! ### Memory words -/

/-- Pipe M has nothing in the way of a word: what its warp issued before has been performed (R27, R193), and the miss queue of
the die has room (R278). -/
def PipeFree (s : State) : Prop := s.w.memq = [] ∧ missFull s (dieOfCore s.c.core) = false

/-- A memory word may act: the pipe is free, and no word of the bundle has ended the issue or made it wait. -/
def MemoryReady (s : State) : Prop := PipeFree s ∧ s.iss.abort = false ∧ s.iss.stall = false

/-- The address register of format M is in range (R34). -/
def AddrInRange (s : State) (v : Bool) (a : Nat) : Prop := if v then a < s.w.window else a < 64

/-- The offset that a lane's address register gives (R34, R80). DEDUCED: log entry 28. -/
def offsetOf (s : State) (v : Bool) (a l : Nat) : Nat := (if v then rdV s.old a l else rdS s.old a).toNat

/-- A request to a peer that a lane which issues has made. -/
def ownRequest (s : State) (r : PeerReq) : Bool := match r.who with
  | .lane c x l => c == s.c.id && x == s.w.idx && s.iss.active.getLsbD (l % 64)
  | .bte .. => false

/-- The checks of a word's lanes are over and none failed: the translations and the answers from peers of the lanes that issue
are used up (R278, R328), those of the warp's other lanes stay. -/
def checksOver (s : State) : State :=
  { s with
    w := { s.w with xlat := s.w.xlat.filter fun x => !s.iss.active.getLsbD x.lane }
    fabric := { s.fabric with reqs := s.fabric.reqs.filter fun r => !ownRequest s r } }

/-- The checks gave places for `n` bytes, or a peer answered with them. -/
def Answered (n : Nat) (r : Reach) : Prop := (∃ ls, r = .go ls ∧ ls.length = n) ∨ ∃ bs, r = .peer bs ∧ bs.length = n

/-- The places that the checks gave. -/
def placesOf : Reach → List Loc
  | .go ls => ls
  | _ => []

/-- Byte `i` of an access, as memory or a peer gives it. -/
def byteOf (s : State) (r : Reach) (i : Nat) : Byte :=
  match r with
  | .go ls => locGet s s.c.vf (ls.getD i (.dev 0))
  | .peer bs => bs.getD i 0
  | _ => 0

/-- Four bytes as a word, the first the lowest (R2). -/
def word4 (f : Nat → Byte) (i : Nat) : Word := f (4 * i + 3) ++ f (4 * i + 2) ++ f (4 * i + 1) ++ f (4 * i)

/-- The registers from `d` that a load of a size fills in lane `l` (R79, R81). -/
def loadedRegs (sz : Size) (sx : Bool) (d l : Nat) (f : Nat → Byte) : List RegWrite :=
  match sz with
  | .b => [.v l d (if sx then (f 0).signExtend 32 else (f 0).setWidth 32)]
  | .h => [.v l d (if sx then (f 1 ++ f 0).signExtend 32 else (f 1 ++ f 0).setWidth 32)]
  | .w => [.v l d (word4 f 0)]
  | .d => [.v l d (word4 f 0), .v l (d + 1) (word4 f 1)]
  | .q => [.v l d (word4 f 0), .v l (d + 1) (word4 f 1), .v l (d + 2) (word4 f 2), .v l (d + 3) (word4 f 3)]

/-- Byte `i` of what a store takes from the registers from `d` in lane `l` (R82). -/
def dataOf (s : State) (d l i : Nat) : Byte := BitVec.ofNat 8 ((rdV s.old (d + i / 4) l).toNat / 2 ^ (8 * (i % 4)))

/-- The bits of byte `i` that lie below bit `n`. -/
def bitsBelow (n i : Nat) : Byte := BitVec.ofNat 8 ((2 ^ n - 1) / 2 ^ (8 * i))

/-- Accesses join those of the warp that wait to be performed. -/
def withQueue (s : State) (ops : List MemOp) : State := { s with w := { s.w with memq := s.w.memq ++ ops } }

/-- Every copy of the issuing function that its core or its bay holds shows what its places hold (R170). -/
def CopiesCurrent (s : State) : Prop :=
  ∀ cp ∈ (coreAt s s.c.core).copies ++ (bayAt s (s.c.core / 16)).copies, cp.tag.vf = s.c.vf →
    ∀ c ∈ cp.bytes, c.2 = devGet s s.c.vf c.1

/-- Of the cores and bays of `s`, `u` differs at most in the copies they hold and in the cores' logical times. -/
def OnlyCaches (s u : State) : Prop :=
  (∀ c, coreAt u c = { coreAt s c with lead := (coreAt u c).lead, copies := (coreAt u c).copies }) ∧
    ∀ b, bayAt u b = { bayAt s b with copies := (bayAt u b).copies }

/-- No other device holds a line of these places, and none is still asked to give one up (R328). -/
def Unshared (s : State) (ls : List Loc) : Prop :=
  ∀ a ∈ homeLines ls, holdersOf s a = [] ∧ ∀ x ∈ s.fabric.invals, x.2 ≠ a

/-- The lanes that a word acts on. -/
def liveLanes (s : State) : List Nat := lanesThat fun l => (liveMask s).getLsbD l

/-- A place that the device has: not one of a peer, nor beyond the last scratchpad or weight store. -/
def Placed (s : State) : Loc → Prop
  | .sp q _ => q < s.quads.length
  | .ws d _ => d < s.dies.length
  | .peer .. => False
  | _ => True

/-- The word in issue has a result that an engine gives later: its window is open, and the result is not known. -/
def withOpenResult (s : State) (t : Target) (la : Nat) : State :=
  { s with w := { s.w with
      nextId := s.w.nextId + 1,
      pend := s.w.pend ++ [{ id := s.w.nextId, target := t, left := la + 1, open_ := true }] } }

/-- The word in issue makes its lanes wait: the window of its target opens (R16), and the result arrives at their release. -/
def withWaitResult (s : State) (t : Target) (la : Nat) : State :=
  { s with w := { s.w with
      nextId := s.w.nextId + 1,
      pend := s.w.pend ++ [{ id := s.w.nextId, target := t, left := la + 1, open_ := true, waits := true }] } }

/-- The uniform result `x` of a word arrives in s[d] with its window. -/
def withUniform (s : State) (d la : Nat) (x : Word) : State := withResult s ⟨.s, d, 1⟩ la 0 [.s d x] 0 false

/-- The lanes that a word acts on wait. -/
def withWait (s : State) (wt : Wait) : State :=
  { s with w := mapLanes s.w (liveMask s) fun _ ln => { ln with st := .waiting, wait := wt } }

/-- `r` is the code of the first check of a list that holds, none where none does. -/
def FirstCheck : List (Prop × Nat) → Option Nat → Prop
  | [], r => r = none
  | p :: ps, r => (p.1 → r = some p.2) ∧ (¬ p.1 → FirstCheck ps r)

/-- A scratchpad after bytes have come into the issuing crew's share: those of an armed barrier object stay (R172, R173). -/
def shareWrite (s : State) (o : Nat) (bs : List Byte) (m : Memory) : Memory :=
  (bs.mapIdx fun i b => (s.c.shareBase + (o + i), b)).foldl (fun m x =>
    if armedAt s (.sp (s.c.core / 4) x.1) then m else memWrite m x.1 [x.2]) m

/-- Bytes of the issuing crew's share. -/
def shareBytes (s : State) (o n : Nat) : List Byte :=
  (List.range n).map fun i => memGet (quadAt s (s.c.core / 4)).sp (s.c.shareBase + (o + i))

end Sys2Proof
end

