-- ==== Sys2Proof/Certificates/Slice0/Obligations.lean ====
section
/-! DEFINITION. The statements about the model, from the numbered rules of the spec. An instruction's next state is
written as an update of the state it acts on: whatever the update does not name is unchanged. -/

open Sys2Proof Sys2Proof.Machine

/-! ### Words and their decoding -/

/-- R25, R29 to R35: the word of a well-formed instruction leaves the chain bit free and decodes to it, with every
operand at every value its field admits. -/
def Obligations.DecodingAnEncodedWordGivesTheInstruction : Prop :=
  ∀ (i : Instr) (w : Nat), wellFormed i = true → encode i = some w → w < 2 ^ 31 ∧ decodeWord w = .ok i

/-- R11, R25: a word that decodes is the word of the instruction it decodes to, but for its chain bit. -/
def Obligations.EncodingADecodedWordGivesTheWord : Prop :=
  ∀ (w : Nat) (i : Instr), w < 2 ^ 32 → decodeWord w = .ok i → wellFormed i = true ∧ encode i = some (w % 2 ^ 31)

/-- R29, R32 to R35, R37: the words that are UNASSIGNED are just those of a major, or of a minor in its field (MIN, POL, SZ, OP
or XMIN), that the opcode map does not list; every other word that is no instruction is RESERVED. -/
def Obligations.UnlistedWordsAreUnassigned : Prop :=
  let unlisted (w : Nat) : Prop :=
    fld w 25 6 ∈ [0x06, 0x07, 0x19, 0x1A, 0x1B, 0x2D, 0x2E, 0x2F, 0x3A, 0x3B] ∨
    (∃ p ∈ [(0x01, 6), (0x02, 10), (0x0B, 8), (0x0C, 10), (0x10, 6), (0x12, 6), (0x13, 8), (0x1E, 7)],
      fld w 25 6 = p.1 ∧ p.2 ≤ fld w 21 4) ∨
    (fld w 25 6 = 0x16 ∧ 8 ≤ fld w 3 4) ∨ (fld w 25 6 = 0x1C ∧ 2 ≤ fld w 20 2) ∨
    (∃ p ∈ [(0x20, 5), (0x21, 5), (0x24, 5), (0x25, 5), (0x26, 5), (0x27, 9), (0x28, 4), (0x29, 1), (0x2A, 10), (0x2B, 4), (0x2C, 4)],
      fld w 25 6 = p.1 ∧ p.2 ≤ fld w 0 4) ∨
    ∃ p ∈ [(0x18, 10), (0x31, 4), (0x32, 2), (0x33, 4), (0x34, 3), (0x35, 5), (0x36, 2), (0x37, 2), (0x38, 5), (0x39, 3), (0x3C, 6),
        (0x3D, 3), (0x3E, 4)], fld w 25 6 = p.1 ∧ p.2 ≤ fld w 2 4
  (∀ w, decodeWord w = .error .unassigned ↔ unlisted w) ∧
  ∀ w k, decodeWord w = .error k → ¬ unlisted w → k = .reserved

/-- R25, R29 to R36: words written out in the spec's own tables, of every family: what they decode to, and four that are refused,
with the class the spec names. -/
def Obligations.WrittenWordsDecodeAsListed : Prop :=
  (∀ p ∈ ([(0x8001C385, .sadd 7 7 5), (0x02614307, .sext 5 6 7), (0x08101234, .sli false 4 0x1234), (0x11008084, .vadd true 2 1 4),
      (0x1E418205, .vsel false 2 6 4 5), (0x24650B18, .vdfma 20 22 24), (0x2A024664, .vcvtE4m3x4F32 9 12 true 0),
      (0x2E420A30, .hrnd 2 8 10 12), (0x304284E0, .vredStep 2 10 4 .addF32 0), (0x384FFFFC, .br 1 0xFFFFC), (0x3A300001, .bvUni 0 1),
      (0x4081C161, .ld 4 7 2 true true false .h), (0x46420273, .stt 2 8 4 true .d 3), (0x54020299, .satomCas 0 8 5 false true),
      (0x5801C4A1, .barrive 0 7 9 true), (0x6025041C, .xcopy 1 20 4 7), (0x66651502, .mmaAcc 3 20 21 2), (0x6A041200, .qpush 0 16 18),
      (0x6E000400, .rgive 4), (0x7005D50C, .wcancel 0 23 21), (0x7801540C, .swr 5 20 false), (0x7C001404, .lres 20),
      (0x7E1D4800, .rep 3 5 1 0 2)] : List (Nat × Instr)), decodeWord p.1 = .ok p.2) ∧
  (∀ p ∈ ([(0x0C000000, .unassigned), (0x38200000, .unassigned), (0x3C600001, .reserved), (0x56004301, .reserved)] :
      List (Nat × KillClass)), decodeWord p.1 = .error p.2)

/-! ### Integer words -/

/-- R61: the sixteen words of SINT, their minors and their results; one write, once for the warp, whatever Active holds. -/
def Obligations.UniformIntegerWordsComputeTheirResults : Prop :=
  ∀ (s : State) (d a b : Nat),
    let x := rdS s.old a
    let y := rdS s.old b
    ∀ p ∈ ([(.sadd d a b, 0, x + y), (.ssub d a b, 1, x - y), (.smul d a b, 2, x * y),
        (.smulh d a b, 3, (x.signExtend 64 * y.signExtend 64).extractLsb' 32 32),
        (.smulhu d a b, 4, (x.setWidth 64 * y.setWidth 64).extractLsb' 32 32),
        (.sand d a b, 5, x &&& y), (.sor d a b, 6, x ||| y), (.sxor d a b, 7, x ^^^ y),
        (.sshl d a b, 8, BitVec.ofNat 32 (x.toNat * 2 ^ y.toNat)),
        (.sshr d a b, 9, BitVec.ofNat 32 (x.toNat / 2 ^ y.toNat)),
        (.ssra d a b, 10, BitVec.ofInt 32 (x.toInt / 2 ^ y.toNat)),
        (.smin d a b, 11, if x.toInt ≤ y.toInt then x else y), (.smax d a b, 12, if x.toInt ≤ y.toInt then y else x),
        (.sminu d a b, 13, if x.toNat ≤ y.toNat then x else y), (.smaxu d a b, 14, if x.toNat ≤ y.toNat then y else x),
        (.smov d a b, 15, x)] : List (Instr × Nat × Word)),
      encode p.1 = some (fmtA 0x00 p.2.1 d a b) ∧ pipeOf p.1 = .s ∧
        (d < 64 → a < 64 → b < 64 → exec p.1 s = .next (withWarp s (setS s.w d p.2.2)))

/-- R62: the bit operations of SINT2. The results of `sext` and `sins` are given bit by bit, for the field of length
n = min(N, 32 − P) that the control word names. -/
def Obligations.UniformBitWordsComputeTheirResults : Prop :=
  ∀ (s : State) (d a b : Nat), d < 64 → a < 64 → b < 64 →
    let x := rdS s.old a
    let c := rdS s.old b
    let p := c.toNat % 32
    let n := min (c.toNat / 2 ^ 8 % 64) (32 - p)
    (∀ p ∈ ([(.sclz d a b, 0), (.spopc d a b, 1), (.sbrev d a b, 2), (.sext d a b, 3), (.sins d a b, 4), (.ssel d a b, 5)] :
      List (Instr × Nat)), encode p.1 = some (fmtA 0x01 p.2 d a b) ∧ pipeOf p.1 = .s) ∧
    exec (.sclz d a b) s = .next (withWarp s (setS s.w d x.clz)) ∧
    exec (.spopc d a b) s = .next (withWarp s (setS s.w d x.cpop)) ∧
    exec (.sbrev d a b) s = .next (withWarp s (setS s.w d x.reverse)) ∧
    exec (.ssel d a b) s = .next (withWarp s (setS s.w d (if rdS s.old d ≠ 0 then x else c))) ∧
    (∃ r : Word, (∀ i < 32, r.getLsbD i = if i < n then x.getLsbD (p + i) else
        decide (0 < n) && c.getLsbD 16 && x.getLsbD (p + n - 1)) ∧
      exec (.sext d a b) s = .next (withWarp s (setS s.w d r))) ∧
    ∃ r : Word, (∀ i < 32, r.getLsbD i = if p ≤ i ∧ i < p + n then x.getLsbD (i - p) else (rdS s.old d).getLsbD i) ∧
      exec (.sins d a b) s = .next (withWarp s (setS s.w d r))

/-- R63: the ten conditions, and where the bit goes: one for the warp from the uniform operands, one for each lane. -/
def Obligations.ComparesWriteTheirCondition : Prop :=
  ∀ (s : State) (d a b : Nat) (cc : Cond),
    let holds (x y : Word) : Prop := match cc with
      | .eq => x = y | .ne => x ≠ y
      | .lt => x.toInt < y.toInt | .le => x.toInt ≤ y.toInt | .gt => x.toInt > y.toInt | .ge => x.toInt ≥ y.toInt
      | .ltu => x.toNat < y.toNat | .leu => x.toNat ≤ y.toNat | .gtu => x.toNat > y.toNat | .geu => x.toNat ≥ y.toNat
    (∀ p ∈ [(Cond.eq, 0), (.ne, 1), (.lt, 2), (.le, 3), (.gt, 4), (.ge, 5), (.ltu, 6), (.leu, 7), (.gtu, 8), (.geu, 9)],
      encode (.scmp p.1 d a b) = some (fmtA 0x02 p.2 d a b) ∧ encode (.vcmp p.1 d a b) = some (fmtA 0x0C p.2 d a b)) ∧
    (∀ w, fld w 25 6 = 0x02 ∨ fld w 25 6 = 0x0C → 10 ≤ fld w 21 4 → decodeWord w = .error .unassigned) ∧
    (d < 8 → a < 64 → b < 64 → ∃ r : Bool, (r = true ↔ holds (rdS s.old a) (rdS s.old b)) ∧
      exec (.scmp cc d a b) s = .next (withWarp s (setP s.w (liveMask s) d fun _ => r))) ∧
    (d < 8 → a < s.w.window → b < s.w.window →
      ∃ r : Nat → Bool, (∀ l, r l = true ↔ holds (rdV s.old a l) (rdV s.old b l)) ∧
        exec (.vcmp cc d a b) s = .next (withWarp s (setP s.w (liveMask s) d r)))

/-- R64, R65: the sum with the 11-bit immediate, sign-extended; the 16-bit immediate in its half, the other half zero or
kept. -/
def Obligations.ImmediateWordsComputeTheirResults : Prop :=
  ∀ (s : State) (d a imm : Nat) (hi : Bool),
    let i11 : Word := (BitVec.ofNat 11 imm).signExtend 32
    let half : Word := (BitVec.ofNat 16 imm).setWidth 32 <<< (if hi then 16 else 0)
    let kept : Word := if hi then 0x0000FFFF else 0xFFFF0000
    let h : Nat := if hi then 1 else 0
    (∀ p ∈ ([(.saddi d a imm, .s, fmtI 0x03 d a imm), (.vaddi d a imm, .v, fmtI 0x0D d a imm), (.sli hi d imm, .s, fmtL 0x04 d h imm),
        (.slik hi d imm, .s, fmtL 0x05 d h imm), (.vli hi d imm, .v, fmtL 0x0E d h imm)] : List (Instr × Pipe × Nat)),
      encode p.1 = some p.2.2 ∧ pipeOf p.1 = p.2.1) ∧
    (∀ w, fld w 25 6 ∈ [0x04, 0x05, 0x0E] → 2 ≤ fld w 16 2 → decodeWord w = .error .reserved) ∧
    (d < 64 → a < 64 → exec (.saddi d a imm) s = .next (withWarp s (setS s.w d (rdS s.old a + i11)))) ∧
    (d < s.w.window → a < s.w.window →
      exec (.vaddi d a imm) s = .next (withWarp s (setV s.w (liveMask s) d fun l => rdV s.old a l + i11))) ∧
    (d < 64 → exec (.sli hi d imm) s = .next (withWarp s (setS s.w d half))) ∧
    (d < 64 → exec (.slik hi d imm) s = .next (withWarp s (setS s.w d ((rdS s.old d &&& kept) ||| half)))) ∧
    (d < s.w.window → exec (.vli hi d imm) s = .next (withWarp s (setV s.w (liveMask s) d fun _ => half)))

/-- R60, R66: the words of VINT and VINT2 in every lane the word acts on, with B a vector or a uniform register. -/
def Obligations.VectorIntegerWordsComputeTheirResults : Prop :=
  ∀ (s : State) (u : Bool) (d a b : Nat),
    let b8 : Nat := if u then 8 else 0
    ∀ p ∈ ([(.vadd u d a b, 0x08, 0, fun x y => x + y), (.vsub u d a b, 0x08, 1, fun x y => x - y),
        (.vmul u d a b, 0x08, 2, fun x y => x * y),
        (.vmulh u d a b, 0x08, 3, fun x y => (x.signExtend 64 * y.signExtend 64).extractLsb' 32 32),
        (.vmulhu u d a b, 0x08, 4, fun x y => (x.setWidth 64 * y.setWidth 64).extractLsb' 32 32),
        (.vand u d a b, 0x08, 5, fun x y => x &&& y), (.vor u d a b, 0x08, 6, fun x y => x ||| y),
        (.vxor u d a b, 0x08, 7, fun x y => x ^^^ y),
        (.vshl u d a b, 0x09, 0, fun x y => BitVec.ofNat 32 (x.toNat * 2 ^ y.toNat)),
        (.vshr u d a b, 0x09, 1, fun x y => BitVec.ofNat 32 (x.toNat / 2 ^ y.toNat)),
        (.vsra u d a b, 0x09, 2, fun x y => BitVec.ofInt 32 (x.toInt / 2 ^ y.toNat)),
        (.vmin u d a b, 0x09, 3, fun x y => if x.toInt ≤ y.toInt then x else y),
        (.vmax u d a b, 0x09, 4, fun x y => if x.toInt ≤ y.toInt then y else x),
        (.vminu u d a b, 0x09, 5, fun x y => if x.toNat ≤ y.toNat then x else y),
        (.vmaxu u d a b, 0x09, 6, fun x y => if x.toNat ≤ y.toNat then y else x),
        (.vaddmin u d a b, 0x09, 7, fun x y =>
          BitVec.ofInt 32 (min (min x.toInt y.toInt + 1) (2 ^ 31 - 1)))] : List (Instr × Nat × Nat × (Word → Word → Word))),
      encode p.1 = some (fmtA p.2.1 (p.2.2.1 + b8) d a b) ∧ pipeOf p.1 = .v ∧
        (d < s.w.window → a < s.w.window → BInRange s u b →
          exec p.1 s = .next (withWarp s (setV s.w (liveMask s) d fun l =>
            p.2.2.2 (rdV s.old a l) (if u then rdS s.old b else rdV s.old b l))))

/-- R67: multiply-add, the saturating sums, the magnitude of the difference, extract and insert by the bits of R62. R68, R69:
the Morton interleave bit by bit, and the cell hash, of the cell moved by the offset, modulo 1,024. -/
def Obligations.ThirdGroupAndCellWordsComputeTheirResults : Prop :=
  ∀ (s : State) (u : Bool) (d a b : Nat), d < s.w.window → a < s.w.window → BInRange s u b →
    let old (l : Nat) : Word := rdV s.old d l
    let x (l : Nat) : Word := rdV s.old a l
    let y (l : Nat) : Word := if u then rdS s.old b else rdV s.old b l
    let pos (l : Nat) : Nat := (y l).toNat % 32
    let len (l : Nat) : Nat := min ((y l).toNat / 2 ^ 8 % 64) (32 - pos l)
    let sat (z : Int) : Word := BitVec.ofInt 32 (max (-2 ^ 31) (min z (2 ^ 31 - 1)))
    let coord (l k : Nat) : Nat :=
      ((rdV s.old a l).toNat / 2 ^ (10 * k) + (if u then rdS s.old b else rdV s.old b l).toNat / 2 ^ (10 * k)) % 1024
    let hash (l : Nat) : Word := BitVec.ofNat 32 (coord l 0 * 0x9E3779B1) ^^^ BitVec.ofNat 32 (coord l 1 * 0x85EBCA77) ^^^
      BitVec.ofNat 32 (coord l 2 * 0xC2B2AE3D)
    (∀ p ∈ ([(.vmad u d a b, 0, .v), (.vaddsat u d a b, 1, .v), (.vsubsat u d a b, 2, .v), (.vabsdiff u d a b, 3, .v),
        (.vext u d a b, 4, .v), (.vins u d a b, 5, .v), (.vmorton u d a b, 6, .x), (.vcellh u d a b, 7, .x)] : List (Instr × Nat × Pipe)),
      encode p.1 = some (fmtA 0x0A (p.2.1 + if u then 8 else 0) d a b) ∧ pipeOf p.1 = p.2.2) ∧
    exec (.vmad u d a b) s = .next (withWarp s (setV s.w (liveMask s) d fun l => x l * y l + old l)) ∧
    exec (.vaddsat u d a b) s = .next (withWarp s (setV s.w (liveMask s) d fun l => sat ((x l).toInt + (y l).toInt))) ∧
    exec (.vsubsat u d a b) s = .next (withWarp s (setV s.w (liveMask s) d fun l => sat ((x l).toInt - (y l).toInt))) ∧
    exec (.vabsdiff u d a b) s = .next (withWarp s (setV s.w (liveMask s) d fun l =>
      BitVec.ofNat 32 ((x l).toInt - (y l).toInt).natAbs)) ∧
    (∃ r : Nat → Word, (∀ l, ∀ i < 32, (r l).getLsbD i = if i < len l then (x l).getLsbD (pos l + i) else
        decide (0 < len l) && (y l).getLsbD 16 && (x l).getLsbD (pos l + len l - 1)) ∧
      exec (.vext u d a b) s = .next (withWarp s (setV s.w (liveMask s) d r))) ∧
    (∃ r : Nat → Word, (∀ l, ∀ i < 32, (r l).getLsbD i =
        if pos l ≤ i ∧ i < pos l + len l then (x l).getLsbD (i - pos l) else (old l).getLsbD i) ∧
      exec (.vins u d a b) s = .next (withWarp s (setV s.w (liveMask s) d r))) ∧
    (∃ r : Nat → Word, (∀ l, (∀ i < 10, ∀ k < 3, (r l).getLsbD (3 * i + k) = (coord l k).testBit i) ∧
        (r l).getLsbD 30 = false ∧ (r l).getLsbD 31 = false) ∧
      exec (.vmorton u d a b) s = .next (withWarp s (setV s.w (liveMask s) d r))) ∧
    exec (.vcellh u d a b) s = .next (withWarp s (setV s.w (liveMask s) d fun l => hash l ^^^ (hash l >>> 15)))

/-- R70, R71: the one-operand words of VUN, and the select by a predicate. -/
def Obligations.UnaryAndSelectWordsComputeTheirResults : Prop :=
  ∀ (s : State) (d a : Nat), d < s.w.window →
    (∀ p ∈ ([(.vnot d a, 0, fun x => ~~~x), (.vneg d a, 1, fun x => 0 - x),
        (.vabs d a, 2, fun x => if x.toInt < 0 then 0 - x else x), (.vclz d a, 3, fun x => x.clz),
        (.vpopc d a, 4, fun x => x.cpop), (.vbrev d a, 5, fun x => x.reverse), (.vmov d a, 6, fun x => x)] :
          List (Instr × Nat × (Word → Word))),
      encode p.1 = some (fmtA 0x0B p.2.1 d a 0) ∧ pipeOf p.1 = .v ∧ (a < s.w.window →
        exec p.1 s = .next (withWarp s (setV s.w (liveMask s) d fun l => p.2.2 (rdV s.old a l))))) ∧
    encode (.vbcastS d a) = some (fmtA 0x0B 7 d a 0) ∧ pipeOf (.vbcastS d a) = .v ∧
    (a < 64 → exec (.vbcastS d a) s = .next (withWarp s (setV s.w (liveMask s) d fun _ => rdS s.old a))) ∧
    ∀ (u : Bool) (n b : Nat), n < 8 → a < s.w.window → BInRange s u b →
      encode (.vsel u n d a b) = some (fmtA 0x0F (n + if u then 8 else 0) d a b) ∧ pipeOf (.vsel u n d a b) = .v ∧
      exec (.vsel u n d a b) s = .next (withWarp s (setV s.w (liveMask s) d fun l =>
        if rdP s.old n l then rdV s.old a l else if u then rdS s.old b else rdV s.old b l))

/-- R72: predicate logic, one bit in each lane. -/
def Obligations.PredicateWordsComputeTheirBits : Prop :=
  ∀ (s : State) (d a b : Nat), d < 8 → a < 8 → b < 8 →
    let x (l : Nat) : Bool := rdP s.old a l
    let y (l : Nat) : Bool := rdP s.old b l
    ∀ p ∈ ([(.pand d a b, 0, b, fun l => x l && y l), (.por d a b, 1, b, fun l => x l || y l),
        (.pxor d a b, 2, b, fun l => x l ^^ y l), (.pandn d a b, 3, b, fun l => x l && !y l), (.pnot d a, 4, 0, fun l => !x l),
        (.pmov d a, 5, 0, x)] : List (Instr × Nat × Nat × (Nat → Bool))),
      encode p.1 = some (fmtA 0x10 p.2.1 d a p.2.2.1) ∧ pipeOf p.1 = .v ∧
      exec p.1 s = .next (withWarp s (setP s.w (liveMask s) d p.2.2.2))

/-- R7, R59: a write to s0 or to p0 is discarded: the word leaves the whole state as it was, while s0 reads as 0 and p0
as true. -/
def Obligations.WritesToHardWiredRegistersAreDiscarded : Prop :=
  ∀ (s : State) (a b imm : Nat) (hi : Bool) (cc : Cond), a < 64 → b < 64 →
    rdS s.w 0 = 0 ∧ (∀ l, rdP s.w 0 l = true) ∧
    (∀ i ∈ [.sadd 0 a b, .smulh 0 a b, .sshl 0 a b, .smov 0 a b, .sins 0 a b, .sext 0 a b, .scmp cc 0 a b, .saddi 0 a imm,
        .sli hi 0 imm, .slik hi 0 imm], exec i s = .next s) ∧
    ∀ p q : Nat, p < 8 → q < 8 → ∀ i ∈ [.pand 0 p q, .pnot 0 p], exec i s = .next s


/-! ### Floating-point words -/

/-- R40, R45: rounding the value m / 2^k to a whole number: towards zero, up, down, or to the nearest, ties to even; it is
exact only where nothing is dropped. The value is negative where `neg` is true and `q` is the magnitude.
R43 to R46, R88: sums, differences, products, fused products and the magnitudes of differences of finite numbers, in the four
formats, are the exact values rounded once, with OF, UF and NX; an exact zero has the sign of R46. An infinity beside a finite
number goes through the sum, and the product with a number that is not zero is an infinity. -/
def Obligations.RoundingFollowsItsMode : Prop :=
  (∀ f ∈ [fp64, fp32, bf16, fp16], ∀ (rm x y w : Nat) (ftz : Bool), rm < 4 →
    let top : Nat := 2 ^ (f.eb + f.fb)
    let inf : Nat := (2 ^ f.eb - 1) * 2 ^ f.fb
    x < 2 * top → y < 2 * top → w < 2 * top → expField f y < 2 ^ f.eb - 1 →
    let a := readAs f ftz x
    let b := readAs f ftz y
    let c := readAs f ftz w
    (expField f x < 2 ^ f.eb - 1 → expField f w < 2 ^ f.eb - 1 →
      (∀ p ∈ [(f.add rm ftz x y, a + b), (f.sub rm ftz x y, a - b), (f.mul rm ftz x y, a * b), (f.fma rm ftz x y w, a * b + c),
          (f.absdiff rm ftz x y, |a - b|)], p.2 ≠ 0 → RoundedOnce f rm ftz p.2 p.1) ∧
      (a + b = 0 → f.add rm ftz x y =
        (if signBit f x = signBit f y then signBit f x * top else if rm = 3 then top else 0, 0)) ∧
      (a - b = 0 → f.sub rm ftz x y =
        (if signBit f x ≠ signBit f y then signBit f x * top else if rm = 3 then top else 0, 0) ∧ f.absdiff rm ftz x y = (0, 0)) ∧
      (a * b = 0 → f.mul rm ftz x y = ((signBit f x + signBit f y) % 2 * top, 0)) ∧
      (a * b + c = 0 → f.fma rm ftz x y w =
        (if (signBit f x + signBit f y) % 2 = signBit f w then signBit f w * top else if rm = 3 then top else 0, 0))) ∧
    (x % top = inf → f.add rm ftz x y = (x, 0) ∧ f.sub rm ftz x y = (x, 0) ∧
      (b ≠ 0 → f.mul rm ftz x y = ((signBit f x + signBit f y) % 2 * top + inf, 0)))) ∧
  ∀ (rm m k : Nat) (neg : Bool) (e x : Int), rm < 4 → x - e = k →
    let q := (roundAt rm neg m e x).1
    let exact := m % 2 ^ k = 0
    ((roundAt rm neg m e x).2 = true ↔ ¬ exact) ∧
    (exact → q * 2 ^ k = m) ∧
    (q = m / 2 ^ k ∨ q = m / 2 ^ k + 1) ∧
    (rm = 1 → q = m / 2 ^ k) ∧
    (rm = 2 → ¬ exact → q = if neg then m / 2 ^ k else m / 2 ^ k + 1) ∧
    (rm = 3 → ¬ exact → q = if neg then m / 2 ^ k + 1 else m / 2 ^ k) ∧
    (rm = 0 → 2 * q * 2 ^ k ≤ 2 * m + 2 ^ k ∧ 2 * m ≤ 2 * q * 2 ^ k + 2 ^ k ∧
      (2 * (m % 2 ^ k) = 2 ^ k → q % 2 = 0))

/-- R44: an operation on a NaN gives the canonical quiet NaN of its format, and raises NV just where an operand is a
signalling NaN; an infinity less itself and zero times infinity give it and raise NV. -/
def Obligations.NaNResultsAreCanonical : Prop :=
  ∀ p ∈ [(fp64, 0x7FF8000000000000), (fp32, 0x7FC00000), (bf16, 0x7FC0), (fp16, 0x7E00)],
    let f := p.1
    let isNaN (x : Nat) : Prop := x / 2 ^ f.fb % 2 ^ f.eb = 2 ^ f.eb - 1 ∧ x % 2 ^ f.fb ≠ 0
    let sNaN (x : Nat) : Prop := isNaN x ∧ x % 2 ^ f.fb < 2 ^ (f.fb - 1)
    let inf : Nat := (2 ^ f.eb - 1) * 2 ^ f.fb
    ∀ (rm x y : Nat) (ftz : Bool),
      (isNaN x ∨ isNaN y → ∀ op ∈ [f.add rm ftz, f.sub rm ftz, f.mul rm ftz, f.absdiff rm ftz],
        (op x y).1 = p.2 ∧ (sNaN x ∨ sNaN y → (op x y).2 = flNV) ∧ (¬ sNaN x → ¬ sNaN y → (op x y).2 = 0)) ∧
      f.sub rm ftz inf inf = (p.2, flNV) ∧ f.mul rm ftz 0 inf = (p.2, flNV) ∧
      f.fma rm ftz 0 inf p.2 = (p.2, flNV)

/-- R86, R88 to R90: the FP32 words: the result of each lane the word acts on, under the warp's rounding mode and FTZ as
they stood when the word read its operands, and the union of the flags of those lanes; `vfcpys` moves bits and raises
none. What the sums and products are, `RoundingFollowsItsMode` says. R89: the lesser and the greater of two numbers, −0 below +0
and subnormals read as zeros under FTZ; beside one NaN the other operand, of two NaNs the canonical one. -/
def Obligations.SinglePrecisionWordsComputeTheirResults : Prop :=
  ∀ (s : State) (u : Bool) (d a b : Nat), d < s.w.window → a < s.w.window → BInRange s u b →
    let rm := s.old.fpmode.toNat % 4
    let ftz := s.old.fpmode.getLsbD 2
    let x (l : Nat) : Nat := (rdV s.old a l).toNat
    let y (l : Nat) : Nat := (if u then rdS s.old b else rdV s.old b l).toNat
    (∀ f ∈ [fp32, fp64], ∀ (ftz : Bool) (x y : Nat), x < 2 * 2 ^ (f.eb + f.fb) → y < 2 * 2 ^ (f.eb + f.fb) →
      let top : Nat := 2 ^ (f.eb + f.fb)
      let inf : Nat := (2 ^ f.eb - 1) * 2 ^ f.fb
      let isNaN (x : Nat) : Prop := inf < x % top
      let sNaN (x : Nat) : Prop := isNaN x ∧ x % 2 ^ f.fb < 2 ^ (f.fb - 1)
      let nv (r : Nat) : Nat × FpFlags := (r, if sNaN x ∨ sNaN y then flNV else 0)
      let z (x : Nat) : Nat := if ftz = true ∧ expField f x = 0 then signBit f x * top else x
      let rank (x : Nat) : Int := if signBit f x = 1 then -(x % top : Nat) - 1 else (x % top : Nat)
      (isNaN x → isNaN y → ∀ mx, f.minmax mx ftz x y = nv (inf + 2 ^ (f.fb - 1))) ∧
      (isNaN x → ¬ isNaN y → ∀ mx, f.minmax mx ftz x y = nv (z y)) ∧
      (¬ isNaN x → isNaN y → ∀ mx, f.minmax mx ftz x y = nv (z x)) ∧
      (¬ isNaN x → ¬ isNaN y →
        f.minmax false ftz x y = (if rank (z x) ≤ rank (z y) then z x else z y, 0) ∧
        f.minmax true ftz x y = (if rank (z x) ≤ rank (z y) then z y else z x, 0))) ∧
    (∀ p ∈ ([(.vfadd u d a b, fun l => fp32.add rm ftz (x l) (y l)), (.vfsub u d a b, fun l => fp32.sub rm ftz (x l) (y l)),
        (.vfmul u d a b, fun l => fp32.mul rm ftz (x l) (y l)),
        (.vffma u d a b, fun l => fp32.fma rm ftz (x l) (y l) (rdV s.old d l).toNat),
        (.vfmin u d a b, fun l => fp32.minmax false ftz (x l) (y l)),
        (.vfmax u d a b, fun l => fp32.minmax true ftz (x l) (y l)),
        (.vfabsd u d a b, fun l => fp32.absdiff rm ftz (x l) (y l))] : List (Instr × (Nat → Nat × FpFlags))),
      ∃ fl, RaisedBy (liveMask s) (fun l => (p.2 l).2) fl ∧
        exec p.1 s = .next (raise (withWarp s (setV s.w (liveMask s) d fun l => BitVec.ofNat 32 (p.2 l).1)) fl)) ∧
    exec (.vfcpys u d a b) s = .next (withWarp s (setV s.w (liveMask s) d fun l =>
      BitVec.ofNat 32 (x l % 2 ^ 31 + y l / 2 ^ 31 * 2 ^ 31)))

/-- R91: the FP64 words on pairs, the low word of the result in the even register. -/
def Obligations.DoublePrecisionWordsComputeTheirResults : Prop :=
  ∀ (s : State) (d a b : Nat), InWindow s d 2 → InWindow s a 2 → InWindow s b 2 →
    let rm := s.old.fpmode.toNat % 4
    let ftz := s.old.fpmode.getLsbD 2
    let pair (r l : Nat) : Nat := (rdV s.old r l).toNat + 2 ^ 32 * (rdV s.old (r + 1) l).toNat
    ∀ p ∈ ([(.vdadd d a b, fun l => fp64.add rm ftz (pair a l) (pair b l)),
        (.vdsub d a b, fun l => fp64.sub rm ftz (pair a l) (pair b l)),
        (.vdmul d a b, fun l => fp64.mul rm ftz (pair a l) (pair b l)),
        (.vdfma d a b, fun l => fp64.fma rm ftz (pair a l) (pair b l) (pair d l)),
        (.vdmin d a b, fun l => fp64.minmax false ftz (pair a l) (pair b l)),
        (.vdmax d a b, fun l => fp64.minmax true ftz (pair a l) (pair b l))] : List (Instr × (Nat → Nat × FpFlags))),
      ∃ fl, RaisedBy (liveMask s) (fun l => (p.2 l).2) fl ∧
        exec p.1 s = .next (raise (withWarp s (setV (setV s.w (liveMask s) d fun l => BitVec.ofNat 32 (p.2 l).1)
          (liveMask s) (d + 1) fun l => BitVec.ofNat 32 ((p.2 l).1 / 2 ^ 32))) fl)

/-- R92: the packed words: each half by itself, BF16 or FP16, and the flags of both halves of every lane. -/
def Obligations.PackedHalfWordsComputeBothElements : Prop :=
  ∀ (s : State) (h : Bool) (d a b : Nat), d < s.w.window → a < s.w.window → b < s.w.window →
    let rm := s.old.fpmode.toNat % 4
    let ftz := s.old.fpmode.getLsbD 2
    let f : Fmt := if h then fp16 else bf16
    let elem (r l e : Nat) : Nat := (rdV s.old r l).toNat / 2 ^ (16 * e) % 2 ^ 16
    ∀ p ∈ ([(.vhadd2 h d a b, fun l e => f.add rm ftz (elem a l e) (elem b l e)),
        (.vhsub2 h d a b, fun l e => f.sub rm ftz (elem a l e) (elem b l e)),
        (.vhmul2 h d a b, fun l e => f.mul rm ftz (elem a l e) (elem b l e)),
        (.vhfma2 h d a b, fun l e => f.fma rm ftz (elem a l e) (elem b l e) (elem d l e))] :
          List (Instr × (Nat → Nat → Nat × FpFlags))),
      ∃ fl, RaisedBy (liveMask s) (fun l => (p.2 l 0).2 ||| (p.2 l 1).2) fl ∧
        exec p.1 s = .next (raise (withWarp s (setV s.w (liveMask s) d fun l =>
          BitVec.ofNat 32 ((p.2 l 0).1 + 2 ^ 16 * (p.2 l 1).1))) fl)

/-- R93: the eight conditions on two ordered numbers and on an unordered pair, and NV: for any NaN under an order
condition, else for a signalling one only. -/
def Obligations.FloatComparesWriteTheirCondition : Prop :=
  ∀ (s : State) (cc : FCond) (d a b : Nat), d < 8 →
    let ftz := s.old.fpmode.getLsbD 2
    let holds (x y : Machine.Num) : Prop := if x.isNan ∨ y.isNan then cc = .ne ∨ cc = .uno else match cc with
      | .eq => x.cmp y = 0 | .ne => x.cmp y ≠ 0 | .lt => x.cmp y < 0 | .le => x.cmp y ≤ 0 | .gt => 0 < x.cmp y
      | .ge => 0 ≤ x.cmp y | .uno => False | .ord => True
    let invalid (x y : Machine.Num) : Prop := match cc with
      | .lt | .le | .gt | .ge => x.isNan = true ∨ y.isNan = true
      | _ => x = .nan true ∨ y = .nan true
    let writes (i : Instr) (x y : Nat → Machine.Num) : Prop :=
      ∃ (r : Nat → Bool) (g : Nat → FpFlags) (fl : FpFlags), RaisedBy (liveMask s) g fl ∧
        (∀ l, (r l = true ↔ holds (x l) (y l)) ∧ (invalid (x l) (y l) → g l = flNV) ∧ (¬ invalid (x l) (y l) → g l = 0)) ∧
        exec i s = .next (raise (withWarp s (setP s.w (liveMask s) d r)) fl)
    (a < s.w.window → b < s.w.window → writes (.vfcmp cc d a b) (fun l => fp32.decodeFtz ftz (rdV s.old a l).toNat)
      fun l => fp32.decodeFtz ftz (rdV s.old b l).toNat) ∧
    (InWindow s a 2 → InWindow s b 2 → writes (.vfcmpF64 cc d a b) (fun l => fp64.decodeFtz ftz (rdV2 s.old a l))
      fun l => fp64.decodeFtz ftz (rdV2 s.old b l))

/-- R94, R95: the conversions to one 32-bit element, and to FP64, of a register or a pair; the packed conversions: element e of a
result comes from register A + e, and byte i from A + i; an FP16 pair becomes two FP32 registers. The rounding is that of the
word, and the flags are those of every lane. -/
def Obligations.ConversionsWriteEveryElement : Prop :=
  ∀ (s : State) (d a : Nat) (sat : Bool) (rm : Nat),
    let ftz := s.old.fpmode.getLsbD 2
    let f32 (r l : Nat) : Machine.Num := fp32.decodeFtz ftz (rdV s.old r l).toNat
    let f64 (l : Nat) : Machine.Num := fp64.decodeFtz ftz (rdV2 s.old a l)
    let code (n : Nat) (r : Int × FpFlags) : Nat × FpFlags := ((r.1 % 2 ^ n).toNat, r.2)
    let int (x : Int) : Machine.Num := .fin (decide (x < 0)) x.natAbs 0
    (∀ p ∈ ([(.vcvtF32I32 d a sat rm, 1, fun l => fp32.cvt rm sat false (int (rdV s.old a l).toInt)),
        (.vcvtF32O32 d a sat rm, 1, fun l => fp32.cvt rm sat false (int (rdV s.old a l).toNat)),
        (.vcvtI32F32 d a rm, 1, fun l => code 32 (cvtInt rm (-2 ^ 31) (2 ^ 31 - 1) (f32 a l))),
        (.vcvtO32F32 d a rm, 1, fun l => code 32 (cvtInt rm 0 (2 ^ 32 - 1) (f32 a l))),
        (.vcvtI32F64 d a rm, 2, fun l => code 32 (cvtInt rm (-2 ^ 31) (2 ^ 31 - 1) (f64 l))),
        (.vcvtF32F64 d a sat rm, 2, fun l => fp32.cvt rm sat ftz (f64 l)),
        (.vcvtF19F32 d a sat rm, 1, fun l => let r := f19.cvt rm sat false (f32 a l); (r.1 * 2 ^ 13, r.2))] :
          List (Instr × Nat × (Nat → Nat × FpFlags))),
      d < s.w.window → InWindow s a p.2.1 → ∃ fl, RaisedBy (liveMask s) (fun l => (p.2.2 l).2) fl ∧
        exec p.1 s = .next (raise (withWarp s (setV s.w (liveMask s) d fun l => BitVec.ofNat 32 (p.2.2 l).1)) fl)) ∧
    (∀ p ∈ ([(.vcvtF64F32 d a, fun l => fp64.cvt 0 false ftz (f32 a l)),
        (.vcvtF64I32 d a, fun l => fp64.cvt 0 false false (int (rdV s.old a l).toInt))] : List (Instr × (Nat → Nat × FpFlags))),
      InWindow s d 2 → a < s.w.window → ∃ fl, RaisedBy (liveMask s) (fun l => (p.2 l).2) fl ∧
        exec p.1 s = .next (raise (withWarp s (setV (setV s.w (liveMask s) d fun l => BitVec.ofNat 32 (p.2 l).1)
          (liveMask s) (d + 1) fun l => BitVec.ofNat 32 ((p.2 l).1 / 2 ^ 32))) fl)) ∧
    (∀ p ∈ ([(.vcvtBf16x2F32 d a sat rm, fun l e => bf16.cvt rm sat ftz (f32 (a + e) l)),
        (.vcvtF16x2F32 d a sat rm, fun l e => fp16.cvt rm sat ftz (f32 (a + e) l)),
        (.vcvtI16x2F32 d a rm, fun l e => code 16 (cvtInt rm (-2 ^ 15) (2 ^ 15 - 1) (f32 (a + e) l)))] :
          List (Instr × (Nat → Nat → Nat × FpFlags))),
      d < s.w.window → InWindow s a 2 → ∃ fl, RaisedBy (liveMask s) (fun l => (p.2 l 0).2 ||| (p.2 l 1).2) fl ∧
        exec p.1 s = .next (raise (withWarp s (setV s.w (liveMask s) d fun l =>
          BitVec.ofNat 32 ((p.2 l 0).1 + 2 ^ 16 * (p.2 l 1).1))) fl)) ∧
    (∀ p ∈ ([(.vcvtE4m3x4F32 d a sat rm, fun l e => e4m3.cvt rm sat false (f32 (a + e) l)),
        (.vcvtE5m2x4F32 d a sat rm, fun l e => e5m2.cvt rm sat false (f32 (a + e) l)),
        (.vcvtO8x4F32 d a rm, fun l e => code 8 (cvtInt rm 0 255 (f32 (a + e) l)))] :
          List (Instr × (Nat → Nat → Nat × FpFlags))),
      d < s.w.window → InWindow s a 4 →
      ∃ fl, RaisedBy (liveMask s) (fun l => (p.2 l 0).2 ||| (p.2 l 1).2 ||| (p.2 l 2).2 ||| (p.2 l 3).2) fl ∧
        exec p.1 s = .next (raise (withWarp s (setV s.w (liveMask s) d fun l =>
          BitVec.ofNat 32 ((p.2 l 0).1 + 2 ^ 8 * (p.2 l 1).1 + 2 ^ 16 * (p.2 l 2).1 + 2 ^ 24 * (p.2 l 3).1))) fl)) ∧
    (InWindow s d 2 → a < s.w.window →
      let r (l e : Nat) : Nat × FpFlags := fp32.cvt 0 false ftz (fp16.decodeFtz ftz ((rdV s.old a l).toNat / 2 ^ (16 * e) % 2 ^ 16))
      ∃ fl, RaisedBy (liveMask s) (fun l => (r l 0).2 ||| (r l 1).2) fl ∧
        exec (.vcvtF32x2F16x2 d a) s = .next (raise (withWarp s (setV (setV s.w (liveMask s) d fun l =>
          BitVec.ofNat 32 (r l 0).1) (liveMask s) (d + 1) fun l => BitVec.ofNat 32 (r l 1).1)) fl))

/-- R96 to R99: a special function gives each lane the value of one fixed function of its argument, the rounding mode and
FTZ, and `hrnd` the hash of the row, the column, the tensor and the seed; both arrive with their window, `hrnd` without
flags. R97: the special cases: zeros, infinities, negative arguments and NaNs, with their flags.
R96, without FTZ: a finite reciprocal and a finite reciprocal root lie within one ulp, the spacing in the binade of the exact value;
the root is correctly rounded; what every other function answers lies within its bound of the model's own evaluation of it.
The model's own choices in it: log entries 17, 18 and 87. -/
def Obligations.SpecialFunctionsAndHashesArriveLater : Prop :=
  ∀ (s : State) (la d a ua ub : Nat),
    let rm := s.old.fpmode.toNat % 4
    let ftz := s.old.fpmode.getLsbD 2
    (∀ p ∈ ([(.vfrcp la d a, 0), (.vfrsq la d a, 1), (.vfsqrt la d a, 2), (.vfexp2 la d a, 3), (.vflog2 la d a, 4),
        (.vfsin la d a, 5), (.vfcos la d a, 6), (.vftanh la d a, 7)] : List (Instr × Nat)),
      d < s.w.window → a < s.w.window →
      ∃ fl, RaisedBy (liveMask s) (fun l => (sfu p.2 rm ftz (rdV s.old a l)).2) fl ∧
        exec p.1 s = .next (withResult s ⟨.v, d, 1⟩ la 0
          (perLane (liveMask s) fun l => [.v l d (BitVec.ofNat 32 (sfu p.2 rm ftz (rdV s.old a l)).1)]) fl true)) ∧
    (InWindow s d 2 → ua % 2 = 0 → ua + 2 ≤ 64 → ub < 64 →
      let key (l : Nat) : DWord := (rdS s.old ub).extractLsb' 0 16 ++ (rdV s.old d l).extractLsb' 0 24 ++
        (rdV s.old (d + 1) l).extractLsb' 0 24
      let x0 (l : Nat) : DWord := key l ^^^ (rdS s.old (ua + 1) ++ rdS s.old ua)
      let x1 (l : Nat) : DWord := (x0 l ^^^ (x0 l >>> 30)) * 0xBF58476D1CE4E5B9
      let x2 (l : Nat) : DWord := (x1 l ^^^ (x1 l >>> 27)) * 0x94D049BB133111EB
      let x3 (l : Nat) : DWord := x2 l ^^^ (x2 l >>> 31)
      exec (.hrnd la d ua ub) s = .next (withResult s ⟨.v, d, 2⟩ la 0
        (perLane (liveMask s) fun l => [.v l d ((x3 l).extractLsb' 32 32 ^^^ (x3 l).extractLsb' 0 32)]) 0 false)) ∧
    (∀ (rm : Nat) (x : Word),
      let z := readAs fp32 false x.toNat
      let ulpAt (k : ℤ) : ℚ := 2 ^ (k - 23)
      let val (fn : Nat) : ℚ := readAs fp32 false (sfu fn rm false x).1
      let fin (c : Nat) : Prop := expField fp32 c < 255
      (fin x.toNat → z ≠ 0 → fin (sfu 0 rm false x).1 →
        ∃ k : ℤ, -126 ≤ k ∧ (k = -126 ∨ 2 ^ k ≤ 1 / |z|) ∧ |val 0 - 1 / z| ≤ ulpAt k) ∧
      (fin x.toNat → 0 < z → ∃ k : ℤ, 4 ^ k * z ≤ 1 ∧ ulpAt k < val 1 ∧
        (val 1 - ulpAt k) ^ 2 * z ≤ 1 ∧ 1 ≤ (val 1 + ulpAt k) ^ 2 * z) ∧
      (fin x.toNat → 0 < z → rm < 4 → ∃ q, (sfu 2 rm false x).1 = q ∧ fin q ∧
        (rm = 0 → 4 * z ≤ (magOf fp32 q + magOf fp32 (q + 1)) ^ 2 ∧ (magOf fp32 (q - 1) + magOf fp32 q) ^ 2 ≤ 4 * z) ∧
        (rm = 1 ∨ rm = 3 → magOf fp32 q ^ 2 ≤ z ∧ z < magOf fp32 (q + 1) ^ 2) ∧
        (rm = 2 → z ≤ magOf fp32 q ^ 2 ∧ magOf fp32 (q - 1) ^ 2 < z) ∧
        ((sfu 2 rm false x).2 = if magOf fp32 q ^ 2 = z then 0 else flNX))) ∧
    (∀ (fn : Nat) (x : Word) (v tol : Int), v.natAbs < 2 ^ (127 + fxBits) → fxUlp v ≤ tol →
      ∃ y, fxOfCode (sfuFit fn x false v tol).1 = some y ∧ (y - v).natAbs ≤ tol.natAbs) ∧
    (∀ (rm : Nat) (ftz : Bool),
      sfu 0 rm ftz 0 = (0x7F800000, flDZ) ∧ sfu 0 rm ftz 0x80000000 = (0xFF800000, flDZ) ∧
      sfu 0 rm ftz 0x7F800000 = (0, 0) ∧ sfu 0 rm ftz 0xFF800000 = (0x80000000, 0) ∧
      sfu 1 rm ftz 0 = (0x7F800000, flDZ) ∧ sfu 1 rm ftz 0x80000000 = (0xFF800000, flDZ) ∧ sfu 1 rm ftz 0x7F800000 = (0, 0) ∧
      sfu 1 rm ftz 0xBF800000 = (0x7FC00000, flNV) ∧ sfu 2 rm ftz 0x80000000 = (0x80000000, 0) ∧
      sfu 2 rm ftz 0xC0800000 = (0x7FC00000, flNV) ∧ sfu 2 rm ftz 0x7F800000 = (0x7F800000, 0) ∧
      sfu 3 rm ftz 0xFF800000 = (0, 0) ∧ sfu 3 rm ftz 0x7F800000 = (0x7F800000, 0) ∧
      sfu 3 rm ftz 0x43000000 = (0x7F800000, flOF ||| flNX) ∧
      sfu 4 rm ftz 0 = (0xFF800000, flDZ) ∧ sfu 4 rm ftz 0xBF800000 = (0x7FC00000, flNV) ∧
      sfu 4 rm ftz 0x7F800000 = (0x7F800000, 0) ∧ sfu 5 rm ftz 0x7F800000 = (0x7FC00000, flNV) ∧
      sfu 6 rm ftz 0xFF800000 = (0x7FC00000, flNV) ∧ sfu 6 rm ftz 0 = (0x3F800000, 0) ∧
      sfu 7 rm ftz 0x7F800000 = (0x3F800000, 0) ∧ sfu 7 rm ftz 0x41100000 = (0x3F800000, flNX) ∧
      ∀ fn < 8, sfu fn rm ftz 0x7FC00001 = (0x7FC00000, 0) ∧ sfu fn rm ftz 0x7F800001 = (0x7FC00000, flNV))

/-! ### Words between lanes -/

/-- R112, R113, R146, R148, R151: a shuffle or a broadcast gives each receiving lane (Active, a member, no fault) the value
its source lane held when the bundle read its operands, whether that lane is Active or not; a source that is no member or
lies outside the warp leaves the lane as it is. The result arrives with its window; the report of absent members is
written at once.
The model's own choices in it: log entry 68. -/
def Obligations.ShufflesTakeTheirSourceLane : Prop :=
  ∀ (s : State) (la d ua m : Nat), s.old.lanes.length = 64 → m < 4 →
    let member (l : Nat) : Bool := rdP s.old m l
    let absent (l : Nat) : Bool := member l && !s.iss.active.getLsbD l
    let n : Int := (rdS s.old ua).toNat
    let answers (i : Instr) (t : Target) (src : Nat → Int) : Prop :=
      exec i s = .next (withReport (withResult s t la 0
        ((lanesThat fun l => (liveMask s).getLsbD l && member l).flatMap fun l =>
          if 0 ≤ src l ∧ src l < 64 ∧ member (src l).toNat then [.v l d (rdV s.old d (src l).toNat)] else []) 0 false) absent)
    (d < s.w.window → ua < 64 →
      answers (.vshflUp la d ua m) ⟨.v, d, 1⟩ (fun l => l - n) ∧ answers (.vshflDown la d ua m) ⟨.v, d, 1⟩ (fun l => l + n) ∧
      answers (.vshflXor la d ua m) ⟨.v, d, 1⟩ (fun l => (BitVec.ofNat 32 l ^^^ rdS s.old ua).toNat) ∧
      answers (.vbcast la d ua m) ⟨.v, d, 1⟩ fun _ => n) ∧
    (InWindow s d 2 → answers (.vshflIdx la d m) ⟨.v, d, 2⟩ fun l => (rdV s.old (d + 1) l).toNat)

/-- R112, R149, R151: votes and the ballot count the lanes that are Active members. A vote gives its bit to each of them
that does not fault; the ballot is a uniform pair, zero where there is none.
The model's own choices in it: log entry 68. -/
def Obligations.VotesAndBallotsCountActiveMembers : Prop :=
  ∀ (s : State) (la d p m : Nat), p < 8 → m < 4 →
    let member (l : Nat) : Bool := rdP s.old m l
    let counts (l : Nat) : Bool := s.iss.active.getLsbD l && member l
    let absent (l : Nat) : Bool := member l && !s.iss.active.getLsbD l
    let bits (r : Bool) : List RegWrite := (lanesThat fun l => (liveMask s).getLsbD l && member l).map fun l => .p l d r
    (d < 8 → (∃ r : Bool, (r = true ↔ ∃ l < 64, counts l = true ∧ rdP s.old p l = true) ∧
        exec (.vvoteAny la d p m) s = .next (withReport (withResult s ⟨.p, d, 1⟩ la 0 (bits r) 0 false) absent)) ∧
      ∃ r : Bool, (r = true ↔ ∀ l < 64, counts l = true → rdP s.old p l = true) ∧
        exec (.vvoteAll la d p m) s = .next (withReport (withResult s ⟨.p, d, 1⟩ la 0 (bits r) 0 false) absent)) ∧
    (d % 2 = 0 → d + 2 ≤ 64 → ∃ b : BitVec 64, (∀ l < 64, b.getLsbD l = (counts l && rdP s.old p l)) ∧
      exec (.vballot la d p m) s = .next (withReport (withResult s ⟨.s, d, 2⟩ la 0
        [.s d (b.extractLsb' 0 32), .s (d + 1) (b.extractLsb' 32 32)] 0 false) absent))

/-- R150: a reduction step combines a lane's own value with its partner's, a scan step the value below with its own; a
lane whose source has no value keeps its own and raises nothing.
The model's own choices in it: log entry 68. -/
def Obligations.ReductionAndScanStepsCombineTwoLanes : Prop :=
  ∀ (s : State) (la d ua m : Nat) (op : StepOp), s.old.lanes.length = 64 → m < 4 → d < s.w.window → ua < 64 →
    let member (l : Nat) : Bool := rdP s.old m l
    let absent (l : Nat) : Bool := member l && !s.iss.active.getLsbD l
    let f (x y : Word) : Word × FpFlags := match op with
      | .addO32 => (x + y, 0)
      | .minI32 => (if x.toInt ≤ y.toInt then x else y, 0)
      | .maxI32 => (if x.toInt ≤ y.toInt then y else x, 0)
      | .addF32 => let r := fp32.add (s.old.fpmode.toNat % 4) (s.old.fpmode.getLsbD 2) x.toNat y.toNat
                   (BitVec.ofNat 32 r.1, r.2)
    let answers (i : Instr) (src : Nat → Int) (val : Nat → Word → Word × FpFlags) : Prop :=
      let has (l : Nat) : Bool := decide (0 ≤ src l ∧ src l < 64) && member (src l).toNat
      let r (l : Nat) : Word × FpFlags := val l (rdV s.old d (src l).toNat)
      ∃ fl, RaisedBy (liveMask s) (fun l => if member l && has l then (r l).2 else 0) fl ∧
        exec i s = .next (withReport (withResult s ⟨.v, d, 1⟩ la 0
          ((lanesThat fun l => (liveMask s).getLsbD l && member l && has l).map fun l => .v l d (r l).1) fl
          (op == .addF32)) absent)
    answers (.vredStep la d ua op m) (fun l => (BitVec.ofNat 32 l ^^^ rdS s.old ua).toNat)
      (fun l y => f (rdV s.old d l) y) ∧
    answers (.vscanStep la d ua op m) (fun l => (l : Int) - (rdS s.old ua).toNat) fun l y => f y (rdV s.old d l)

/-! ### Control -/

/-- R74, R105: each lane of a branch follows its own predicate: the taking lanes go to the branch word's place plus the
signed 20-bit offset, the others behind the bundle; `call` also writes the PC behind the bundle to s63. -/
def Obligations.BranchesSendEachLaneByItsPredicate : Prop :=
  ∀ (s : State) (p off : Nat), p < 8 → off < 2 ^ 20 →
    let target : Word := s.iss.pc + BitVec.ofNat 32 s.iss.pos + (BitVec.ofNat 20 off).signExtend 32
    let behind : Word := s.iss.pc + BitVec.ofNat 32 s.iss.words
    let ts := (lanesThat fun l => (liveMask s).getLsbD l && rdP s.old p l).map fun l => (l, target)
    let goes (t : State) : Prop := ∀ l < s.w.lanes.length, l < 64 → (liveMask s).getLsbD l = true → (s.w.lane l).st = .run →
      (s.w.lane l).inRep = false → s.iss.rep = false → s.iss.abort = false →
        ((advance t).lane l).pc = if rdP s.old p l then target else behind
    let t := withTargets s ts
    let u := withTargets (withWarp s (setS s.w 63 behind)) ts
    exec (.br p off) s = .next t ∧ goes t ∧ exec (.call p off) s = .next u ∧ goes u

/-- R152: the vote of a `bv` over the whole Active set: uniformly taken, uniformly not taken or divergent; where each
policy sends the lanes, and what `%vote` says. A divergent `bv.uni` kills the warp with class VOTE.
The model's own choices in it: log entry 68. -/
def Obligations.VoteBranchesFollowTheirPolicy : Prop :=
  ∀ (s : State) (p off : Nat), p < 8 → off < 2 ^ 20 →
    let target : Word := s.iss.pc + BitVec.ofNat 32 s.iss.pos + (BitVec.ofNat 20 off).signExtend 32
    let all : Prop := ∀ l < 64, s.iss.active.getLsbD l = true → rdP s.old p l = true
    let some' : Prop := ∃ l < 64, s.iss.active.getLsbD l = true ∧ rdP s.old p l = true
    ∃ out : Nat, (out = 1 ∧ all ∨ out = 2 ∧ ¬ all ∧ ¬ some' ∨ out = 3 ∧ ¬ all ∧ some') ∧
      (out = 3 → exec (.bvUni p off) s = .next (kill .vote s)) ∧
      ∀ q ∈ [(Instr.bvSplit p off, 0), (.bvAny p off, 1), (.bvAll p off, 2), (.bvUni p off, 3)], (q.2 = 3 → out ≠ 3) →
        exec q.1 s = .next (withWarp
          (withTargets s ((lanesThat fun l => (liveMask s).getLsbD l &&
            (out == 1 || (out == 3 && (q.2 == 1 || (q.2 == 0 && rdP s.old p l))))).map fun l => (l, target)))
          { s.w with vote := (s.w.vote &&& 0xFFFFFFF0) ||| BitVec.ofNat 32 (4 * q.2 + out) })

/-- R75, R77, R78, R110, R115, R154, R155: the CTL words: every lane the word acts on jumps to s[A], exits, is deferred,
or waits at a barrier; `nop` and a `barq` of a launch that is not persistent change nothing. R281, R282: nor does `safe n`, but
that a warp whose crew is to be saved stops there with the mask of entry n. -/
def Obligations.ControlWordsActOnTheirLanes : Prop :=
  ∀ (s : State) (a n : Nat),
    (a < 64 → ∀ i ∈ [Instr.ret a, .brx a],
      exec i s = .next (withTargets s ((lanesThat fun l => (liveMask s).getLsbD l).map fun l => (l, rdS s.old a)))) ∧
    exec .exit s = .next (withWarp s (mapLanes s.w (liveMask s) fun _ ln => { ln with st := .exited })) ∧
    exec .nop s = .next s ∧
    exec .yieldL s = .next (withWarp s (mapLanes s.w (liveMask s) fun _ ln => { ln with st := .deferred })) ∧
    exec (.bar n) s = .next (withWarp s (mapLanes s.w (liveMask s) fun _ ln => { ln with st := .waiting, wait := .bar n })) ∧
    (s.c.persistent = true → exec (.barq n) s =
      .next (withWarp s (mapLanes s.w (liveMask s) fun _ ln => { ln with st := .waiting, wait := .barq n }))) ∧
    (s.c.persistent = false → exec (.barq n) s = .next s) ∧
    (s.c.saveReq = none ∨ s.w.stopped ≠ none → exec (.safe n) s = .next s) ∧
    (s.c.saveReq ≠ none → s.w.stopped = none → exec (.safe n) s = .next (withWarp s { s.w with stopped := some (.masked n) }))

/-- R116: a crew barrier opens just when every warp of the crew has arrived at it: each lane that waits on it then runs on
where it was to go on, and no other lane changes. -/
def Obligations.CrewBarriersOpenWhenEveryWarpHasArrived : Prop :=
  ∀ (k : Crew) (n x l : Nat), n < 16 → (∀ m < 16, m ≠ n → ∀ w ∈ k.warps, waitsOn (.bar m) w = false) →
    ((checkCrewBars k).warps.length = k.warps.length) ∧
    ∀ w, k.warps[x]? = some w → l < w.lanes.length → ∃ w', (checkCrewBars k).warps[x]? = some w' ∧
      w'.lane l = if (∀ v ∈ k.warps, arrivedAt (.bar n) v = true) ∧ (w.lane l).st = .waiting ∧ (w.lane l).wait = .bar n
        then { w.lane l with st := .run, pc := (w.lane l).resume, wait := .none } else w.lane l

/-- R143, R156: `rgive` gives the window's top registers to the crew's pool once every outstanding result is known, and
kills with class REGRANGE below 8 registers; `rclaim` grows the window by registers that read 0, waits in the crew's
queue where the pool is short or an earlier claim is pending, and kills above 128. -/
def Obligations.RegisterWordsMoveTheWindow : Prop :=
  ∀ (s : State) (n : Nat),
    (8 * n + 8 ≤ s.w.window → (∀ p ∈ s.w.pend, p.id < s.old.nextId → p.arrived = true ∨ (p.need = 0 ∧ p.open_ = false)) →
      let w := deliverAll (fun _ => true) s.w
      exec (.rgive n) s = .next
        { withWarp s { w with window := s.w.window - 8 * n, lanes := w.lanes.map fun ln => { ln with v := ln.v.take (s.w.window - 8 * n) } }
            with c := { s.c with pool := s.c.pool + 8 * n } }) ∧
    (s.w.window < 8 * n + 8 → exec (.rgive n) s = .next (kill .regrange s)) ∧
    (s.w.window + 8 * n ≤ 128 → s.c.claims = [] → 8 * n ≤ s.c.pool →
      exec (.rclaim n) s = .next
        { withWarp s { s.w with window := s.w.window + 8 * n, lanes := s.w.lanes.map fun ln => { ln with v := ln.v ++ List.replicate (8 * n) 0 } }
            with c := { s.c with pool := s.c.pool - 8 * n } }) ∧
    (s.w.window + 8 * n ≤ 128 → s.c.claims ≠ [] ∨ s.c.pool < 8 * n →
      exec (.rclaim n) s = .next
        { withWarp s (mapLanes s.w (liveMask s) fun _ ln => { ln with st := .waiting, wait := .claim (8 * n) })
            with c := { s.c with claims := s.c.claims ++ [(s.w.idx, 8 * n, liveMask s)] } }) ∧
    (128 < s.w.window + 8 * n → exec (.rclaim n) s = .next (kill .regrange s))

/-! ### Memory -/

/-- R79 to R81, R83, R171, R174, R184 to R187: loads. Each lane the word acts on reads the bytes of its access into its
registers, zero-filled or sign-filled; the result arrives with its window. The core's logical time does not go back, and after a
read of the scratchpad or the weight store it is past the last write of what was read. A read of the weight store that meets the
bank in its refresh window waits to be performed, with all that follow it in the lanes above (R175). A flat or tensor load reads device memory and may take leases and copies; where every copy that the core may
use is current its value is what memory holds. A tensor load first takes the descriptor into its die's cache, and waits while
the table cannot be read.
The model's own choices in it: log entries 8, 20 and 25. -/
def Obligations.LoadsReadTheBytesOfTheirAccess : Prop :=
  ∀ (s : State) (la d a hs : Nat) (v sx poll : Bool) (sz : Size),
    MemoryReady s → InWindow s d (Size.regs sz) → AddrInRange s v a →
    let n := Size.bytes sz
    let o (l : Nat) : Nat := offsetOf s v a l
    let t : Target := ⟨.v, d, Size.regs sz⟩
    let loads (r : State) (i : Instr) (x : Bool) (f : Nat → Nat → Byte) : Prop := ∃ u ws,
      exec i s = .next (withResult u t la 0 ws 0 false) ∧
      u = { checksOver r with lines := u.lines, cores := u.cores, bays := u.bays, freeCtr := u.freeCtr } ∧ OnlyCaches r u ∧
      ltimeOf s s.c.core ≤ ltimeOf u s.c.core ∧
      (CopiesCurrent r → ws = perLane (liveMask s) fun l => loadedRegs sz x d l (f l))
    let timed (u : State) (ls : List Loc) : Prop :=
      u = { checksOver s with lines := u.lines, cores := u.cores } ∧ OnlyCaches s u ∧ ltimeOf s s.c.core ≤ ltimeOf u s.c.core ∧
      (s.c.core < s.cores.length → ∀ x ∈ ls, ∀ tag, placeTag x = some tag → (lineTimes s tag).1 ≤ ltimeOf u s.c.core)
    let reads (i : Instr) (ls : Nat → List Loc) : Prop := ∃ u,
      exec i s = .next (withResult u t la 0 (perLane (liveMask s) fun l => loadedRegs sz sx d l (byteOf s (.go (ls l)))) 0 false) ∧
      timed u ((liveLanes s).flatMap ls)
    ((∀ l < 64, s.iss.active.getLsbD l = true → o l + n ≤ s.c.shareSize) →
      reads (.lds la d a v sx sz) fun l => (List.range n).map fun i => .sp (s.c.core / 4) (s.c.shareBase + o l + i)) ∧
    (let die := dieAt s (s.c.core / 128)
     let ws (l : Nat) : List Loc := (List.range n).map fun i => .ws (s.c.core / 128) ((vfAt s s.c.vf).wsbase * 2 ^ 20 + o l + i)
     let busy (l : Nat) : Prop :=
      ∃ i < n, ((vfAt s s.c.vf).wsbase * 2 ^ 20 + o l + i) / 1024 % 64 = (s.cycle - die.epoch) / 2000 % 64
     (∀ l < 64, s.iss.active.getLsbD l = true → o l + n ≤ (vfAt s s.c.vf).wsLen) → die.st = .active ∨ die.st = .draining →
      ((∀ l ∈ liveLanes s, ¬ busy l) → reads (.ldw la d a v sx sz) ws) ∧
      ∀ pre l0 post, liveLanes s = pre ++ l0 :: post → (∀ l ∈ pre, ¬ busy l) → busy l0 → ∃ u,
        exec (.ldw la d a v sx sz) s = .next (withResult
          (withQueue u ((l0 :: post).map fun l => .wread s.w.nextId l d sz sx (ws l) (placeTags (ws l)))) t la (post.length + 1)
          (pre.flatMap fun l => loadedRegs sz sx d l (byteOf s (.go (ws l)))) 0 false) ∧
        timed u (pre.flatMap ws)) ∧
    ((∀ l < 64, s.iss.active.getLsbD l = true →
        Answered n (reachVa s l true false false true (flatBytes s.c (o l) n))) →
      loads s (.ld la d a v sx poll sz) sx fun l => byteOf s (reachVa s l true false false true (flatBytes s.c (o l) n))) ∧
    (let tn := (rdS s.old hs).toNat % 2 ^ 16
     (hs < 64 → tn ≠ 0 → fillDesc s (s.c.core / 128) s.c.vf tn = none →
      exec (.ldt la d a v sz hs) s = .next { s with iss := { s.iss with stall := true } }) ∧
     (hs < 64 → ∀ r td, fillDesc s (s.c.core / 128) s.c.vf tn = some r → descOf r (s.c.core / 128) s.c.vf tn = some td →
      let bits (l : Nat) : Nat := min (8 * n / td.w) (td.e 4 - o l % 2 ^ 16) * td.w
      let reach (l : Nat) : Reach := reachTensor r l false (rdS s.old hs) (BitVec.ofNat 32 (o l)) n
      (∀ l < 64, s.iss.active.getLsbD l = true → Answered ((bits l + 7) / 8) (reach l)) →
      loads r (.ldt la d a v sz hs) false fun l i => byteOf r (reach l) i &&& bitsBelow (bits l) i))

/-- R82, R83, R178, R186, R187: stores. Each lane the word acts on hands the bytes of its registers to be performed: one
access where its offset is a multiple of the size, else one for each byte in ascending order; nothing in memory has
changed yet. A tensor store writes no bit at or above the extent of the row.
The model's own choices in it: log entry 1. -/
def Obligations.StoresWaitToBePerformed : Prop :=
  ∀ (s : State) (la d a hs : Nat) (v : Bool) (sz : Size),
    MemoryReady s → InWindow s d (Size.regs sz) → AddrInRange s v a →
    let n := Size.bytes sz
    let o (l : Nat) : Nat := offsetOf s v a l
    let whole (l : Nat) (ls : List Loc) : List (Loc × Byte × Byte) := ls.mapIdx fun i x => (x, dataOf s d l i, 0xFF)
    let stores (r : State) (i : Instr) (ops : List MemOp) : Prop :=
      exec i s = .next (withResult (withQueue (checksOver r) ops) ⟨.v, d, Size.regs sz⟩ la 0 [] 0 false)
    (let ls (l : Nat) : List Loc := (List.range n).map fun i => .sp (s.c.core / 4) (s.c.shareBase + o l + i)
     (∀ l < 64, s.iss.active.getLsbD l = true → o l + n ≤ s.c.shareSize ∧ ∀ x ∈ ls l, armedAt s x = false) →
       stores s (.sts la d a v sz) ((liveLanes s).flatMap fun l =>
        if o l % n = 0 then [.store 0 l (placeTags (ls l)) (whole l (ls l))]
        else (whole l (ls l)).map fun x => .store 0 l (placeTags [x.1]) [x])) ∧
    (let as (l : Nat) : List Nat := flatBytes s.c (o l) n
     let reach (l : Nat) : Reach := reachVa s l false true true true (as l)
     (∀ l < 64, s.iss.active.getLsbD l = true → Answered n (reach l)) →
      stores s (.st la d a v sz) ((liveLanes s).flatMap fun l =>
        let bs := whole l (placesOf (reach l))
        if bs = [] then []
        else if o l % n = 0 then [.store 0 l (flatTags s.c.vf (as l) (placesOf (reach l))) bs]
        else bs.mapIdx fun i x => .store 0 l (flatTags s.c.vf [(as l).getD i 0] [x.1]) [x])) ∧
    (let h := rdS s.old hs
     let tn := h.toNat % 2 ^ 16
     (hs < 64 → tn ≠ 0 → fillDesc s (s.c.core / 128) s.c.vf tn = none →
      exec (.stt la d a v sz hs) s = .next { s with iss := { s.iss with stall := true } }) ∧
     (hs < 64 → ∀ r td, fillDesc s (s.c.core / 128) s.c.vf tn = some r → descOf r (s.c.core / 128) s.c.vf tn = some td →
      let bits (l : Nat) : Nat := min (8 * n / td.w) (td.e 4 - o l % 2 ^ 16) * td.w
      let reach (l : Nat) : Reach := reachTensor r l true h (BitVec.ofNat 32 (o l)) n
      (∀ l < 64, s.iss.active.getLsbD l = true → Answered ((bits l + 7) / 8) (reach l)) →
      stores r (.stt la d a v sz hs) ((liveLanes s).map fun l =>
        .store 0 l
          (tensorTags (td.tag s.c.vf (h.toNat % 2 ^ 16) (h.toNat / 2 ^ 16) (o l / 2 ^ 16) (o l % 2 ^ 16)) (placesOf (reach l)))
          ((placesOf (reach l)).mapIdx fun i x => (x, dataOf s d l i, bitsBelow (bits l) i)))))

/-- R189 to R192: atomics. Each lane the word acts on hands one access with its operand, or with its comparand and new value,
to be performed; its old value joins the result when that happens, so the result needs one performance for each such lane.
What a peer has done has its answer already.
The model's own choices in it: log entries 1 and 28. -/
def Obligations.AtomicsWaitToBePerformed : Prop :=
  ∀ (s : State) (la d a : Nat) (v dbl : Bool) (op : AtomOp) (fop : AtomFOp), MemoryReady s → AddrInRange s v a →
    let o (l : Nat) : Nat := offsetOf s v a l
    let x (k l : Nat) (wide : Bool) : Nat :=
      (rdV s.old (d + k) l).toNat + (if wide then 2 ^ 32 * (rdV s.old (d + k + 1) l).toNat else 0)
    let share (l n : Nat) : List Loc := (List.range n).map fun i => .sp (s.c.core / 4) (s.c.shareBase + o l + i)
    let n : Nat := if dbl then 8 else 4
    let regs (k : Nat) : Nat := k * (if dbl then 2 else 1)
    let does (i : Instr) (f : RmwOp) (n : Nat) (dbl : Bool) (t : Target) (reach : Nat → Reach) (tags : Nat → List Tag)
        (y : Nat → Nat) : Prop :=
      exec i s = .next (withResult
        (withQueue (checksOver s) (((liveLanes s).filter fun l => placesOf (reach l) ≠ []).map fun l =>
          .rmw s.w.nextId l d f n (placesOf (reach l)) (tags l) (x 0 l dbl) (y l)))
        t la ((liveLanes s).countP fun l => placesOf (reach l) ≠ [])
        (perLane (liveMask s) fun l => if placesOf (reach l) ≠ [] then [] else loadedRegs (if dbl then .d else .w) false d l (byteOf s (reach l)))
        0 false)
    let flat (n l : Nat) : Reach := reachVa s l true true true true (flatBytes s.c (o l) n)
    let line (n l : Nat) : List Tag := flatTags s.c.vf (flatBytes s.c (o l) n) (placesOf (flat n l))
    ((∀ l < 64, s.iss.active.getLsbD l = true → o l % n = 0 ∧ Answered n (flat n l)) →
      (InWindow s d (regs 1) →
        does (.atom la d a v dbl op) (.int op) n dbl ⟨.v, d, regs 1⟩ (flat n) (line n) fun _ => 0) ∧
      (InWindow s d (regs 2) →
        does (.cas la d a v dbl) .cas n dbl ⟨.v, d, regs 2⟩ (flat n) (line n) fun l => x (regs 1) l dbl)) ∧
    ((∀ l < 64, s.iss.active.getLsbD l = true → o l % 4 = 0 ∧ Answered 4 (flat 4 l)) → InWindow s d 1 →
        does (.atomf la d a v fop) (.flt fop) 4 false ⟨.v, d, 1⟩ (flat 4) (line 4) fun _ => 0) ∧
    ((∀ l < 64, s.iss.active.getLsbD l = true →
        o l % n = 0 ∧ o l + n ≤ s.c.shareSize ∧ ∀ z ∈ share l n, armedAt s z = false) →
      (InWindow s d (regs 1) →
        does (.satom la d a v dbl op) (.int op) n dbl ⟨.v, d, regs 1⟩ (fun l => .go (share l n))
          (fun l => placeTags (share l n)) fun _ => 0) ∧
      (InWindow s d (regs 2) →
        does (.satomCas la d a v dbl) .cas n dbl ⟨.v, d, regs 2⟩ (fun l => .go (share l n))
          (fun l => placeTags (share l n)) fun l => x (regs 1) l dbl))

/-- R189 to R191: the value that each atomic operation leaves: an integer one or a compare-and-swap on 32 and on 64 bits; the
sum of two FP32 values or of two pairs of BF16 values, to the nearest with subnormals kept, and the minimum and the maximum of
two FP32 values; an invalid one leaves the canonical NaN. -/
def Obligations.AtomicOperationsLeaveTheirValue : Prop :=
  (∀ x y z : Word,
    let leaves (op : AtomFOp) (r : Nat) : Prop := rmwNew (.flt op) 32 x.toNat y.toNat z.toNat = r
    leaves .faddF32 (fp32.add 0 false x.toNat y.toNat).1 ∧
    leaves .faddBf16x2 ((bf16.add 0 false (x.toNat % 2 ^ 16) (y.toNat % 2 ^ 16)).1 +
      2 ^ 16 * (bf16.add 0 false (x.toNat / 2 ^ 16) (y.toNat / 2 ^ 16)).1) ∧
    leaves .fminF32 (fp32.minmax false false x.toNat y.toNat).1 ∧
    leaves .fmaxF32 (fp32.minmax true false x.toNat y.toNat).1 ∧
    ((fp32.decode x.toNat).isNan = true ∨ (fp32.decode y.toNat).isNan = true → leaves .faddF32 0x7FC00000)) ∧
  ∀ (b : Nat), b = 32 ∨ b = 64 → ∀ x y z : BitVec b,
    let leaves (op : RmwOp) (r : BitVec b) : Prop := rmwNew op b x.toNat y.toNat z.toNat = r.toNat
    leaves (.int .add) (x + y) ∧ leaves (.int .min) (if x.toInt ≤ y.toInt then x else y) ∧
    leaves (.int .max) (if x.toInt ≤ y.toInt then y else x) ∧ leaves (.int .minu) (if x.toNat ≤ y.toNat then x else y) ∧
    leaves (.int .maxu) (if x.toNat ≤ y.toNat then y else x) ∧ leaves (.int .and) (x &&& y) ∧ leaves (.int .or) (x ||| y) ∧
    leaves (.int .xor) (x ^^^ y) ∧ leaves (.int .exch) y ∧ leaves .cas (if x = y then z else x)

/-- R176, R178, R180, R189: a store or an atomic is performed, the oldest of its warp first. Its bytes take their new value,
of a store under the mask of each byte, and every other byte the crew's function can read stays; an atomic's old value joins
its result, and so do the registers of a weight-store read that waited for its bank. Between issues, for an access that no pinned
region, die or refresh window holds back and whose lines no other device holds.
The model's own choices in it: log entries 1 and 2. -/
def Obligations.PerformedAccessesChangeTheirBytes : Prop :=
  ∀ (s : State) (c x : Nat) (k : Crew) (w : Warp) (o : MemOp) (rest : List MemOp),
    Idle s → c ≠ 0 → s.halted = false → MemoriesOk s → findCrew s c = some k → k.warps[x]? = some w →
    w.memq = o :: rest → o.blocked s (k.core / 128) = false → o.locs.Nodup → (∀ l ∈ o.locs, Placed s l) →
    Unshared s o.locs →
    let t := performHead s c x
    (∀ l, l ∉ o.locs → locGet t k.vf l = locGet s k.vf l) ∧
    match o with
    | .store _ _ _ bs =>
      exec (.storePerformed c x) s = .next (reap (checkBars t)) ∧
      (∀ b ∈ bs, locGet t k.vf b.1 = (locGet s k.vf b.1 &&& ~~~b.2.2) ||| (b.2.1 &&& b.2.2)) ∧
      findWarp t c x = some { w with memq := rest }
    | .rmw id lane d op size ls _ y z =>
      let old := wordOfBytes (ls.map (locGet s k.vf))
      exec (.atomicPerformed c x) s = .next (reap (checkBars t)) ∧
      (ls.length = size → wordOfBytes (ls.map (locGet t k.vf)) = rmwNew op (8 * size) old y z % 2 ^ (8 * size)) ∧
      findWarp t c x = some { w with
        memq := rest
        pend := w.pend.map fun p => if p.id = id then { p with
            need := p.need - 1
            writes := p.writes ++ (.v lane d (BitVec.ofNat 32 old) ::
              if size = 8 then [.v lane (d + 1) (BitVec.ofNat 32 (old / 2 ^ 32))] else []) } else p }
    | .wread id lane d sz sx ls _ =>
      (∀ l, locGet t k.vf l = locGet s k.vf l) ∧
      (ls.length = Size.bytes sz → findWarp t c x = some { w with
        memq := rest
        pend := w.pend.map fun p => if p.id = id then { p with
            need := p.need - 1
            writes := p.writes ++ loadedRegs sz sx d lane fun i => locGet s k.vf (ls.getD i (.dev 0)) } else p })

/-- R193, R194: the MCTL words. A `prefetch` names each line once, waits for the walks that its lines need, and then only
takes copies of them; `discard` and `writeback` hand an access without data to be performed, and `discard` drops every copy in
every L1 and every replica; `tdesc` gives each lane a word of the descriptor, of its grid and of its validity.
The model's own choices in it: log entry 26. -/
def Obligations.CacheAndDescriptorWordsDoTheirPart : Prop :=
  ∀ (s : State) (la d a : Nat) (v : Bool), MemoryReady s →
    let va (l : Nat) : Nat := (s.c.flat + offsetOf s v a l) % 2 ^ 56
    let xs := linesOf s v a
    let empty : State := if liveMask s = 0 then checksOver s else withQueue (checksOver s)
      [.store 0 0 ((xs.filter fun x => !inPeerWindow x.2).map fun x => flatTag s.c.vf x.2) []]
    ((∀ x ∈ xs, x.1 ∈ liveLanes s ∧ x.2 = va x.1 / 1024 * 1024) ∧ (xs.map (·.2)).Nodup ∧
      ∀ l ∈ liveLanes s, ∃ x ∈ xs, x.1 ≤ l ∧ x.2 = va l / 1024 * 1024) ∧
    (0 < s.w.window → AddrInRange s v a → (∀ x ∈ xs, threadXl s none x.1 x.2 ≠ none) → ∃ t, exec (.prefetch a v) s = .next t ∧
      t = { checksOver s with lines := t.lines, cores := t.cores } ∧ OnlyCaches s t ∧
      ∀ x ∈ xs, ∀ k w p, s.c.core < s.cores.length → threadXl s none x.1 x.2 = some (.ok (.dev k) true w p) →
        ∃ cp ∈ (coreAt t s.c.core).copies, cp.tag = flatTag s.c.vf x.2 ∧
          ∀ i < 1024, (k + i, devGet s s.c.vf (k + i)) ∈ cp.bytes) ∧
    (0 < s.w.window → AddrInRange s v a → (∃ x ∈ xs, threadXl s none x.1 x.2 = none) → ∃ t, exec (.prefetch a v) s = .next t ∧
      t = { s with dies := t.dies, iss := { s.iss with stall := true } }) ∧
    (0 < s.w.window → AddrInRange s v a →
      (∀ l < 64, s.iss.active.getLsbD l = true → ∃ ls, reachVa s l false true false false [va l] = .go ls) →
      exec (.writeback a v) s = .next empty ∧
      exec (.discard a v) s = .next { empty with
        cores := empty.cores.map fun k => { k with copies := [] }
        bays := empty.bays.map fun b => { b with copies := [] }
        fabric := { empty.fabric with peerCopies := [] } }) ∧
    (d < s.w.window → a < 64 →
      let n := (rdS s.old a).toNat % 2 ^ 16
      let gives (r : State) (f : Nat → Word) : Prop :=
        exec (.tdesc la d a) s = .next (withResult r ⟨.v, d, 1⟩ la 0 (perLane (liveMask s) fun l => [.v l d (f l)]) 0 false)
      (n = 0 → gives s fun l => if l = 22 then 1 else 0) ∧
      (n ≠ 0 → fillDesc s (s.c.core / 128) s.c.vf n = none →
        exec (.tdesc la d a) s = .next { s with iss := { s.iss with stall := true } }) ∧
      ∀ r, n ≠ 0 → fillDesc s (s.c.core / 128) s.c.vf n = some r →
       (cachedDesc r (s.c.core / 128) s.c.vf n = some none → gives r fun l => if l = 22 then 2 else 0) ∧
       ∀ bs, cachedDesc r (s.c.core / 128) s.c.vf n = some (some bs) →
        let td := parseDesc bs
        let word (l : Nat) : Word := BitVec.ofNat 32 (wordOfBytes ((bs.drop (4 * l)).take 4))
        (td.valid = true → gives r fun l =>
          if l < 16 then word l else if l < 20 then BitVec.ofNat 32 (td.grid.getD (l - 16) 0)
          else if l = 20 then BitVec.ofNat 32 td.q else if l = 21 then BitVec.ofNat 32 td.tiles else 0) ∧
        (td.valid = false → gives r fun l => if l < 16 then word l else if l = 22 then 2 else 0))

/-- R195 to R199: the BOBJ words act once, on the object that s[A] names and the input of the lowest Active lane, after every
write so far and at a line that no other device holds; the answer is a status and a phase.
The model's own choices in it: log entries 25, 69 and 76. -/
def Obligations.BarrierObjectWordsActOnTheirObject : Prop :=
  ∀ (s : State) (la d a : Nat) (sp : Bool) (ls : List Loc), MemoryReady s → d < s.w.window → a < 64 →
    let l0 := (lanesThat fun l => s.iss.active.getLsbD l).headD 0
    let n := (rdV s.old d l0).toNat
    let o := objAt s.c.vf ((flatBytes s.c (rdS s.old a).toNat 16).headD 0) ls
    let u := sawObj (objServes (checksOver s) o) (some s.c.core) o
    let b := getObj u s.c.vf o
    let set (t : State) (x : Obj) : State := putObj t s.c.vf (some s.c.core) o x
    let word (status phase : Nat) : Word := BitVec.ofNat 32 (status * 2 ^ 24 + phase % 2 ^ 24)
    let gives (i : Instr) (t : State) (f : Nat → Word) : Prop :=
      exec i s = .next (withResult t ⟨.v, d, 1⟩ la 0 (perLane (liveMask t) fun l => [.v l d (f l)]) 0 false)
    (reachObj s a sp true l0 = .go ls → Unshared s ls →
      (let r := settleAll u
       let x := getObj r s.c.vf o
       (objBusy r o = true → exec (.binit la d a sp) s = .next { r with iss := { r.iss with stall := true } }) ∧
       (objBusy r o = false →
        (n = 0 → gives (.binit la d a sp)
          (releaseObj (set r { x with expect := 0, pending := 0, armed := false, waiters := 0 }) o (word 5 x.phase))
          fun _ => word 0 x.phase) ∧
        (n ≠ 0 → x.armed = true → gives (.binit la d a sp) r fun _ => word 2 x.phase) ∧
        (n ≠ 0 → x.armed = false → armRoom r o = false → gives (.binit la d a sp) r fun _ => word 3 x.phase) ∧
        (n ≠ 0 → x.armed = false → armRoom r o = true →
          gives (.binit la d a sp) (set r { x with expect := n, pending := n, armed := true, waiters := 0 })
            fun _ => word 0 x.phase))) ∧
      (b.armed = false → gives (.barrive la d a sp) u fun _ => word 1 b.phase) ∧
      (b.armed = true → n = 0 → gives (.barrive la d a sp) u fun _ => word 0 b.phase) ∧
      (b.armed = true → b.pending < n → gives (.barrive la d a sp) u fun _ => word 4 b.phase) ∧
      (b.armed = true → n ≠ 0 → n < b.pending →
        gives (.barrive la d a sp) (set u { b with pending := b.pending - n }) fun _ => word 0 b.phase) ∧
      (b.armed = true → n ≠ 0 → b.pending = n →
        gives (.barrive la d a sp)
          (releaseObj (set u { b with pending := b.expect, phase := (b.phase + 1) % 2 ^ 32, waiters := 0 }) o
            (word 0 ((b.phase + 1) % 2 ^ 32)))
          fun _ => word 0 b.phase) ∧
      (b.armed = false → gives (.bwait la d a sp) u fun _ => word 1 b.phase) ∧
      (b.armed = true → b.phase % 2 ^ 24 ≠ n % 2 ^ 24 → gives (.bwait la d a sp) u fun _ => word 0 b.phase) ∧
      (b.armed = true → b.phase % 2 ^ 24 = n % 2 ^ 24 →
        exec (.bwait la d a sp) s = .next (withWait (withWaitResult (set u { b with waiters := b.waiters + 1 }) ⟨.v, d, 1⟩ la)
          (.obj o.key (n % 2 ^ 24) d s.w.nextId)))) ∧
    (reachObj s a sp false l0 = .go ls → gives (.bquery la d a sp) u fun l =>
      if l % 4 = 0 then BitVec.ofNat 32 b.expect else if l % 4 = 1 then BitVec.ofNat 32 b.pending
      else if l % 4 = 2 then BitVec.ofNat 32 b.phase else BitVec.ofNat 32 ((if b.armed then 2 ^ 31 else 0) + b.waiters))

/-- R182, R187, R255 to R258, R266: lanes of a scratchpad load whose bytes lie outside the share fail with class 4, code 2. They
are PARKED in one fragment that names the lowest one's address, while the other lanes load; where no shared entry is to be
had, every Active lane is parked in the warp's own entry and the bundle ends; while the record of that entry waits, the
bundle does not issue.
The model's own choices in it: log entries 2, 4 and 79. -/
def Obligations.FailingLanesFormAFragment : Prop :=
  ∀ (s : State) (la d a : Nat) (v sx : Bool) (sz : Size), MemoryReady s → s.iss.faulted = 0 → InWindow s d (Size.regs sz) →
    AddrInRange s v a →
    let n := Size.bytes sz
    let o (l : Nat) : Nat := offsetOf s v a l
    let bad (l : Nat) : Bool := s.iss.active.getLsbD l && decide (s.c.shareSize < o l + n)
    let fs := lanesThat bad
    let free := (List.range Config.sharedFrags).find? fun e => !entryTaken s s.c.core e
    let room : Bool := decide (sharedHeld s s.c.core s.c.vf < if s.c.vf = 0 then 128 else min (vfAt s s.c.vf).fragq 128) && free.isSome
    let held : Bool := !room && entryTaken s s.c.core (128 + s.w.slot)
    (fs ≠ [] → held = true → exec (.lds la d a v sx sz) s = .next { s with iss := { s.iss with stall := true } }) ∧
    (fs ≠ [] → held = false → ∃ t fr,
      exec (.lds la d a v sx sz) s = .next t ∧ t.frags = s.frags ++ [fr] ∧
      fr.whole = !room ∧ fr.cls = 4 ∧ fr.code = 2 ∧ fr.addr = o (fs.headD 0) ∧ fr.pc = s.iss.pc ∧ fr.crew = s.c.id ∧
      fr.warp = s.w.idx ∧ fr.vf = s.c.vf ∧ fr.core = s.c.core ∧
      fr.entry = (if room then free.getD 0 else 128 + s.w.slot) ∧
      (∀ l < 64, fr.lanes.getLsbD l = if room then bad l else s.iss.active.getLsbD l) ∧
      (∀ l < s.w.lanes.length, l < 64 → (t.w.lane l).st = if fr.lanes.getLsbD l then .parked else (s.w.lane l).st) ∧
      (∀ l < s.w.lanes.length, (t.w.lane l).v = (s.w.lane l).v ∧ (t.w.lane l).p = (s.w.lane l).p) ∧
      t.w.s = s.w.s ∧ t.iss.abort = !room ∧ t.quads = s.quads ∧ t.mem = s.mem ∧
      t.w.pend = s.w.pend ++ (if room then [{
        id := s.w.nextId, target := ⟨.v, d, Size.regs sz⟩, left := la + 1,
        writes := ((lanesThat fun l => s.iss.active.getLsbD l && !bad l).flatMap fun l =>
          loadedRegs sz sx d l fun i => memGet (quadAt s (s.c.core / 4)).sp (s.c.shareBase + o l + i)) }] else []))

/-! ### Engines, queues, messages -/

/-- R202, R205, R210, R227 to R232: XCOPY and CRING. An `xcopy` supplies the warp's slice, as it stands in the share, to a new
operation of its channel or to the one that lacks it, and its result waits for the operation to form; `cpoll`, `csleep` and
`cpop` answer from the control block of a ring, and `xwp` says how far a channel has come.
The model's own choices in it: log entries 25, 38, 47, 69 and 88. -/
def Obligations.TransferWordsSupplySlicesAndServeRings : Prop :=
  ∀ (s : State) (la d ua ub : Nat), PipeFree s → d < 64 → ua < 64 →
    let bay := s.c.core / 16
    let u := syncCore s s.c.core
    let avail (head tail : Nat) : Nat := (head + 2 ^ 32 - tail) % 2 ^ 32
    let word (status n : Nat) : Word := BitVec.ofNat 32 (status * 2 ^ 24 + min n 8191)
    (ub < 64 →
      let ch := (rdS s.old ub).toNat % 16
      let off := (rdS s.old ua).toNat
      let nth := suppliedBy s.c ch s.w.idx + 1
      let bytes := if off % 32 = 0 ∧ off + 32 ≤ s.c.shareSize then shareBytes s off 32 else []
      let slice : Slice := { warp := s.w.idx, bytes := some bytes, pend := s.w.nextId }
      let entry : ChanEntry := {
        kind := .copy, op := s.opSeq, launch := s.c.launch, crew := s.c.id, vf := s.c.vf, core := s.c.core,
        shareBase := s.c.shareBase, shareSize := s.c.shareSize, flat := s.c.flat, slices := [slice], nth := nth }
      let counted (t : State) : State := withOpenResult { syncEngine t s.c.core with c := { t.c with
        supplied := (ch, s.w.idx, nth) :: t.c.supplied.filter fun x => !(x.1 == ch && x.2.1 == s.w.idx) } } ⟨.s, d, 1⟩ la
      xcopyStalls s bay ch nth = false →
      (joinOp s bay ch nth = none → exec (.xcopy la d ua ub) s = .next (formOps (counted
        (updChan { s with opSeq := s.opSeq + 1 } bay ch fun c => { c with entries := c.entries ++ [entry] })) bay)) ∧
      ∀ e, joinOp s bay ch nth = some e → exec (.xcopy la d ua ub) s = .next (formOps (counted
        (updChan s bay ch fun c => { c with entries := c.entries.map fun (x : ChanEntry) =>
          if x.op = e.op then { x with slices := insertSlice slice x.slices } else x })) bay)) ∧
    (let n := (rdS s.old ua).toNat
     (ringOf s (ownShare s) n = none →
        exec (.cpoll la d ua) s = .next (withUniform u d la (word 2 0)) ∧
        exec (.csleep la d ua) s = .next (withUniform u d la (word 2 0)) ∧
        (ua % 2 = 0 → exec (.cpop la d ua) s = .next (withUniform u d la (word 2 0)))) ∧
      ∀ base sp lg head tail, ringOf s (ownShare s) n = some (base, sp, lg, head, tail) →
        exec (.cpoll la d ua) s = .next (withUniform u d la (word 0 (avail head tail))) ∧
        (avail head tail = 0 → exec (.csleep la d ua) s = .next (withWait (withWaitResult u ⟨.s, d, 1⟩ la) (.ring n d head))) ∧
        (avail head tail ≠ 0 → exec (.csleep la d ua) s = .next (withUniform u d la (word 0 (avail head tail)))) ∧
        (ua % 2 = 0 →
          let land_ := (rdS s.old (ua + 1)).toNat
          let good : Prop := land_ % 32 = 0 ∧ land_ + 32 ≤ s.c.shareSize
          (¬ good → exec (.cpop la d ua) s = .next (withUniform u d la (word 3 (avail head tail)))) ∧
          (good → avail head tail = 0 → exec (.cpop la d ua) s = .next (withUniform u d la (word 1 0))) ∧
          (good → avail head tail ≠ 0 → match slotBytes u sp (base + 32 * (tail % 2 ^ lg)) with
            | .error 0 => exec (.cpop la d ua) s = .next { u with iss := { s.iss with stall := true } }
            | .error _ => exec (.cpop la d ua) s = .next (withUniform u d la (word 2 0))
            | .ok bs => (∀ j < 32, shPinned s (ownShare s) (land_ + j) = false) →
              (∀ j < 4, shPinned s (ownShare s) (32 * n + 12 + j) = false) →
              ∃ t, exec (.cpop la d ua) s = .next (withUniform t d la (word 0 (avail head tail))) ∧ OnlyCaches s t ∧
                t = { updQuad u (s.c.core / 4) fun q => { q with
                  sp := shareWrite s land_ bs (shareWrite s (32 * n + 12) (bytesOfNat 4 (tail + 1)) q.sp) } with
                    lines := t.lines, cores := t.cores }))) ∧
    exec (.xwp la d ua) s = .next (withUniform u d la
      (let c := chanAt s bay ((rdS s.old ua).toNat % 16); BitVec.ofNat 32 (c.opn * 2 ^ 20 + c.units)))

/-- R216 to R220, R235 to R237: posts to the matrix engine. A record that passes its checks takes the lowest free entry of the
quad's table, pins its panels, and gives a ticket; one that does not is a fault of class 5, and the word's window opens; with
no free entry the post does not issue; `mtest`, `mwait` and `mcancel` look for the entry that a ticket names. R218, R236: the checks
of a record in the order of their codes, with the pairings of R53 and R56.
The model's own choices in it: log entries 25, 34 and 106. -/
def Obligations.MatrixWordsPostAndFollowTickets : Prop :=
  ∀ (s : State) (la d ua k : Nat), PipeFree s → d < 64 → ua < 64 →
    let q := s.c.core / 4
    let off := (rdS s.old ua).toNat
    let bs := shareBytes s off 32
    let r := parseQRec bs
    let u := syncCore s s.c.core
    let seq := ((quadAt s q).qmeSeq + 1) % 2 ^ 27
    let len (fmt scale : Nat) : Nat := operandLen fmt scale r.k
    let pins (kind : Nat) : List (Nat × Nat) :=
      if kind = 2 then [(s.c.shareBase + r.aoff, 512 * fmtBits r.afmt)]
      else [(s.c.shareBase + r.aoff, len r.afmt r.ascale), (s.c.shareBase + r.boff, len r.bfmt r.bscale)]
    let check (kind : Nat) : Option Nat := if kind = 2 then moutCheck s.c.shareSize bs else mmaCheck s.c.shareSize bs
    let waits (i : Instr) : Prop := exec i s = .next { s with iss := { s.iss with stall := true } }
    let fails (i : Instr) (code : Nat) : Prop := exec i s =
      .next (addFaulted (faultLanes s ((lanesThat fun l => s.iss.active.getLsbD l).map fun l => ⟨l, 5, code, off, off⟩)) i)
    (∀ (size : Nat) (bs : List Byte),
      let f (o lo n : Nat) : Nat := fld (leAt bs o 4) lo n
      let aoff := f 0 0 21
      let boff := f 4 0 21
      let afmt := f 8 27 5
      let bfmt := f 8 22 5
      let ascale := f 8 19 3
      let bscale := f 8 16 3
      let depth := f 8 0 10
      let soff := f 20 0 21
      let len (fmt scale : Nat) : Nat :=
        8 * fmtBits fmt * depth + ([0, 2 * depth, 4 * depth, 256, 4].getD scale 0 + 63) / 64 * 64
      FirstCheck [
        (f 0 21 11 ≠ 0 ∨ f 4 21 11 ≠ 0 ∨ f 8 10 6 ≠ 0 ∨ f 12 0 20 ≠ 0 ∨ f 20 21 10 ≠ 0 ∨ leAt bs 24 8 ≠ 0 ∨ 22 ≤ afmt ∨ 22 ≤ bfmt ∨
          5 ≤ ascale ∨ 5 ≤ bscale, 2),
        (depth < 32 ∨ 512 < depth ∨ depth % 32 ≠ 0 ∨ 20 ≤ afmt ∨ 20 ≤ bfmt ∨ (13 ≤ afmt ∧ bfmt < 13) ∨ (afmt < 13 ∧ 13 ≤ bfmt) ∨
          (13 ≤ afmt ∧ (ascale ≠ 0 ∨ bscale ≠ 0)) ∨ (afmt = 0 ∧ (bfmt ≠ 0 ∨ ascale ≠ 0 ∨ bscale ≠ 0)) ∨ (afmt ≠ 0 ∧ bfmt = 0), 3),
        (afmt = 0 ∧ f 12 29 3 % 2 = 1, 4),
        (size < aoff + len afmt ascale ∨ size < boff + len bfmt bscale ∨ (f 20 31 1 = 1 ∧ size < soff + 16), 5),
        (aoff % 64 ≠ 0 ∨ boff % 64 ≠ 0 ∨ soff % 16 ≠ 0, 6)] (mmaCheck size bs) ∧
      FirstCheck [
        (f 0 21 11 ≠ 0 ∨ leAt bs 4 4 ≠ 0 ∨ f 8 0 26 ≠ 0 ∨ f 12 0 29 ≠ 0 ∨ leAt bs 16 4 ≠ 0 ∨ f 20 21 10 ≠ 0 ∨ leAt bs 24 8 ≠ 0 ∨
          22 ≤ afmt, 2),
        (afmt = 0 ∧ f 12 29 3 % 2 = 1, 4),
        (size < aoff + 512 * fmtBits afmt ∨ (f 20 31 1 = 1 ∧ size < soff + 16), 5),
        (aoff % 64 ≠ 0 ∨ soff % 16 ≠ 0, 6)] (moutCheck size bs)) ∧
    (∀ p ∈ [(Instr.mmaAcc la d ua k, 0), (.mmaZero la d ua k, 1), (.mout la d ua k, 2)],
      (freeEntry (quadAt s q) = none → waits p.1) ∧
      (off % 32 = 0 → off + 32 ≤ s.c.shareSize → check p.2 = none → ∀ e, freeEntry (quadAt s q) = some e →
        ∃ x : QmeEntry, x.entry = e ∧ x.seq = seq ∧ x.crew = s.c.id ∧ x.vf = s.c.vf ∧ x.cls = k ∧ x.kind = p.2 ∧ x.record = bs ∧
          x.slot = r.acc ∧ x.fp64 = (r.afmt == 0) ∧ x.pins = pins p.2 ∧ x.active = false ∧ x.posted = s.cycle ∧ x.op = s.opSeq ∧
          x.pa = (if p.2 = 2 then [] else shareBytes s r.aoff (len r.afmt r.ascale)) ∧
          x.pb = (if p.2 = 2 then [] else shareBytes s r.boff (len r.bfmt r.bscale)) ∧
          exec p.1 s = .next (withUniform
            (updQuad { syncEngine s s.c.core with opSeq := s.opSeq + 1 } q fun t => { t with qme := t.qme ++ [x], qmeSeq := seq })
            d la (BitVec.ofNat 32 (seq * 32 + e)))) ∧
      (∀ code, ((off % 32 ≠ 0 ∨ s.c.shareSize < off + 32) ∧ code = 1) ∨
          (off % 32 = 0 ∧ off + 32 ≤ s.c.shareSize ∧ check p.2 = some code) →
        freeEntry (quadAt s q) ≠ none → fails p.1 code)) ∧
    (freeEntry (quadAt s q) = none → waits (.mclear ua k)) ∧
    (freeEntry (quadAt s q) ≠ none → 8 ≤ off → fails (.mclear ua k) 1) ∧
    (off < 8 → ∀ e, freeEntry (quadAt s q) = some e → exec (.mclear ua k) s =
      .next (updQuad { syncEngine s s.c.core with opSeq := s.opSeq + 1 } q fun t => { t with qme := t.qme ++ [{
        entry := e, seq := 2 ^ 27, crew := s.c.id, vf := s.c.vf, cls := k, kind := 3, record := [], shareBase := s.c.shareBase,
        launch := s.c.launch, slot := off, fp64 := false, pins := [], posted := s.cycle, op := s.opSeq }] })) ∧
    (ticketEntry (quadAt s q) off = none →
      exec (.mwait ua) s = .next u ∧ exec (.mtest la d ua) s = .next (withUniform u d la 0) ∧
      exec (.mcancel la d ua) s = .next (withUniform s d la 0)) ∧
    ∀ e, ticketEntry (quadAt s q) off = some e →
      exec (.mwait ua) s = .next (withWait u (.ticket q off)) ∧
      exec (.mtest la d ua) s = .next (withUniform u d la (if e.active then 2 else 1)) ∧
      (e.active = true → exec (.mcancel la d ua) s = .next (withUniform s d la 2)) ∧
      (e.active = false → exec (.mcancel la d ua) s =
        .next (withUniform (settleFences (dropEntry s q e) (s.c.core / 16)) d la 1))

/-- R158, R159, R223, R226, R233, R234, R238 to R241: the words of WORKQ and LNCH, fences and `drain`. A queue word hands its
request to the engine of the queue's home die, `qpopLanes` one for each lane in ascending order; a `launch` joins the
function's device-side posts; `lwait` goes on at once where the launch is unknown or has ended; `drain` holds the next bundle for
what the crews that lie in its scope when it issues have begun.
The model's own choices in it: log entries 1 and 25. -/
def Obligations.QueueAndLaunchWordsHandOverRequests : Prop :=
  ∀ (s : State) (la d ua scope : Nat), PipeFree s → ua < 64 →
    let w := rdS s.old ua
    let home := queueDie s s.c.vf (w.toNat % 2 ^ 12)
    let req (kind : WqKind) : WqReq := {
      kind := kind, word := w.toNat, vf := s.c.vf, crew := s.c.id, warp := s.w.idx, quad := s.c.core / 4,
      shareBase := s.c.shareBase, shareSize := s.c.shareSize, op := s.opSeq, launch := s.c.launch }
    let asked (kind : WqKind) : State :=
      updDie { syncEngine s s.c.core with opSeq := s.opSeq + 1 } home fun x => { x with wq := x.wq ++ [req kind] }
    let off := (rdS s.old (ua + 1)).toNat
    (ua % 2 = 0 → d < 64 → exec (.qpush la d ua) s = .next (withOpenResult (asked
      (if w.toNat / 2 ^ 30 = 1 then .bind off s.w.nextId
       else if w.toNat / 2 ^ 30 = 2 then .unbind off s.w.nextId
       else .push (if off % 32 = 0 ∧ off + 32 ≤ s.c.shareSize then shareBytes s off 32 else []) s.w.nextId)) ⟨.s, d, 1⟩ la)) ∧
    (ua % 2 = 0 → exec (.qpop ua) s = .next (asked (.pop off))) ∧
    (d < s.w.window → exec (.qpopLanes d ua) s =
      .next ((liveLanes s).foldl (fun t l => sendReq t (.pop (rdV s.old d l).toNat) w) s)) ∧
    (∀ n, sendReq s (.pop n) w = asked (.pop n)) ∧
    (d < 64 → exec (.qstat la d ua) s = .next (withOpenResult (asked (.stat s.w.nextId)) ⟨.s, d, 1⟩ la)) ∧
    exec (.qclose ua) s = .next (asked .close) ∧
    (let mask := w.toNat % 2 ^ 17
     let fence : ChanEntry := {
       kind := .fence, op := s.opSeq, crew := s.c.id, vf := s.c.vf, core := s.c.core, shareBase := s.c.shareBase,
       shareSize := s.c.shareSize, flat := s.c.flat, formed := true, ref := s.opSeq }
     (∀ c < 16, bitB mask c = true → (chanAt s (s.c.core / 16) c).entries.length < Config.chanEntries) → bitB mask 16 = false →
      exec (.qfence ua) s = .next (settleFences
        (((List.range 16).filter fun c => bitB mask c).foldl (fun t c =>
          updChan t (s.c.core / 16) c fun ch => { ch with entries := ch.entries ++ [fence] }) { s with opSeq := s.opSeq + 1 })
        (s.c.core / 16))) ∧
    (let lies (core : Nat) : Bool := if scope = 1 then core / 4 == s.c.core / 4 else if scope = 2 then core / 16 == s.c.core / 16
       else if scope = 3 then core / 128 == s.c.core / 128 else true
     let crews := if scope = 0 then [s.c.id] else ((merged s).filter fun k => lies k.core).map (·.id)
     exec (.drain scope) s = .next (withWarp s { s.w with hold := .drain scope s.opSeq s.c.core crews })) ∧
    (d < 64 → exec (.launch la d ua) s = .next (withOpenResult
      (updVf s s.c.vf fun v => { v with posts := v.posts ++ [{
        desc := if w.toNat % 128 = 0 ∧ w.toNat + 128 ≤ s.c.shareSize then some (shareBytes s w.toNat 128) else none
        crew := s.c.id, warp := s.w.idx, pend := s.w.nextId }] }) ⟨.s, d, 1⟩ la)) ∧
    (launchOf s w.toNat = none → exec (.lwait ua) s = .next s) ∧
    ∀ l, launchOf s w.toNat = some l →
      (l.st.final = true → exec (.lwait ua) s = .next (syncCore s s.c.core)) ∧
      (l.st.final = false → s.nextLaunch - 1 ≤ l.seq + 2 ^ 20 →
        exec (.lwait ua) s = .next (withWait s (.launch w.toNat)))

/-- R338 to R346: the words of WHARF and PFENCE. A descriptor that fails its checks is a fault of class 6; a send takes the
lowest free slot and a place in its channel, a receive the lowest free entry, each within the function's quota, and gives its
handle; without one the answer is NOSLOT. A pod fence holds the warp's next bundle. R340: the checks of a descriptor in the order of
their codes.
The model's own choices in it: log entries 25 and 51. -/
def Obligations.MessageWordsTakeSlotsAndAnswer : Prop :=
  ∀ (s : State) (la d ua : Nat), PipeFree s → d < 64 → ua < 64 →
    let off := (rdS s.old ua).toNat
    let bs (n : Nat) : List Byte := shareBytes s off n
    let fits (n : Nat) : Prop := off % n = 0 ∧ off + n ≤ s.c.shareSize
    let failsIn (r : State) (i : Instr) (code : Nat) : Prop :=
      exec i s = .next (addFaulted (faultLanes r ((lanesThat fun l => s.iss.active.getLsbD l).map fun l => ⟨l, 6, code, off, off⟩)) i)
    let fails := failsIn s
    let sd := parseSend (bs 32)
    let rc := parseRecv (bs 64)
    let bay := s.c.core / 16
    (∀ bs : List Byte,
      let f (o lo n : Nat) : Nat := fld (leAt bs o 4) lo n
      let misplaced (ctgt caddr : Nat) : Prop := (ctgt = 1 ∧ caddr % 16 ≠ 0) ∨ (ctgt = 2 ∧ caddr % 32 ≠ 0)
      let reserved : Prop := f 8 10 22 ≠ 0 ∨ f 8 7 1 ≠ 0 ∨ f 8 8 2 = 3 ∨ f 8 5 2 = 3 ∨ leAt bs 18 2 ≠ 0 ∨ leAt bs 40 24 ≠ 0
      FirstCheck [
        (f 4 12 20 ≠ 0 ∨ f 4 4 2 ≠ 0 ∨ f 4 6 2 = 3 ∨ leAt bs 12 4 ≠ 0, 2),
        (leAt bs 8 4 = 0 ∨ 2 ^ 28 < leAt bs 8 4, 3),
        (f 4 0 4 = s.fabric.dev ∨ s.fabric.pod ≤ f 4 0 4 ∨ inPeerWindow (leAt bs 16 8) = true, 4),
        (misplaced (f 4 6 2) (leAt bs 24 8), 5)] (sendCheck s bs) ∧
      (recvResv bs = true ↔ reserved) ∧
      ∀ td : Option TDesc,
        let len := leAt bs 12 4
        let offset := leAt bs 24 8
        FirstCheck [
          (reserved, 2),
          (len = 0 ∨ 2 ^ 28 < len ∨ (f 8 5 2 ≠ 0 ∧ (len % 4 ≠ 0 ∨ offset % 4 ≠ 0)), 3),
          (if leAt bs 16 2 = 0 then inPeerWindow offset = true else match td with
            | none => True
            | some t => t.layout ≠ 1 ∨ t.nostore = true ∨ t.tiles ≤ leAt bs 20 4 ∨ 2 ^ (t.tr + t.tc) * 1024 < offset + len, 4),
          (misplaced (f 8 8 2) (leAt bs 32 8), 5)] (recvCheck bs td)) ∧
    (¬ fits 32 → fails (.wsend la d ua) 1) ∧
    (¬ fits 64 → fails (.wpost la d ua) 1 ∧ fails (.wprobe la d ua) 1) ∧
    (fits 32 → ∀ code, sendCheck s (bs 32) = some code → fails (.wsend la d ua) code) ∧
    (fits 32 → sendCheck s (bs 32) = none →
      (freeSend s s.c.vf = none → exec (.wsend la d ua) s = .next (withUniform s d la 0xFFFFF001)) ∧
      ∀ index, freeSend s s.c.vf = some index →
        (Config.chanEntries ≤ (chanAt s bay sd.chan).entries.length →
          exec (.wsend la d ua) s = .next { s with iss := { s.iss with stall := true } }) ∧
        ((chanAt s bay sd.chan).entries.length < Config.chanEntries → ∃ (x : Send) (e : ChanEntry) (gens : List (Nat × Nat)),
          x.index = index ∧ x.vf = s.c.vf ∧ x.crew = s.c.id ∧ x.warp = s.w.idx ∧ x.desc = bs 32 ∧ x.started = false ∧
          (x.gen, gens) = bumpGen s.wharf.sgens index ∧ e.kind = .send ∧ e.ref = index ∧ e.formed = true ∧ e.crew = s.c.id ∧
          exec (.wsend la d ua) s = .next (withUniform (updChan
            { syncEngine s s.c.core with opSeq := s.opSeq + 1, wharf := { s.wharf with sends := s.wharf.sends ++ [x], sgens := gens } } bay sd.chan
            fun c => { c with entries := c.entries ++ [e] }) d la (BitVec.ofNat 32 (x.gen % 128 * 2 ^ 24 + index))))) ∧
    (let posts (r : State) (td : Option TDesc) : Prop :=
      (∀ code, recvCheck (bs 64) td = some code → failsIn r (.wpost la d ua) code) ∧
      (recvCheck (bs 64) td = none →
        (freePost r s.c.vf = none → exec (.wpost la d ua) s = .next (withUniform r d la 0xFFFFF001)) ∧
        ∀ index, freePost r s.c.vf = some index →
          ∃ (p : Posted) (gens : List (Nat × Nat)),
            p.index = index ∧ p.vf = s.c.vf ∧ p.desc = bs 64 ∧ (p.gen, gens) = bumpGen r.wharf.pgens index ∧
            p.base = (match td with
              | none => rc.offset
              | some t => t.base + rc.tile * 2 ^ (t.tr + t.tc) * 1024 + rc.offset) ∧
            let u : State := { syncEngine r s.c.core with wharf := { r.wharf with pgens := gens } }
            let h : Word := BitVec.ofNat 32 (2 ^ 31 + p.gen % 128 * 2 ^ 24 + index)
            (r.wharf.unexpected.find? (matches_ rc s.c.vf) = none → exec (.wpost la d ua) s =
              .next (withUniform { u with wharf := { u.wharf with posted := u.wharf.posted ++ [p] } } d la h)) ∧
            ∀ m, r.wharf.unexpected.find? (matches_ rc s.c.vf) = some m → exec (.wpost la d ua) s =
              .next (withUniform (landOn (beginLanding { u with wharf := { u.wharf with
                unexpected := u.wharf.unexpected.eraseP (matches_ rc s.c.vf) } } p m) index) d la h))
     (fits 64 → rc.tensor = 0 → posts s none) ∧
     (fits 64 → rc.tensor ≠ 0 → fillDesc s (s.c.core / 128) s.c.vf rc.tensor = none →
      exec (.wpost la d ua) s = .next { s with iss := { s.iss with stall := true } }) ∧
     (fits 64 → rc.tensor ≠ 0 → ∀ r, fillDesc s (s.c.core / 128) s.c.vf rc.tensor = some r →
      posts r (descOf r (s.c.core / 128) s.c.vf rc.tensor))) ∧
    (fits 64 → recvResv (bs 64) = true → fails (.wprobe la d ua) 2) ∧
    (fits 64 → recvResv (bs 64) = false →
      (s.wharf.unexpected.find? (matches_ rc s.c.vf) = none →
        exec (.wprobe la d ua) s = .next (withUniform s d la (BitVec.ofNat 32 (2 ^ 28)))) ∧
      ∀ m, s.wharf.unexpected.find? (matches_ rc s.c.vf) = some m →
        exec (.wprobe la d ua) s = .next (withUniform s d la (BitVec.ofNat 32 (m.src % 16 * 2 ^ 24 + min m.len 0xFFFFFF)))) ∧
    (let u := syncCore s s.c.core
     match nameOf s s.c.vf off with
     | .posted p => exec (.wcancel la d ua) s = .next (withUniform (cancelPost (syncEngine s s.c.core) p) d la 0) ∧
         exec (.wtest la d ua) s = .next (withUniform u d la 1)
     | .queued x => exec (.wcancel la d ua) s = .next (withUniform (cancelSend (syncEngine s s.c.core) x) d la 0) ∧
         exec (.wtest la d ua) s = .next (withUniform u d la 1)
     | .landing | .moving => exec (.wcancel la d ua) s = .next (withUniform s d la 1) ∧
         exec (.wtest la d ua) s = .next (withUniform u d la 2)
     | .stale => exec (.wcancel la d ua) s = .next (withUniform s d la 2) ∧
         exec (.wtest la d ua) s = .next (withUniform u d la 0)) ∧
    (let r := sendFrels s
     (s.w.peers = [] → r = s) ∧ r.w.peers = [] ∧
      exec .fencePodRel s = .next (withWarp r { r.w with hold := .fence true false s.opSeq }) ∧
      exec .fencePod s = .next (withWarp r { r.w with hold := .fence true true s.opSeq })) ∧
    exec .fencePodAcq s = .next (withWarp s { s.w with hold := .fence false true s.opSeq })

/-! ### System words -/

/-- R270 to R272, R295, R296: `trap n` of a user-mode warp sends every lane it acts on to entry n of the trap code object at
supervisor level: each keeps the PC behind the bundle in its RPC and joins the trap set, and every window ends with the bundle.
`sret` sends the trap set to its RPCs at user level. A `trap` at a level above user, an `sret` at user level or of lanes that are
not the trap set kills with class PRIV, and a `trap` whose entry lies outside the trap code object with class FETCH. -/
def Obligations.TrapsEnterAndLeaveTheirHandler : Prop :=
  ∀ (s : State) (n : Nat),
    let handler := (vfAt s s.c.vf).trapsize
    (s.w.priv = 0 → liveLanes s ≠ [] → 12 * (n + 1) ≤ handler → ∃ t, exec (.trap n) s = .next t ∧
      t = { s with w := t.w, iss := { s.iss with targets := (liveLanes s).map fun l => (l, BitVec.ofNat 32 (3 * n)) } } ∧
      t.w = { s.w with
        lanes := t.w.lanes, trapV := true, trapN := n, priv := 1, pend := s.w.pend.map fun p => { p with left := 1 } } ∧
      t.w.lanes.length = s.w.lanes.length ∧
      ∀ l < s.w.lanes.length, t.w.lane l = if l ∈ liveLanes s
        then { s.w.lane l with ts := true, rpc := s.iss.pc + BitVec.ofNat 32 s.iss.words } else { s.w.lane l with ts := false }) ∧
    (s.w.priv = 0 → liveLanes s = [] → exec (.trap n) s = .next s) ∧
    (s.w.priv = 0 → liveLanes s ≠ [] → handler < 12 * (n + 1) → exec (.trap n) s = .next (kill .fetch s)) ∧
    (s.w.priv ≠ 0 → exec (.trap n) s = .next (kill .priv s)) ∧
    (s.w.priv ≠ 0 → s.w.trapV = true → s.iss.active = trapSet s.w → exec .sret s = .next
      (withWarp (withTargets s ((lanesThat fun l => s.iss.active.getLsbD l).map fun l => (l, (s.w.lane l).rpc &&& 0x1FFFFF)))
        { s.w with priv := 0, trapV := false })) ∧
    (s.w.priv = 0 ∨ s.w.trapV = false ∨ s.iss.active ≠ trapSet s.w → exec .sret s = .next (kill .priv s))

/-- R291, R292, R294: what `srd` reads from each special register, in a uniform destination and in each lane, and the level below
which it kills with class PRIV. A lane register gives a uniform destination the value of the lowest lane that the word acts on.
The model's own choices in it: log entries 4 and 6. -/
def Obligations.SpecialRegisterReadsGiveTheirValue : Prop :=
  ∀ (s : State) (la d : Nat),
    let die := s.c.core / 128
    let num (n : Nat) : Word := BitVec.ofNat 32 n
    let uni (idx : Nat) (x : Word) : Prop := d < 64 → exec (.srd la d idx false) s = .next (withUniform s d la x)
    let vec (idx : Nat) (f : Nat → Word) : Prop := d < s.w.window → exec (.srd la d idx true) s =
      .next (withResult s ⟨.v, d, 1⟩ la 0 (perLane (liveMask s) fun l => [.v l d (f l)]) 0 false)
    let both (idx : Nat) (x : Word) : Prop := uni idx x ∧ vec idx fun _ => x
    let lanes (idx : Nat) (f : Nat → Word) : Prop := vec idx f ∧ (∀ l ls, liveLanes s = l :: ls → uni idx (f l)) ∧
      (liveLanes s = [] → d < 64 → exec (.srd la d idx false) s = .next (withResult s ⟨.s, d, 1⟩ la 0 [] 0 false))
    let super : Prop :=
      lanes 32 (fun l => (if (s.old.lane l).ts then 0x80000000 else 0) ||| ((s.old.lane l).rpc &&& 0x1FFFFF)) ∧
      both 33 ((if s.old.trapV then 0x80000000 else 0) ||| num s.old.trapN) ∧ both 34 s.old.xs0 ∧ both 35 s.old.xs1
    lanes 0 num ∧ lanes 16 (fun _ => s.iss.pc) ∧ both 1 64 ∧ both 2 (num s.w.idx) ∧ both 3 (num s.c.crewIdx) ∧
    both 4 (num s.w.role) ∧ (∀ i < 4, both (5 + i) (num (s.c.tile.getD i 0))) ∧ both 9 (num s.c.tensor) ∧
    both 10 (num s.c.launch) ∧ both 11 (num (s.c.core % 128)) ∧ both 12 (num (s.c.core / 4 % 32)) ∧
    both 13 (num (s.c.core / 16 % 8)) ∧ both 14 (num die) ∧ both 15 (num s.fabric.dev) ∧ uni 17 s.old.vote ∧
    vec 17 (fun l => s.old.vote ||| if (s.old.lane l).absl then 0x80000000 else 0) ∧ both 18 s.old.rep ∧ both 19 s.c.err ∧
    both 20 s.old.fpmode ∧ both 22 (num (s.cycle - (dieAt s die).epoch)) ∧
    both 23 (num s.iss.ltime0) ∧ uni 24 (wsrefUni s die) ∧ vec 24 (wsrefLane s die) ∧
    both 25 (num s.w.priv) ∧ both 26 s.iss.frag0 ∧
    (∀ r, (beginIssue s r).iss.ltime0 = s.cycle + (coreAt (beginIssue s r) r.crew.core).lead ∧
      (beginIssue s r).iss.frag0 = fragWord (beginIssue s r)) ∧
    ((∀ p ∈ s.w.pend, p.fp = false) → s.old.fpflags = s.w.fpflags → both 21 s.w.fpflags) ∧
    (1 ≤ s.w.priv → super) ∧
    (s.w.priv = 0 → ∀ idx ∈ [32, 33, 34, 35], ∀ v : Bool, (if v then d < s.w.window else d < 64) →
      exec (.srd la d idx v) s = .next (kill .priv s))

/-- R23, R40, R41, R271, R291, R293: what `swr` writes in each special register. -/
def Obligations.SpecialRegisterWritesTakeTheirValue : Prop :=
  ∀ (s : State) (d : Nat) (v : Bool), (if v then d < s.w.window else d < 64) →
    (∀ idx, idx ≤ 17 ∨ idx ∈ [22, 23, 24, 25, 26, 33] → exec (.swr d idx v) s = .next (kill .priv s)) ∧
    (s.w.priv = 0 → ∀ idx ∈ [18, 32, 34, 35], exec (.swr d idx v) s = .next (kill .priv s)) ∧
    (v = true → liveLanes s = [] → ∀ idx ∈ [19, 20, 21], exec (.swr d idx v) s = .next s) ∧
    ∀ x, (v = false ∧ x = rdS s.old d ∨ v = true ∧ ∃ l ls, liveLanes s = l :: ls ∧ x = rdV s.old d l) →
      exec (.swr d 20 v) s = .next (withWarp s { s.w with fpmode := x &&& 7 }) ∧
      exec (.swr d 21 v) s = .next (withWarp s { s.w with fpflags := s.w.fpflags &&& ~~~x }) ∧
      exec (.swr d 19 v) s = .next { s with c := { s.c with
        err := (if x.getLsbD 31 then s.c.err &&& 0x200000 else s.c.err) &&& ~~~(if x.getLsbD 21 then 0x200000 else 0) } } ∧
      (1 ≤ s.w.priv →
        exec (.swr d 18 v) s = .next (withWarp s { s.w with rep := x &&& 0x01FFFC3F }) ∧
        exec (.swr d 32 v) s = .next (withWarp s (mapLanes s.w (liveMask s) fun l ln =>
          { ln with rpc := (if v then rdV s.old d l else x) &&& 0x1FFFFF })) ∧
        exec (.swr d 34 v) s = .next (withWarp s { s.w with xs0 := x }) ∧
        exec (.swr d 35 v) s = .next (withWarp s { s.w with xs1 := x }))

/-- R263, R279, R297 to R302: sleep and wake, fragment control, invalidation, stopped walks and weight-store windows; below
supervisor level the words of FRAG and MMU kill with class PRIV. A descriptor of `tlbinv` that is misaligned, outside the share or
that carries a reserved value acts as KIND 1 at supervisor level and as KIND 3 at hypervisor level, there on the VF that VFN names;
one that cannot be read names none, and the warp's own is the target.
The model's own choices in it: log entries 25, 53, 88 and 108. -/
def Obligations.SystemWordsControlTheDevice : Prop :=
  ∀ (s : State) (la d ua : Nat), PipeFree s → ua < 64 →
    let x := (rdS s.old ua).toNat
    let vf? : Option Nat := if s.w.priv = 2 then none else some s.c.vf
    (x = 0 → exec (.sleep ua) s = .next s) ∧
    (x ≠ 0 → s.w.token = true → exec (.sleep ua) s = .next (withWarp s { s.w with token := false })) ∧
    (x ≠ 0 → s.w.token = false → exec (.sleep ua) s = .next (withWarp s { s.w with sleepUntil := some (s.cycle + x) })) ∧
    exec (.wake ua) s = .next (updWarp s s.c.id (x % 32) fun w =>
      if w.sleepUntil.any (fun t => decide (s.cycle < t)) then { w with sleepUntil := none } else { w with token := true }) ∧
    (s.w.priv = 0 → (∀ i ∈ [Instr.fresume ua, .fkill ua, .tlbinv ua, .lres ua, .wsopen ua, .wsclose ua],
      exec i s = .next (kill .priv s)) ∧ (d < 64 → ua % 2 = 0 → exec (.fstat la d ua) s = .next (kill .priv s))) ∧
    (s.w.priv ≠ 0 →
      (d < 64 → ua % 2 = 0 →
        let off := (rdS s.old (ua + 1)).toNat
        let good : Prop := off % 32 = 0 ∧ off + 32 ≤ s.c.shareSize
        (¬ good → exec (.fstat la d ua) s = .next (withUniform s d la (BitVec.ofNat 32 (2 * 2 ^ 24)))) ∧
        (good → findFrag s vf? x = none → exec (.fstat la d ua) s = .next (withUniform s d la (BitVec.ofNat 32 (2 ^ 24)))) ∧
        ∀ f, good → findFrag s vf? x = some f → (∀ j < 32, shPinned s (ownShare s) (off + j) = false) →
          ∃ t, exec (.fstat la d ua) s = .next (withUniform t d la (BitVec.ofNat 32 (lanesThat fun l => f.lanes.getLsbD l).length)) ∧
            OnlyCaches s t ∧ t = { updQuad s (s.c.core / 4) fun q => { q with
              sp := shareWrite s off (fragBytes f) q.sp } with lines := t.lines, cores := t.cores }) ∧
      (findFrag s vf? x = none → exec (.fresume ua) s = .next s ∧ exec (.fkill ua) s = .next s) ∧
      (∀ f, findFrag s vf? x = some f →
        let u := syncCore s f.core
        let v := if s.c.id = 0 then u else raiseTime u f.core (ltimeOf u s.c.core)
        exec (.fresume ua) s = .next (resumeFrag v f) ∧ exec (.fkill ua) s = .next (afterDeaths (killFrag v f))) ∧
      exec (.tlbinv ua) s = .next (invalidate s x) ∧
      ((∀ k ∈ merged s, ∀ w ∈ k.warps, w.memq = []) →
        let bs := shareBytes s x 32
        let found : Bool := x % 32 == 0 && decide (x + 32 ≤ s.c.shareSize)
        let kind := fld (leAt bs 0 4) 0 4
        let addr := leAt bs 8 8
        let bad : Bool := !found || fld (leAt bs 0 4) 16 16 != 0 || fld (leAt bs 0 4) 4 4 != 0 || decide (3 < kind) || leAt bs 4 4 != 0 ||
          leAt bs 16 16 != 0
        let hyp : Bool := s.w.priv == 2
        let target := if hyp && found then fld (leAt bs 0 4) 8 8 else s.c.vf
        let act := if bad then (if hyp then 3 else 1) else if !hyp && decide (2 ≤ kind) then 1 else kind
        let fresh : State := { s with fabric := { s.fabric with exports := s.fabric.exports.filter (·.1 != target) } }
        let holds (a : Nat) (e : TlbEnt) : Bool := decide (e.base ≤ a) && decide (a < e.base + e.size)
        (act = 0 → invalidate s x = retryRecords (dropTlb s target fun e => !e.st2 && holds (addr % 2 ^ 56) e) target) ∧
        (act = 1 → invalidate s x = retryRecords (dropTlb fresh target fun e => !e.st2) target) ∧
        (act = 2 → invalidate s x = retryRecords (dropTlb s target fun e => e.st2 && holds addr e) target) ∧
        (act = 3 → invalidate s x = retryRecords (dropTlb fresh target fun _ => true) target)) ∧
      (launchOf s x = none → exec (.lres ua) s = .next s) ∧
      (∀ l, launchOf s x = some l → (l.vf = s.c.vf ∨ s.w.priv = 2 → exec (.lres ua) s = .next (resumeLaunch (syncEngine s s.c.core) l)) ∧
        (l.vf ≠ s.c.vf → s.w.priv ≠ 2 → exec (.lres ua) s = .next s)) ∧
      exec (.wsopen ua) s = .next (updVf s s.c.vf fun v => { v with windows := (v.windows ++ maskWindows s x).eraseDups }) ∧
      exec (.wsclose ua) s = .next { withWarp (updVf s s.c.vf fun v => { v with closes := v.closes ++ [(x % 2 ^ 16, s.opSeq)] })
        { s.w with hold := .wsclose (x % 2 ^ 16) s.opSeq } with opSeq := s.opSeq + 1 })

/-- R8, R15, R17, R22, R23, R37, R106: a kill ends its warp: every lane that has not exited is KILLED, outstanding results are
dropped, and `%err` holds the first kill of the crew, with MORE for the others. A word outside its registers, an illegal word
and a failed fetch kill so; outside an issue the two events of the table change nothing.
The model's own choices in it: log entry 71. -/
def Obligations.KillsEndTheirWarp : Prop :=
  ∀ (s : State) (k : KillClass),
    let t := kill k s
    t.w.finished = true ∧ t.w.pend = [] ∧ t.iss.abort = true ∧ t.w.s = s.w.s ∧
    (∀ l < s.w.lanes.length, (t.w.lane l).v = (s.w.lane l).v ∧ (t.w.lane l).p = (s.w.lane l).p ∧ (t.w.lane l).pc = (s.w.lane l).pc ∧
      (t.w.lane l).st = if (s.w.lane l).st = .exited then .exited else .killed) ∧
    t.c.err = (if s.c.err.getLsbD 31 then s.c.err ||| 0x200000 else
      (s.c.err &&& 0x200000) ||| BitVec.ofNat 32 (2 ^ 31 + k.code * 2 ^ 27 + s.w.idx % 32 * 2 ^ 22 + s.iss.pc.toNat % 2 ^ 21)) ∧
    t.mem = s.mem ∧ t.quads = s.quads ∧ t.launches = s.launches ∧
    (∀ i, regrange s.w.window i = true → exec i s = .next (kill .regrange s)) ∧
    (s.c.id ≠ 0 → exec (.illegalWord k) s = .next (kill k s) ∧ exec .fetchFault s = .next (kill .fetch s)) ∧
    (s.c.id = 0 → exec (.illegalWord k) s = .next s ∧ exec .fetchFault s = .next s)

/-- R18 to R21, R107: the prefix checks the word after it and begins the repeat, its lanes standing at that word; each issue
then does what the word with its stepped fields does, whichever word of formats A, I, L, U and M it is but for CTL and SAFE, and
counts; after the last one the lanes go on.
The model's own choices in it: log entries 29, 49 and 78. -/
def Obligations.RepeatsIssueTheirSteppedWord : Prop :=
  ∀ (s : State) (count mask sd sa sb : Nat),
    let next := fetchWord s s.c s.w (s.iss.pc.toNat + 1)
    let rep := Instr.rep count mask sd sa sb
    let code := (encode rep).getD 0
    (next = none → fetchHeld s s.c s.w (s.iss.pc.toNat + 1) = false → exec rep s = .next (kill .fetch s)) ∧
    (next = none → fetchHeld s s.c s.w (s.iss.pc.toNat + 1) = true →
      exec rep s = .next { s with iss := { s.iss with stall := true } }) ∧
    (∀ w, next = some w →
      (∀ c, prefixCheck s.w.window code w (decide (s.iss.words ≠ 1)) = some c → exec rep s = .next (kill c s)) ∧
      (prefixCheck s.w.window code w (decide (s.iss.words ≠ 1)) = none → exec rep s = .next (withWarp s
        { mapLanes s.w s.iss.active (fun _ ln => { ln with pc := s.iss.pc + 1, inRep := true }) with
            rep := BitVec.ofNat 32 (2 ^ 31 + count % 64 * 2 ^ 19 + mask % 8 * 2 ^ 16 + sd % 4 * 2 ^ 14 + sa % 4 * 2 ^ 12 +
              sb % 4 * 2 ^ 10) }))) ∧
    (s.c.id ≠ 0 → repV s.w = true → repK s.w < repCnt s.w → ∀ w w' i,
      fld w' 25 6 ∈ [0x00, 0x01, 0x02, 0x03, 0x04, 0x05, 0x08, 0x09, 0x0A, 0x0B, 0x0C, 0x0D, 0x0E, 0x0F, 0x10, 0x11, 0x12, 0x13, 0x14,
        0x15, 0x16, 0x20, 0x21, 0x22, 0x23, 0x24, 0x25, 0x26, 0x27, 0x28, 0x29, 0x2A, 0x2B, 0x2C] →
      fetchWord s s.c s.w s.iss.pc.toNat = some w →
      repWord w (fld s.w.rep.toNat 16 3) (fld s.w.rep.toNat 14 2) (fld s.w.rep.toNat 12 2) (fld s.w.rep.toNat 10 2) (repK s.w) =
        some w' →
      decodeWord w' = .ok i → regrange s.w.window i = false → s.w.memq = [] →
      (breaches s.w i = true → exec .repeatIssue s = .next (kill .lookahead s)) ∧
      (breaches s.w i = false → ∃ u, exec i s = .next u ∧
        (u.iss.stall = false → u.w.finished = false → exec .repeatIssue s = .next (withWarp u (nextRepeat u.w))) ∧
        (u.iss.stall = true ∨ u.w.finished = true → exec .repeatIssue s = .next u))) ∧
    (s.c.id ≠ 0 → repV s.w = true → repK s.w < repCnt s.w → s.w.finished = false → s.iss.stall = false →
      ∀ w w' d a b imm u,
      fetchWord s s.c s.w s.iss.pc.toNat = some w →
      repWord w (fld s.w.rep.toNat 16 3) (fld s.w.rep.toNat 14 2) (fld s.w.rep.toNat 12 2) (fld s.w.rep.toNat 10 2) (repK s.w) =
        some w' →
      (decodeWord w' = .ok (.saddi d a imm) → d < 64 → a < 64 → breaches s.w (.saddi d a imm) = false →
        exec .repeatIssue s = .next (withWarp s (nextRepeat
          (setS s.w d (rdS s.old a + (BitVec.ofNat 11 imm).signExtend 32))))) ∧
      (decodeWord w' = .ok (.vadd u d a b) → d < s.w.window → a < s.w.window → BInRange s u b →
        breaches s.w (.vadd u d a b) = false → exec .repeatIssue s = .next (withWarp s (nextRepeat
          (setV s.w (liveMask s) d fun l => rdV s.old a l + if u then rdS s.old b else rdV s.old b l))))) ∧
    (∀ w : Warp, (∃ ln ∈ w.lanes, ln.inRep = true ∧ ln.repk = none ∧ ln.st = .run) →
      let counted : Word := (w.rep &&& 0xFFFFFFC0) ||| BitVec.ofNat 32 ((repK w + 1) % 64)
      (repK w + 1 < repCnt w → nextRepeat w = { w with rep := counted }) ∧
      (repCnt w ≤ repK w + 1 → (∀ ln ∈ w.lanes, ln.inRep = true → ln.repk = none → ln.st ≠ .waiting) →
        nextRepeat w = { w with
          rep := counted &&& 0x7FFFFFFF, repFin := false
          lanes := w.lanes.map fun ln => if ln.inRep then { ln with pc := ln.pc + 1, inRep := false, repk := none } else ln }))

/-! ### Events -/

/-- R14, R16, R144, R170, R175, R297: the events that time brings to a core: a known result reaches its registers, a lease ends,
a refresh window opens or closes, a warp has waited 256 cycles for its turn, a sleep is over. Reads of the weight store that waited
for a window are performed first; an issue slot goes to a warp that has waited 256 cycles, else to the one that issued last, else
to the oldest, a warp whose next word is known to wait coming after the others.
The model's own choices in it: log entries 6, 9 and 95. -/
def Obligations.CoreEventsTakeEffect : Prop :=
  ∀ (s : State), s.halted = false →
    (∀ c x id,
      (∀ w i l d sz sx ls ts rest, findWarp s c x = some w → w.memq = .wread i l d sz sx ls ts :: rest →
        exec (.resultArrives c x id) s =
          .next (updWarp (performN s c x w.memq.length) c x fun w => dropDone (deliver w id))) ∧
      ((∀ w i l d sz sx ls ts rest, findWarp s c x = some w → w.memq ≠ .wread i l d sz sx ls ts :: rest) →
        exec (.resultArrives c x id) s = .next (updWarp s c x fun w => dropDone (deliver w id)))) ∧
    (∀ (w : Warp) (p : Pend), w.pend.find? (·.id == p.id) = some p → p.need = 0 → p.open_ = false → p.arrived = false →
      let u := p.writes.foldl applyWrite w
      deliver w p.id = { u with
        fpflags := u.fpflags ||| p.flags.setWidth 32
        pend := w.pend.map fun q => if q.id = p.id then { q with arrived := true, writes := [] } else q }) ∧
    (∀ (w : Warp) l r x, ((w.lane l).live = true → applyWrite w (.v l r x) =
        { w with lanes := w.lanes.modify l fun ln => { ln with v := ln.v.set r x } }) ∧
      (l < w.lanes.length → (w.lane l).live = false → applyWrite w (.v l r x) = w) ∧
      (w.finished = false → applyWrite w (.s r x) = setS w r x) ∧ (w.finished = true → applyWrite w (.s r x) = w)) ∧
    (∀ core n cp, (coreAt s core).copies[n]? = some cp → exec (.leaseExpiry core n) s = .next (updCore s core fun k =>
      { k with lead := max k.lead (cp.rts - s.cycle), copies := k.copies.eraseIdx n })) ∧
    (∀ die, die < 8 → (dieAt s die).st ≠ .fenced →
      (∀ c x w i l d sz sx ls ts rest, findWarp s c x = some w → w.memq ≠ .wread i l d sz sx ls ts :: rest) →
      exec (.wsRefreshWindow die) s =
      .next { s with cycle := s.cycle + (2000 - (s.cycle - (dieAt s die).epoch) % 2000) }) ∧
    (∀ c x k r, findCrew s c = some k →
      (readyWarps s k.core).find? (fun r => r.crew.id == c && r.warp.idx == x && r.warp.passed) = some r →
      exec (.issueAgePromotion c x) s =
        .next (updWarp { s with cycle := max s.cycle (r.warp.lastIssue + 256) } c x fun w => { w with promoted := true })) ∧
    (∀ core rs, ((∃ r ∈ readyWarps s core, r.warp.held = false) ∧ rs = (readyWarps s core).filter fun r => !r.warp.held) ∨
        (∀ r ∈ readyWarps s core, r.warp.held = true) ∧ rs = readyWarps s core →
      let due := rs.filter fun r => r.warp.promoted || (r.warp.passed && decide (r.warp.lastIssue + 256 ≤ s.cycle))
      let last? := rs.find? fun r => (coreAt s core).last == some (r.crew.id, r.warp.idx)
      (due ≠ [] → chooseWarp s core = oldest due) ∧
      (due = [] → last?.isSome = true → chooseWarp s core = last?) ∧
      (due = [] → last? = none → chooseWarp s core = oldest rs)) ∧
    (∀ rs r, oldest rs = some r → r ∈ rs ∧ ∀ x ∈ rs, r.crew.placedAt < x.crew.placedAt ∨
      r.crew.placedAt = x.crew.placedAt ∧ r.warp.idx ≤ x.warp.idx) ∧
    ∀ c x w t, findWarp s c x = some w → w.sleepUntil = some t → exec (.sleepExpiry c x) s =
      .next (updWarp { s with cycle := max s.cycle t } c x fun w => { w with sleepUntil := none })

/-- R121, R122, R124 to R128, R133, R134, R141, R309: the launch hardware's events: a queue's TAIL is written, a descriptor is
accepted, a walk starts, a record is evaluated, a tile is pushed, a launch ends or is aborted.
The model's own choices in it: log entries 26, 39, 40, 60, 71, 91, 93 and 100. -/
def Obligations.LaunchEventsTakeEffect : Prop :=
  ∀ (s : State), s.halted = false →
    (∀ fn q v, q < (if fn = 0 then 16 else min (vfAt s fn).lqn 16) → fn < s.vfs.length → q < (vfAt s fn).lq.length →
      let x := (vfAt s fn).lq.getD q {}
      let u := setLq s fn q fun x => { x with tail := v % 2 ^ 32 }
      let far : Prop := 2 ^ x.log2n < (v % 2 ^ 32 + 2 ^ 32 - x.head) % 2 ^ 32
      (12 < x.log2n → exec (.lqTailWrite fn q v) s = .next u) ∧
      (x.log2n ≤ 12 → ¬ far → exec (.lqTailWrite fn q v) s = .next (setLq u fn q fun x => { x with err := false })) ∧
      (x.log2n ≤ 12 → far → exec (.lqTailWrite fn q v) s = .next (interrupt (setLq u fn q fun x => { x with err := true }) fn 1))) ∧
    (∀ vf q, nextVf s = some vf → nextQueue s vf = some q → q ≠ 16 →
      let x := (vfAt s vf).lq.getD q {}
      ∀ bs id u, readVa s vf (x.base + 128 * (x.head % 2 ^ x.log2n)) 128 = .ok bs → acceptDesc s vf (some bs) = some (id, u) →
        exec (.launchAccept vf q) s = .next (updVf
          { setLq u vf q (fun x => { x with head := (x.head + 1) % 2 ^ 32 }) with lastVf := vf } vf fun v => { v with lastQ := q })) ∧
    (∀ vf bs td, tableDesc s vf (parseLaunch bs).tensor = .ok td →
      checkLaunch s vf (s.nextLaunch % 2 ^ 32) (parseLaunch bs) true = 0 →
      acceptDesc s vf (some bs) = some (s.nextLaunch % 2 ^ 32, { s with
        nextLaunch := s.nextLaunch + 1
        launches := s.launches ++ [{ seq := s.nextLaunch, vf := vf, st := .pending, status := 0, desc := bs }] })) ∧
    (∀ seq l, findLaunch s seq = some l →
      let d := parseLaunch l.desc
      (l.st = .pending → l.aborting = false → (∀ p ∈ d.predIds, predDone s p = true) → (vfAt s l.vf).windows = [] →
        tableDesc s l.vf d.tensor ≠ .error 0 → (∀ td, tableDesc s l.vf d.tensor = .ok td → tableWaits s l.vf td = false) →
        exec (.launchWalkStart seq) s =
          .next (walkOver (if d.pers then persistentCrews (beginWalk s l) l else beginWalk s l) seq)) ∧
      (∀ die w i rest r, l.st = .walking → l.aborting = false → (dieAt s die).st = .active → l.walks.find? (·.die == die) = some w →
        w.die = die → w.stop = none → w.cur = none → w.todo = i :: rest → readReach s l i = some (.ok r) →
        (r.hdie ≠ die → r.st = 1 → (dieAt s r.hdie).st = .active → exec (.tillerEvaluateReach seq die) s =
          .next (walkOver (updWalk (updWalk s l.seq die fun w => { w with todo := rest }) l.seq r.hdie (passRecord s l i)) seq)) ∧
        (r.hdie = die → r.st = 2 → w.second = false → exec (.tillerEvaluateReach seq die) s =
          .next (walkOver (updWalk s l.seq die fun w => { w with deferred := insertIdx i w.deferred, todo := rest }) seq)) ∧
        (r.hdie = die → r.st = 1 → r.stamp = l.seq →
          exec (.tillerEvaluateReach seq die) s = .next (walkOver (updWalk s l.seq die fun w => { w with todo := rest }) seq)) ∧
        (∀ v, r.hdie = die → r.st = 1 → r.stamp ≠ l.seq → spanClear s l.vf (l.place + 32 * i) 8 = (false, v) →
          exec (.tillerEvaluateReach seq die) s = .next (walkOver v seq)) ∧
        (∀ v u, r.hdie = die → r.st = 1 → r.stamp ≠ l.seq → d.pers = false →
          spanClear s l.vf (l.place + 32 * i) 8 = (true, v) → writeVa v l.vf (l.place + 32 * i) (bytesOfNat 8 l.seq) = .ok u →
          let tiles := ((List.range r.count).map (r.first + ·)).filter fun t => decide (t < gridTiles l.grid)
          exec (.tillerEvaluateReach seq die) s = .next (walkOver (makeCrews (updWalk u l.seq die fun w =>
            { w with todo := rest, cur := some (r.hdie * 8 + r.hbay, r.replicas, r.gen, tiles) }) l die (r.count + 1)) seq))) ∧
      (∀ die w i rest c, l.st = .walking → l.aborting = false → (dieAt s die).st = .active → l.walks.find? (·.die == die) = some w →
        w.die = die → w.stop = none → w.cur = none → w.todo = i :: rest → readReach s l i = some (.error c) →
        exec (.tillerEvaluateReach seq die) s = .next (walkOver (stopWalk s l die i c) seq)) ∧
      (∀ die w home reps gen t ts v u, d.pers = true → l.aborting = false → l.walks.find? (·.die == die) = some w →
        w.cur = some (home, reps, gen, t :: ts) →
        queueClear s true l.vf d.queue = (true, v) → tillerPushEntry v l.vf d.queue (workEntry d.tensor gen seq home (tileOfIndex l.grid t)) = some u →
        exec (.tillerPush seq die) s = .next (walkOver (updWalk u seq die fun w =>
          { w with cur := if ts = [] then none else some (home, reps, gen, ts) }) seq)) ∧
      (launchClear s seq = true →
        (l.aborting = true → exec (.launchDone seq) s = .next (finishLaunch s seq .aborted 8)) ∧
        (l.aborting = false → l.closing = false → l.st = .draining →
          exec (.launchDone seq) s = .next (finishLaunch (dropCopies s) seq .done 0))) ∧
      (l.aborting = false → l.closing = true → exec (.launchDone seq) s = .next (tryClose s l)) ∧
      (launchClear s seq = false → l.aborting = true ∨ l.closing = false → exec (.launchDone seq) s = .next s)) ∧
    ∀ fn id, let u := updVf s fn fun v => { v with labort := id % 2 ^ 32 }
      (∀ l, launchOf s (id % 2 ^ 32) = some l → l.vf = fn → exec (.labortWrite fn id) s = .next (abortLaunch u l)) ∧
      ((∀ l, launchOf s (id % 2 ^ 32) = some l → l.vf ≠ fn) → exec (.labortWrite fn id) s = .next u)

/-- R7, R121, R137, R138, R140, R282, R283, R287, R312: the Sluice's events: a crew starts, with ARGS in s1 and s2 and every other
register 0, or a saved one is restored, on the first core that passes; a crew leaves its core when all its warps have stopped, and
waits where its place in the context area lies on a die out of service; a time slice ends.
The model's own choices in it: log entries 6, 15, 41, 43, 44, 60, 70, 71 and 92. -/
def Obligations.CrewEventsTakeEffect : Prop :=
  ∀ (s : State), s.halted = false →
    (∀ bay i q core, (bayAt s bay).service = [] → headCrew s bay = some (i, q) →
      (offerOrder s bay).find? (fun x => fits s x (needOf s q)) = some core →
      (q.saved = none → exec (.sluicePlaceCrew bay) s = .next (startCrew
        (updBay s bay fun b => { b with queue := b.queue.eraseIdx i }) core
        (parseLaunch (((findLaunch s q.launch).map (·.desc)).getD [])) q.launch q.vf q.crewIdx q.tile false)) ∧
      (q.saved ≠ none → exec (.sluicePlaceCrew bay) s = .next (restoreNow s bay i core)) ∧
      (∀ k, q.saved = some k → bay = core / 16 → exec (.crewRestore k.id core) s = .next (restoreNow s bay i core))) ∧
    (∀ bay i q, (bayAt s bay).service = [] → headCrew s bay = some (i, q) → q.launch ≠ 0 →
      (offerOrder s bay).find? (fun x => fits s x (needOf s q)) = none →
      exec (.sluicePlaceCrew bay) s = .next (preempt s bay (prioOf s q.launch) (needOf s q))) ∧
    (∀ d slot idx cycle, let w := newWarp d slot idx 0 cycle
      w.window = d.regs ∧ w.lanes.length = 64 ∧ rdS w 1 = BitVec.ofNat 32 d.args ∧ rdS w 2 = BitVec.ofNat 32 (d.args / 2 ^ 32) ∧
      (∀ r < 64, r ≠ 1 → r ≠ 2 → rdS w r = 0) ∧ w.fpmode = 0 ∧ w.fpflags = 0 ∧ w.role = d.roles / 4 ^ idx % 4 ∧
      ∀ l < 64, (w.lane l).pc = BitVec.ofNat 32 d.entry ∧ (w.lane l).st = .run ∧ (∀ r, rdV w r l = 0) ∧
        (w.lane l).v.length = d.regs ∧ ∀ r, 1 ≤ r → rdP w r l = false) ∧
    (∀ c k, s.crews.find? (·.id == c) = some k →
      (saveReady s k = true → ctxRoom s k = true → ctxHeld s k.vf k.core (ctxPages s k.vf (ctxNeed k)) = false →
        exec (.crewSave c) s = .next (saveCrewNow s k)) ∧
      (saveReady s k = true → ctxRoom s k = true → ctxHeld s k.vf k.core (ctxPages s k.vf (ctxNeed k)) = true →
        exec (.crewSave c) s = .next s) ∧
      (saveReady s k = true → ctxRoom s k = false → exec (.crewSave c) s = .next (updCrew s c fun k => { k with
        saveReq := none, saveDue := k.saveReq, warps := k.warps.map fun w => { w with stopped := none, sinceReq := 0 } })) ∧
      (saveReady s k = false → exec (.crewSave c) s = .next s)) ∧
    (∀ c x k w, findCrew s c = some k → findWarp s c x = some w → k.saveReq ≠ none → w.stopped = none → 4096 ≤ w.sinceReq →
      exec (.saveBundleLimit c x) s = .next (updWarp s c x fun w => { w with stopped := some .full })) ∧
    (s.slice = none → exec .timeSliceEnd s = .next s) ∧
    ∀ v t, s.slice = some (v, t) → exec .timeSliceEnd s = .next
      (let u : State := { s with cycle := max s.cycle (t + max 200000 s.tslen) }
       sliceNext (askSave u .slice fun k => k.vf == v && !k.service && sliced u v))

/-- R209, R212, R215, R220, R221, R223, R225, R262, R278, R337: the events of the engines, the walkers and the fault ring.
The model's own choices in it: log entries 6, 14, 25, 33, 46, 56, 72, 74, 75, 86, 88 and 96. -/
def Obligations.EngineEventsTakeEffect : Prop :=
  ∀ (s : State), s.halted = false →
    (∀ bay, let u := beginHeads s bay
      ((∃ ch < 16, (chunkSize u bay ch).isSome = true) → exec (.bteChunk bay) s =
        .next (idleRounds (beginHeads (serveChunk u bay) bay) bay)) ∧
      ((∀ ch < 16, chunkSize u bay ch = none) → exec (.bteChunk bay) s =
        .next (updBay u bay fun b => { b with deficit := [0, 0, 0, 0], fresh := true }))) ∧
    (∀ (e : ChanEntry) (d : SliceD) (j pos n quad base size : Nat), d.ssp = 1 → d.dsp = 1 → e.share s = .pad quad base size →
      d.src + j < size → d.dst + j < size → armedAt s (.sp quad (base + (d.dst + j))) = false →
      pinned s (.sp quad (base + (d.dst + j))) = false →
      ∃ t, linByte s e d j pos n = .ok t ∧ t = { updQuad s quad (fun q => { q with
        sp := memSet q.sp (base + (d.dst + j)) (memGet (quadAt s quad).sp (base + (d.src + j))) }) with
          lines := t.lines, etime := t.etime } ∧ s.etime ≤ t.etime) ∧
    (∀ bay ch e, (chanAt (beginHeads s bay) bay ch).entries.head? = some e → e.kind = .copy →
      (copyOver (beginHeads s bay) e = true → exec (.bteCompletion bay ch) s =
        .next (sweepKept (settleFences (copyDone (beginHeads s bay) bay ch e) bay))) ∧
      (copyOver (beginHeads s bay) e = false → exec (.bteCompletion bay ch) s = .next (beginHeads s bay))) ∧
    (∀ quad, quad < s.quads.length → let q := quadAt s quad
      let now := max s.cycle q.arrayFree
      (pickEntry now q = none → exec (.qmeGrant quad) s = .next s) ∧
      ∀ e, pickEntry now q = some e →
        let p := if e.kind < 2 then multiply q e
          else if e.kind = 3 then { q with acc := q.acc.set e.slot (List.replicate 4096 0) } else q
        exec (.qmeGrant quad) s = .next { s with
          cycle := now
          quads := s.quads.set quad { p with
            arrayFree := now + arrayCycles e
            qme := p.qme.map fun x => if x.op = e.op then { x with
              active := true, due := now + arrayCycles e + 24, pa := if e.kind = 2 then outPanel p e else x.pa } else x } }) ∧
    (∀ quad n e, (quadAt s quad).qme.find? (fun x => x.entry == n && x.active) = some e →
      exec (.qmeCompletion quad n) s = .next (sweepKept (settleFences (completeEntry s quad e) (quad / 4)))) ∧
    (∀ quad n e, (quadAt s quad).qme.find? (fun x => x.entry == n && !x.active && x.kind != 4) = some e →
      exec (.qmeEntryAging quad n) s = .next (updQuad { s with cycle := max s.cycle (e.posted + 4096) } quad fun q => { q with
        qme := q.qme.map fun y => if y.op = e.op then { y with aged := true } else y })) ∧
    (∀ die n r t, (dieAt s die).wq[n]? = some r → r.waiting = false → (dieAt s die).st = .active →
      (∀ x ∈ (dieAt s die).wq.take n, x.waiting = true ∨ x.vf ≠ r.vf ∨ x.qid ≠ r.qid) → refillDue s r.vf r.qid = false →
      ∀ v, queueClear s r.kind.isPush r.vf r.qid = (true, v) → serveReq v die r = some t →
      exec (.workqRequestServed die n) s = .next t) ∧
    (∀ quad n b v, (quadAt s quad).bindings[n]? = some b → queueClear s false b.vf b.qid = (true, v) →
      (b.due = 0 → b.pending = true → queueBusy v b.vf b.qid = false → refillDue v b.vf b.qid = false →
        exec (.refillArrival quad n) s = .next (refill v quad b)) ∧
      (0 < b.due → exec (.refillArrival quad n) s = .next (refillPops
        (updBinding v quad b.crew b.qid fun x => { x with due := 0 }) quad b.crew b.vf b.qid b.due))) ∧
    (∀ src es, stealQueue s = none → exec (.stealEntriesArrive src es) s =
      .next { s with pod := { s.pod with shipped := s.pod.shipped ++ es.map fun e => (src, e.set 0 3) } }) ∧
    (∀ src es vf q, stealQueue s = some (vf, q) → exec (.stealEntriesArrive src es) s =
      .next (es.foldl (fun t e => pushSteal t src (e.set 0 3)) (serveFirst s vf q ((s.dies.map fun k => k.wq.length).sum)))) ∧
    (∀ vf r rest u c, let v := vfAt s vf
      let slot := v.frbase + 128 * (v.frhead % 2 ^ v.frlog2n)
      v.frBlocked = false → v.frPend = r :: rest → v.frbase ≠ 0 → v.frlog2n ≤ 12 → v.fobj = 0 →
      (v.frhead + 2 ^ 32 - v.frtail) % 2 ^ 32 ≠ 2 ^ v.frlog2n → spanClear s vf slot 128 = (true, c) →
      writeVa c vf slot (stampRecord r.bytes (spanTime c vf slot 128)) = .ok u →
      exec (.faultRecordWrite vf) s = .next (interrupt (releaseEntry
        (updVf u vf fun v => { v with frPend := rest, frhead := (v.frhead + 1) % 2 ^ 32 }) r) vf 0)) ∧
    (∀ vf r rest c, let v := vfAt s vf
      v.frBlocked = false → v.frPend = r :: rest → v.frbase = 0 ∨ 12 < v.frlog2n → recordClear s vf = (true, c) →
      vfAt c vf = vfAt s vf →
      exec (.faultRecordWrite vf) s = .next (interrupt (updVf c vf fun v => { v with frBlocked := true }) vf 3)) ∧
    ∀ die n k, (dieAt s die).walks[n]? = some k →
      let fill1 (t : State) (core : Option Nat) (bay : Nat) (x : XlatRes) : State := match x with
        | .hit l => if k.want.st2 = true then t else tlbFill t core bay l
        | .miss .. => t
      let hand (t : State) (x : XlatRes) : State := k.waiting.foldl (fun t m =>
        let y : Xlated := ⟨m.2.2, k.want.st2, x⟩
        let now := tableTime t k.want.vf
        if m.1 = 0 then
          fill1 { updBay t m.2.1 fun b => { b with xlat := b.xlat ++ [y] } with etime := max t.etime now } none m.2.1 x
        else
          let core := ((findCrew t m.1).map (·.core)).getD k.want.core
          fill1 (raiseTime (updWarp t m.1 m.2.1 fun w => { w with xlat := w.xlat ++ [y] }) core now) (some core) (core / 16) x) t
      let u := updDie s die fun d => { d with walks := d.walks.eraseIdx n }
      let goOn (t : State) : State := admitMisses t die (dieAt s die).misses.length
      let walk := if k.want.st2 then leaf2 s k.want.vf (k.want.page * 8192) else walk1 s k.want.vf (k.want.page * 8192)
      (∀ c, walk = .error (.code c) → exec (.pageWalkComplete die n) s = .next (goOn (hand u (.miss k.want.page c)))) ∧
      (∀ l, walk = .ok l → exec (.pageWalkComplete die n) s = .next (goOn
        (if k.want.st2 then tlbFill (hand u (.hit l)) none k.want.bay l else hand u (.hit l)))) ∧
      (walk = .error .wait → exec (.pageWalkComplete die n) s = .next s) ∧
      ∀ (t : State) (core bay : Nat) (l : TlbEnt), core < t.cores.length → bay < t.bays.length → l.st2 = false →
        l ∈ (coreAt (tlbFill t (some core) bay l) core).tlb ∧ l ∈ (bayAt (tlbFill t (some core) bay l) bay).tlb ∧
        (∀ b, b ≠ bay → bayAt (tlbFill t (some core) bay l) b = bayAt t b) ∧
        ∀ c, c ≠ core → coreAt (tlbFill t (some core) bay l) c = coreAt t c

/-- R179, R262, R263, R304, R308 to R311, R316, R317, R327, R336: the host's events: accesses through BAR2, and writes and
reads of registers. A device with no die left answers nothing on the host link (R304).
The model's own choices in it: log entries 53, 58, 59, 60, 61, 75, 93 and 94. -/
def Obligations.HostEventsTakeEffect : Prop :=
  ∀ (s : State), s.halted = false →
    (∀ fn gpa data, 2 ^ 51 ≤ gpa →
      exec (.hostWrite fn gpa data) s = .next { s with hostMem := memWrite s.hostMem (gpa % 2 ^ 51) data }) ∧
    (∀ fn gpa data ls, gpa < 2 ^ 51 → hostLocs s fn gpa true data.length = some ls →
      (∀ v, homeClear s fn (ls.filterMap id) = (true, v) →
        let u := putLocs v fn ((ls.zip data).filterMap fun x => x.1.map fun l => (l, x.2))
        exec (.hostWrite fn gpa data) s = .next (hostStamp u fn) ∧ u.etime ≤ (hostStamp u fn).etime ∧
        (fn < u.vfs.length → (vfAt (hostStamp u fn) fn).hostTime = (hostStamp u fn).etime ∧
          (vfAt u fn).hostTime < (vfAt (hostStamp u fn) fn).hostTime)) ∧
      ∀ v, homeClear s fn (ls.filterMap id) = (false, v) → exec (.hostWrite fn gpa data) s = .next v) ∧
    (∀ fn gpa data, gpa < 2 ^ 51 → hostLocs s fn gpa true data.length = none → exec (.hostWrite fn gpa data) s = .next s) ∧
    (∀ fn off n, (∀ d ∈ s.dies, d.st = .fenced) → (fn ≠ 0 ∨ off + n ≤ 0x8008 ∨ 0x8018 ≤ off) →
      exec (.hostRead fn (2 ^ 52 + off) n) s = .next { s with hostReadback := [] }) ∧
    (∀ fn off v, (∀ d ∈ s.dies, d.st = .fenced) → exec (.registerWrite fn off v) s = .next s) ∧
    (∀ fn off n, (∃ d ∈ s.dies, d.st ≠ .fenced) → off < 2 ^ 20 → (fn ≠ 0 ∨ off + n ≤ 0x8008 ∨ 0x8018 ≤ off) →
      exec (.hostRead fn (2 ^ 52 + off) n) s =
        .next { s with hostReadback := (List.range n).map fun i => fieldByte (regFields s fn off) (off + i) }) ∧
    (∀ off n, (∃ d ∈ s.dies, d.st ≠ .fenced) → off < 0x8018 → 0x8008 < off + n → ∃ caps, caps.length = 8 ∧
      let u : State := { s with dcap := caps, freeCtr := s.freeCtr + 1 }
      exec (.hostRead 0 (2 ^ 52 + off) n) s =
        .next { u with hostReadback := (List.range n).map fun i => fieldByte (regFields u 0 off) (off + i) }) ∧
    (∀ fn gpa n, 2 ^ 51 ≤ gpa → gpa < 2 ^ 52 →
      exec (.hostRead fn gpa n) s = .next { s with hostReadback := memRead s.hostMem (gpa % 2 ^ 51) n }) ∧
    (∀ fn gpa n ls, gpa < 2 ^ 51 → hostLocs s fn gpa false n = some ls →
      exec (.hostRead fn gpa n) s = .next { s with hostReadback := ls.map fun l => (l.map (locGet s fn)).getD 0xFF }) ∧
    (∀ fn v, exec (.s1rootWrite fn v) s = .next (retryRecords (dropTlb
        { updVf s fn (fun x => { x with s1root := v % 2 ^ 64 }) with
          fabric := { s.fabric with exports := s.fabric.exports.filter (·.1 != fn) } } fn isStage1) fn)) ∧
    (∀ fn v, exec (.faultRingConfigWrite fn 0x28 v) s = .next (retryRecords
        (updVf s fn fun x => { x with frbase := v % 2 ^ 64 / 4096 * 4096, frlog2n := v % 16 }) fn) ∧
      exec (.faultRingConfigWrite fn 0x34 v) s = .next (retryRecords (updVf s fn fun x => { x with frtail := v % 2 ^ 32 }) fn)) ∧
    (∀ fn id,
      let who : Option Nat := if fn = 0 then none else some fn
      let u := updVf s fn fun x => { x with fresume := id % 2 ^ 32 }
      let t := updVf s fn fun x => { x with fkill := id % 2 ^ 32 }
      (findFrag s who (id % 2 ^ 32) = none → exec (.fresumeWrite fn id) s = .next (reap u) ∧
        exec (.fkillWrite fn id) s = .next (reap t)) ∧
      ∀ f, findFrag s who (id % 2 ^ 32) = some f →
        s.c.id = 0 → exec (.fresumeWrite fn id) s = .next (reap (resumeFrag (syncCore u f.core) f)) ∧
        exec (.fkillWrite fn id) s = .next (reap (afterDeaths (killFrag (syncCore t f.core) f)))) ∧
    (∀ fn v bs b rest,
      let u := updVf s fn fun x => { x with svcstart := v % 2 ^ 64 }
      let d := parseLaunch bs
      let bays := (List.range Config.bays).filter fun b => (List.range 4).any fun i => holdsQuad u fn (4 * b + i)
      (4 ≤ serviceCrews u fn → exec (.svcstartWrite fn v) s = .next (interrupt u fn 2)) ∧
      (∀ x, serviceCrews u fn < 4 → readVa u fn (v % 2 ^ 56) 128 = .error (0, x) → exec (.svcstartWrite fn v) s =
        .next (updVf u fn fun x => { x with svcPend := x.svcPend ++ [v % 2 ^ 64] })) ∧
      (serviceCrews u fn < 4 → readVa u fn (v % 2 ^ 56) 128 = .ok bs → (bays.filter fun b => bitB d.baymask b) ++ bays = b :: rest →
        d.badCode = false → d.badShape = false → d.shapeResv = 0 → d.badAddr = false →
        let t := updBay u b fun x => { x with service := x.service ++ [(fn, bs)] }
        exec (.svcstartWrite fn v) s = .next (if (bayAt t b).service.length = 1 then placeCrew t b else t))) ∧
    (∀ vf, 1 ≤ vf → vf ≤ 192 → (vfAt s vf).en = false → queuesFree s vf = true →
      exec (.vfEnableWrite vf true) s = .next (logEvent
        { updVf s vf (fun v => { v with en := true, key := some s.nextKey }) with nextKey := s.nextKey + 1 } 9 vf)) ∧
    (∀ vf, 1 ≤ vf → vf ≤ 192 → (vfAt s vf).en = true → ∃ t, exec (.vfEnableWrite vf false) s = .next t ∧
      (vfAt t vf).en = false ∧ (vfAt t vf).key = none) ∧
    (∀ vf n, 1 ≤ vf → vf ≤ 192 → (vfAt s vf).en = false →
      exec (.vfQuadsChange vf n) s = .next (updVf s vf fun v => { v with quads := n % 2 ^ 256 })) ∧
    (∀ vf n, 1 ≤ vf → vf ≤ 192 → (vfAt s vf).en = true → exec (.vfQuadsChange vf n) s = .next (settleQuads
      (askSave (updVf s vf fun v => { v with quadsNext := some (n % 2 ^ 256) }) .quads
        fun k => k.vf == vf && !bitB (n % 2 ^ 256) (k.core / 4)) vf)) ∧
    (∀ fn v, fn ≤ 192 → (∃ d ∈ s.dies, d.st ≠ .fenced) →
      exec (.registerWrite fn 0x10 v) s = .next (updVf s fn fun x => { x with ttbase := v % 2 ^ 64 }) ∧
      exec (.registerWrite fn 0x18 v) s = .next (updVf s fn fun x => { x with qtbase := v % 2 ^ 64 }) ∧
      exec (.registerWrite fn 0x20 v) s = .next (updVf s fn fun x => { x with trapcode := v % 2 ^ 64 }) ∧
      exec (.registerWrite fn 0x38 v) s = .next (updVf s fn fun x => { x with fobj := v % 2 ^ 64 }) ∧
      exec (.registerWrite fn 0x4C v) s = .next (updVf s fn fun x => { x with intst := x.intst &&& ~~~(BitVec.ofNat 4 v) }) ∧
      exec (.registerWrite fn 0x50 v) s = .next (updVf s fn fun x => { x with inten := v % 8 }) ∧
      exec (.registerWrite fn 0x60 v) s = .next (updVf s fn fun x => { x with exbase := v % 2 ^ 64 }) ∧
      exec (.registerWrite fn 0x68 v) s = .next (updVf s fn fun x => { x with imbase := v % 2 ^ 64 }) ∧
      exec (.registerWrite fn 0x48 v) s = exec (.labortWrite fn v) s ∧
      exec (.registerWrite fn 0x58 v) s = exec (.svcstartWrite fn v) s) ∧
    ∀ v, (∃ d ∈ s.dies, d.st ≠ .fenced) → exec (.registerWrite 0 0x8048 v) s = .next { s with tslen := v % 2 ^ 32 } ∧
      exec (.registerWrite 0 0x8054 v) s = .next { s with pod := { s.pod with
        ship := v / 2 ^ 24 % 2 ^ 8, high := v / 2 ^ 12 % 2 ^ 12, low := v % 2 ^ 12 } }

/-- R132, R304, R313 to R315, R357: draining, resetting and returning a die, a failure in service, a device reset, and the move
of a reach. A drain asks its crews to save once the reaches whose home is the die have been moved.
The model's own choices in it: log entries 26, 40, 42, 60, 62, 63 and 70. -/
def Obligations.PackageEventsTakeEffect : Prop :=
  ∀ (s : State), s.halted = false →
    (∀ die, die < 8 → let d := dieAt s die
      let empties (t : State) : State := match (dieAt t die).moving with
        | none => t
        | some save =>
          if reachesMoved t die = true then
            let u := updDie t die fun d => { d with moving := none }
            if save then askSave u .drain fun k => k.core / 128 == die else u
          else t
      let drains (t : State) (save : Bool) : State :=
        empties (dieLinks (updDie t die fun d => { d with st := .draining, moving := some save }) die)
      let asked (op : Nat) : State := { s with drOp := op, drDie := die, drGo := true, drRun := some die }
      let nothing (op : Nat) : State := { s with drOp := op, drDie := die, drGo := false, drRun := none }
      (d.st = .active →
        exec (.drainFinish die) s = .next (drains (asked 0) false) ∧
        exec (.drainSave die) s = .next (drains (asked 1) true) ∧
        exec (.dieFailsInService die) s = .next (drains s true)) ∧
      (d.st ≠ .active → exec (.drainFinish die) s = .next (nothing 0) ∧ exec (.drainSave die) s = .next (nothing 1) ∧
        exec (.dieFailsInService die) s = .next s) ∧
      (d.st = .draining →
        let t := empties s
        (drainOver t die = true → exec (.dieDrainComplete die) s = .next (logEvent (requestOver
          (updDie { t with
            cores := t.cores.map fun k => { k with copies := [] }
            bays := t.bays.map fun b => { b with copies := [] }
            fabric := { t.fabric with peerCopies := [] } } die fun d => { d with st := .drained }) die) 8 die)) ∧
        (drainOver t die = false → exec (.dieDrainComplete die) s = .next t)) ∧
      (d.st = .drained →
        (∃ t, exec (.reset die) s = .next t ∧ t.drOp = 2 ∧ t.drDie = die ∧ t.drGo = true ∧ t.drRun = some die ∧ t.mem = s.mem ∧
          t.crews = s.crews ∧
          (die < s.dies.length → dieAt t die =
            { d with st := .resetting, ws := [], descs := [], walks := [], misses := [], epoch := s.cycle, auth := false }) ∧
          (∀ e, e ≠ die → dieAt t e = dieAt s e) ∧
          (∀ c < s.cores.length, coreAt t c = if c / 128 = die then { coreAt s c with copies := [], tlb := [] } else coreAt s c) ∧
          ∀ b < s.bays.length, bayAt t b = if b / 8 = die then { bayAt s b with copies := [], tlb := [] } else bayAt s b) ∧
        exec (.return_ die) s = .next { updDie s die (fun d => { d with auth := true }) with
          drOp := 3, drDie := die, drGo := true, drRun := some die }) ∧
      (d.st ≠ .drained → exec (.reset die) s = .next (nothing 2) ∧ exec (.return_ die) s = .next (nothing 3)) ∧
      (d.st = .resetting → exec (.dieResetComplete die) s = .next (requestOver (updDie s die fun d => { d with st := .drained }) die)) ∧
      (d.auth = true → exec (.dieAuthenticated die false) s = .next (logEvent (requestOver
          (updDie s die fun d => { d with auth := false, st := d.st }) die) 8 die) ∧
        exec (.dieAuthenticated die true) s = .next (settleFabric ((List.range 193).foldl (fun t v => retryService (retryStatus t v) v)
          (dieLinks (logEvent (requestOver (updDie s die fun d => { d with auth := false, st := .active }) die) 8 die) die))))) ∧
    (∀ genuine, ∃ t, exec (.deviceReset genuine) s = .next t ∧ t.crews = [] ∧ t.frags = [] ∧ t.launches = [] ∧ t.lines = [] ∧
      t.armed = [] ∧ t.cores = State.reset.cores ∧ t.quads = State.reset.quads ∧ t.bays = State.reset.bays ∧ t.mem = s.mem ∧
      t.hostMem = s.hostMem ∧ t.dies.length = 8 ∧
      ∀ d < 8, (dieAt t d).st = if genuine.getD d false then .active else .fenced) ∧
    ∀ vf addr hdie hbay bs,
      let v := serving s fun _ => true
      let goOn (t : State) : State := (List.range 8).foldl beginEmptying (served s t)
      let r := parseReach bs
      readVa v vf addr 32 = .ok bs → hdie < 8 → hbay < 8 →
      (r.st = 1 → (dieAt s r.hdie).st = .active ∨ targetDie s vf = some hdie → ∀ u, spanClear v vf (addr + 0x10) 8 = (true, u) →
        exec (.migrationServiceMove vf addr hdie hbay) s = .next (goOn (putReach
          (putReach u vf addr { r with st := 2, gen := (r.gen + 1) % 2 ^ 32 }) vf addr
          { r with hdie := hdie, hbay := hbay, gen := (r.gen + 2) % 2 ^ 32 }))) ∧
      (r.st ≠ 1 → exec (.migrationServiceMove vf addr hdie hbay) s = .next (goOn v)) ∧
      ((∀ d ∈ s.dies, d.st ≠ .draining ∧ d.moving = none) → v = s ∧ goOn s = s)

/-- R319 to R324, R328, R329, R331, R334, R337, R342: flits. A flit that its port takes goes into a slot of its function's share
or of the pool and is served as far as it can be; one that finds no slot is refused with an LNAK; acknowledgements free the
replay buffer up to their place; a refusal sends again from its place on. The token moves on after its hold.
The model's own choices in it: log entries 6, 12, 26, 50, 51, 52, 53, 55 and 56. -/
def Obligations.FabricEventsTakeEffect : Prop :=
  ∀ (s : State), s.halted = false →
    (∀ (f : Flit), portUp s f.port = true →
      ∀ p ∈ [(Instr.rdreq f, 1), (.wrreq f, 2), (.atomreq f, 3), (.resp f, 4), (.inval f, 5), (.frel f, 6), (.fack f, 7),
          (.whdr f, 8), (.wpull f, 9), (.wdone f, 10), (.token f, 11), (.invack f, 13)],
        (portTakes s f.port f.vf f.lseq = false → exec p.1 s = .next (passOver s f.port f.lseq)) ∧
        (portTakes s f.port f.vf f.lseq = true → ctlSlot s f.port f.vf = none →
          exec p.1 s = .next (refuse s f.port f.vf f.lseq)) ∧
        ∀ pool, portTakes s f.port f.vf f.lseq = true → ctlSlot s f.port f.vf = some pool →
          let u := openXid (taken s f.port f.vf f.lseq) { f with kind := p.2 }
          exec p.1 s = .next (settleFabric { u with fabric := { u.fabric with
            held := u.fabric.held ++ [{ flit := { f with kind := p.2 }, pool := pool }] } })) ∧
    (∀ (f : Flit), f.dst = s.fabric.dev →
      consume s { f with kind := 4 } = some (takeResp s { f with kind := 4 }) ∧
      (f.kind = 5 → consume s f = some (sendCtl { s with fabric := { s.fabric with
        peerCopies := s.fabric.peerCopies.filter (·.1 != f.src) } } f.vf f.src 0x0D f.xid f.body 0)) ∧
      (f.kind = 7 → consume s f = some { s with fabric := { s.fabric with rels := s.fabric.rels.filter (·.2.2 != f.xid) } }) ∧
      (f.kind = 1 → consume s f = serveRead s f) ∧ (f.kind = 2 ∨ f.kind = 3 → consume s f = serveWrite s f)) ∧
    (∀ (f : Flit), f.dst ≠ s.fabric.dev → f.kind ≠ 6 → consume s f = some (forward s f)) ∧
    (∀ (f : DataFlit), portUp s f.port = true →
      (portTakes s f.port f.vf f.lseq = false → exec (.dataFlit f) s = .next (passOver s f.port f.lseq)) ∧
      (portTakes s f.port f.vf f.lseq = true → dataSlot s f.port f.vf = none →
        exec (.dataFlit f) s = .next (refuse s f.port f.vf f.lseq)) ∧
      ∀ pool, portTakes s f.port f.vf f.lseq = true → dataSlot s f.port f.vf = some pool →
        let u := taken s f.port f.vf f.lseq
        exec (.dataFlit f) s = .next (settleFabric { u with fabric := { u.fabric with
          heldData := u.fabric.heldData ++ [{ flit := f, pool := pool }] } })) ∧
    (∀ (f : Flit), portUp s f.port = true →
      let replay := (s.fabric.ports.getD f.port {}).replay
      (∀ before o after, replay = before ++ o :: after → o.lseq = f.aux → (∀ x ∈ before, x.lseq ≠ f.aux) →
        exec (.lack f) s = .next (flush (updPort s f.port fun p => { p with replay := after })) ∧
        exec (.lnak f) s = .next { s with fabric := { s.fabric with
          outbox := s.fabric.outbox ++ (o :: after).filter fun x => f.vf == 0xFF || x.vf == f.vf } }) ∧
      ((∀ x ∈ replay, x.lseq ≠ f.aux) → exec (.lack f) s = .next s ∧ exec (.lnak f) s = .next s)) ∧
    (∀ port lseq vf, portUp s port = false → exec (.invalidFlit port lseq vf) s = .next s) ∧
    (∀ port lseq vf, portUp s port = true →
      (vf ≠ 0xFF → exec (.invalidFlit port lseq vf) s = .next
        (if portTakes s port vf lseq = true then refuse s port vf lseq else passOver s port lseq)) ∧
      (∀ a, (portAt s port).await = some a → laterSeq lseq a ≠ a →
        exec (.invalidFlit port lseq 0xFF) s = .next (passOver s port lseq)) ∧
      ((∀ a, (portAt s port).await = some a → laterSeq lseq a = a) → exec (.invalidFlit port lseq 0xFF) s =
        .next (linkFlit (updPort (passOver s port lseq) port fun p => { p with await := some lseq }) port 0x0E 0xFF lseq))) ∧
    (∀ port, port < 15 →
      exec (.linkStateChange port true) s = .next (notePaths (flush (updPort s port fun p => { p with up := true }))) ∧
      exec (.linkStateChange port false) s =
        .next (let u := updPort s port fun p => { p with up := false, replay := [], refused := [], await := none, gaps := [] }
               notePaths (flush { u with fabric := { u.fabric with
                 sendq := (s.fabric.ports.getD port {}).replay.map (fun o => (o.dst, o)) ++ u.fabric.sendq } }))) ∧
    (∀ dev, hopTo s dev = none → ∀ r ∈ s.fabric.reqs, r.dev = dev → r.answer = none → ∃ t, exec (.peerPathTimeout dev) s = .next t ∧
      ((∀ x ∈ s.fabric.reqs, x.dev = dev → x.answer = none → x = r) → s.wharf.sends = [] → s.wharf.landings = [] →
        t.cycle = max s.cycle (max r.since (((s.fabric.lost.find? (·.1 == dev)).map (·.2)).getD 0) + Config.pathTimeout) ∧
        t.fabric.reqs = s.fabric.reqs.map fun x => if x = r then { x with answer := some (2, []) } else x)) ∧
    (∀ n l, s.wharf.landings[n]? = some l →
      exec (.wharfLandingComplete n) s = .next (landingDone (landOn s l.post.index) l.post.index)) ∧
    (∀ n x, s.wharf.sends[n]? = some x → exec (.wharfLandingComplete (s.wharf.landings.length + n)) s = .next (sendOver s x.index)) ∧
    (∀ t, s.pod.token = some t → exec .tokenPass s = .next (sendToken
      { s with cycle := max s.cycle (s.pod.lastToken + 50), pod := { s.pod with token := none } } t)) ∧
    (s.pod.token = none → exec .tokenPass s = .next s) ∧
    (s.fabric.dev = 0 → s.pod.token = none →
      let c := max s.cycle (s.pod.lastToken + 40000)
      exec .tokenTimeout s = .next (sendToken { s with cycle := c, pod := { s.pod with lastToken := c } }
        { vf := s.pod.pelq / 2 ^ 23 % 2 ^ 8, loads := List.replicate 16 0, reqs := List.replicate 16 false }))

/-- R354 to R361: the Towpath. A command that waits in the mailbox ends with its status and value and clears GO; under a level-2
alarm every command but SENSE, LOGREAD and REPROVISION ends with status HALTED; the alarms set their marks and are logged.
The model's own choices in it: log entries 11, 23, 24, 64, 65, 66 and 67. -/
def Obligations.TowpathCommandsAndAlarmsTakeEffect : Prop :=
  ∀ (s : State),
    let t := s.towpath
    let ends (u : State) (status value : Nat) : Host.Outcome State Fault Refusal := .next { u with
      towpath := { u.towpath with go := false, status := status, value := value % 2 ^ 24 } }
    let waits (op : Nat) : Prop := t.go = true ∧ t.restarting = false ∧ t.op = op
    let slot : Nat := if t.arg = 0 then 0 else t.arg - 15
    let target : Prop := t.arg = 0 ∨ 16 ≤ t.arg ∧ t.arg < 24
    let fw := t.fw.getD slot {}
    (waits 1 → t.arg < 8 ∨ 16 ≤ t.arg ∧ t.arg < 24 → (dieAt s (t.arg % 8)).st = .fenced → exec .sense s = ends s 0 0) ∧
    (waits 1 → t.arg < 8 ∧ (dieAt s (t.arg % 8)).st ≠ .fenced ∨ 32 ≤ t.arg ∧ t.arg < 35 →
      ∃ x, exec .sense s = ends { s with freeCtr := s.freeCtr + 1 } 0 x) ∧
    (waits 1 → 16 ≤ t.arg → t.arg < 24 → (dieAt s (t.arg - 16)).st ≠ .fenced →
      ∃ x, (t.droops.getD (t.arg - 16) 0 ≤ x ∨ x = 0xFFFFFF) ∧ x < 2 ^ 24 ∧
        exec .sense s = ends { s with
          freeCtr := s.freeCtr + 1, towpath := { t with droops := t.droops.set (t.arg - 16) x } } 0 x) ∧
    (waits 1 → 8 ≤ t.arg → t.arg < 16 ∨ 24 ≤ t.arg → t.arg < 32 ∨ 35 ≤ t.arg → exec .sense s = ends s 8 0) ∧
    (waits 2 → t.arg = 0 → ∀ ls, bufLocs s (32 * (t.log.take (min (t.len / 32) 4096)).length) = some ls →
      exec .logread s = ends (putLocs s 0 (ls.zip ((t.log.take (min (t.len / 32) 4096)).flatMap logBytes))) 0
        (t.log.take (min (t.len / 32) 4096)).length) ∧
    (waits 2 → t.arg = 0 → bufLocs s (32 * (t.log.take (min (t.len / 32) 4096)).length) = none → exec .logread s = .next s) ∧
    (waits 3 → t.level2 = false → target → bufRead s t.len = none → ∀ ok, exec (.stage ok) s = .next s) ∧
    (waits 3 → t.level2 = false → target → ∀ img, bufRead s t.len = some img →
      let refused (u : State) : State := updFw u slot fun f => { f with staged := false }
      (∀ ok, imageVersion t.arg img.length img = none → exec (.stage ok) s = ends (refused s) 5 0) ∧
      (∀ v, imageVersion t.arg img.length img = some v →
        exec (.stage false) s = ends (sigRefused (refused s) t.arg) 3 0 ∧
        (v < fw.minVer → exec (.stage true) s = ends (refused s) 4 0) ∧
        (fw.minVer ≤ v → exec (.stage true) s = ends (logEvent (updFw s slot fun f =>
          if f.active then { f with staged := true, verA := v, imgA := img }
          else { f with staged := true, verB := v, imgB := img }) 4 t.arg) 0 0))) ∧
    (∀ target img v, imageVersion target (img : List Byte).length img = some v → leAt img 0 4 = 0x53574B46 ∧ leAt img 4 1 = target ∧
      v = leAt img 8 4 ∧ img.length = 512 + leAt img 12 4 + 96 + lmsBytes ∧
      (img.drop 16).take 48 = sha384 ((img.drop 512).take (leAt img 12 4))) ∧
    (waits 4 → t.level2 = false →
      (t.arg = 0 → fw.staged = true → exec .activate s = .next { s with towpath := { t with restarting := true } }) ∧
      (16 ≤ t.arg → t.arg < 24 → (dieAt s (t.arg - 16)).st ≠ .drained → exec .activate s = ends s 6 0) ∧
      (16 ≤ t.arg → t.arg < 24 → (dieAt s (t.arg - 16)).st = .drained → fw.staged = true →
        exec .activate s = ends (logEvent (updFw s slot fun f => { f with
          active := !f.active, staged := false, minVer := max f.minVer (if f.active then f.verA else f.verB) }) 5 t.arg) 0 0)) ∧
    (waits 5 → t.level2 = false → target → exec .slots s = ends s 0 ((if fw.active then 2 ^ 23 else 0) +
      (if fw.staged then 2 ^ 22 else 0) + (if fw.active then fw.verB else fw.verA) % 2 ^ 16)) ∧
    (waits 6 → t.arg = 0 → t.level2 = false → ∀ ok, exec (.reprovision ok) s = ends s 2 0) ∧
    (waits 6 → t.arg = 0 → t.level2 = true → bufRead s t.len = none → ∀ ok, exec (.reprovision ok) s = .next s) ∧
    (waits 6 → t.arg = 0 → t.level2 = true → ∀ img v, bufRead s t.len = some img →
      imageVersion 0xFF img.length img = some v → ∃ u, exec (.reprovision true) s = .next u ∧
      u.towpath.level2 = false ∧ u.towpath.identityKey = true ∧ u.towpath.go = false ∧ u.towpath.status = 0 ∧
      u.crews = [] ∧ u.mem = s.mem ∧ u.nextKey = s.nextKey + 1 ∧
      (0 < s.vfs.length → (vfAt u 0).key = some s.nextKey) ∧
      ∀ d < 8, (dieAt u d).st = if Config.authentic s.freeCtr d then .active else .fenced) ∧
    (t.level2 = true → (waits 3 → exec (.stage true) s = ends s 7 0) ∧ (waits 4 → exec .activate s = ends s 7 0) ∧
      (waits 5 → exec .slots s = ends s 7 0)) ∧
    (t.restarting = true →
      let u : State := { s with towpath := { t with restarting := false } }
      exec (.towpathRestartComplete false) s = ends (logEvent u 6 0) 0 0 ∧
      exec (.towpathRestartComplete true) s = ends (logEvent (updFw u 0 fun f =>
        { f with active := !f.active, loaded := !f.active, staged := false,
                 minVer := max f.minVer (if f.active then f.verA else f.verB) }) 5 0) 0 0) ∧
    (∀ die, exec (.alarmLevel1 die) s = .next (logEvent { s with towpath := { t with l1 := true } } 1 die)) ∧
    (t.restarting = false → exec (.alarmL1Clear false) s = .next { s with towpath := { t with l1 := false } } ∧
      exec (.alarmL1Clear true) s = .next s) ∧
    ∃ u, exec .alarmLevel2 s = .next u ∧ Stopped u ∧ Idle u ∧ u.frags = [] ∧ u.mem = s.mem ∧ u.towpath.identityKey = false ∧
      (∀ v ∈ u.vfs, v.key = none ∧ v.posts = []) ∧ (∀ p ∈ u.fabric.ports, p.up = false) ∧
      u.towpath.log.head?.map (·.2) = some (2, 0)

/-! ### The machine -/

/-- R10 to R15: where the move of a step is the issue of a core whose chosen warp stands at a bundle of one word, and that word
decodes to an instruction that passes the checks of the bundle, the step is `exec` of that instruction in the issue context of
the warp (its results that are due have arrived; what it asks to be performed first has been), followed by the end of the
bundle. Where the move is an event of the table, the step is `exec` of the event.
The model's own choices in it: log entries 1 and 2. -/
def Obligations.AStepRunsTheDecodedInstruction : Prop :=
  ∀ (s : State),
    let rest : State := { s with moves := s.moves.drop 1 }
    (∀ core a pc r w i, nextMove s = .issue core → s.halted = false → chooseWarp rest core = some r → r.pick = .bundle a pc →
      let b := beginIssue rest r
      fetchWord b b.c b.w pc.toNat = some w → chained w = false → decodeWord w = .ok i → fld w 25 6 ≠ 0x3F →
      classesOf b (fetchWord b b.c b.w) [w] false = [] →
      step s = (match exec i (atWord b 0 i) with
        | .next t => .next (settleStep { closeIssue t with steps := (closeIssue t).steps + 1 })
        | o => o)) ∧
    ∀ e, nextMove s = .event e → encode e = none →
      step s = match exec e rest with
        | .next t => .next (settleStep { t with steps := t.steps + 1 })
        | o => o

/-- Every instruction and event answers a next state in every state: no meaning faults or refuses. A step stops only as the issue
of a module that a level-2 alarm has stopped (R361).
The model's own choices in it: log entries 11 and 71. -/
def Obligations.EveryInstructionAnswersANextState : Prop :=
  (∀ (i : Instr) (s : State), ∃ t, exec i s = .next t) ∧
  (∀ s : State, (∃ t, step s = .next t) ∨ (step s = .fault .halted ∧ s.halted = true ∧ ∃ core, nextMove s = .issue core)) ∧
  ∀ (s : State) (core : Nat), nextMove s = .issue core → s.halted = true → step s = .fault .halted

/-- R355, R361: once a level-2 alarm has stopped the module, between issues, it stays stopped, with no crew on it and nothing in
issue, whatever moves next; only REPROVISION ends that.
The model's own choices in it: log entry 11. -/
def Obligations.AStoppedModuleStaysStopped : Prop :=
  ∀ s t : State, Stopped s → Idle s → (∀ ok, nextMove s ≠ .event (.reprovision ok)) → step s = .next t → Stopped t ∧ Idle t

/-- R304, R305, R308, R310, R313, R317, R336, R354: what device reset leaves. Every VF is disabled and has no key; the PF has its own.
The model's own choices in it: log entries 2 and 67. -/
def Obligations.ResetLeavesTheStatedValues : Prop :=
  let s := State.reset
  s.crews = [] ∧ s.frags = [] ∧ s.launches = [] ∧ s.armed = [] ∧ s.lines = [] ∧ s.tslen = 4000000 ∧ s.halted = false ∧
  s.cores.length = 1024 ∧ s.quads.length = 256 ∧ s.bays.length = 64 ∧ s.dies.length = 8 ∧ s.vfs.length = 193 ∧
  (∀ g, dieOfGpa s g = stripeIdx g % 8) ∧ (∀ d < 8, (dieAt s d).st = .active) ∧
  (∀ v < 193, (vfAt s v).en = false ∧ (vfAt s v).intst = 0 ∧ (vfAt s v).inten = 0 ∧ (vfAt s v).lqn = 0) ∧
  (∀ v < 193, (vfAt s v).key = if v = 0 then some 0 else none) ∧
  (∀ b < 64, (bayAt s b).quanta = [8, 4, 2, 1]) ∧ s.pod.ship = 16 ∧ s.pod.high = 256 ∧ s.pod.low = 8 ∧
  s.towpath.go = false ∧ s.towpath.l1 = false ∧ s.towpath.level2 = false ∧ Idle s

/-- Every step of the machine keeps the canonical form of every memory (device memory, the scratchpads, the weight stores and the
host's): addresses strictly rising, and no entry 0; reset memory has it. A write of bytes is read back, and leaves every other
byte.
The model's own choices in it: log entry 3. -/
def Obligations.EveryStepKeepsMemoryCanonical : Prop :=
  MemoriesOk State.reset ∧
  (∀ (m : Memory) (k : Nat) (bs : List Byte), Memory.wf m = true → Memory.wf (memWrite m k bs) = true ∧
    ∀ n, memGet (memWrite m k bs) n = if k ≤ n ∧ n < k + bs.length then bs.getD (n - k) 0 else memGet m n) ∧
  ∀ s t : State, MemoriesOk s → step s = .next t → MemoriesOk t
end

