-- ==== Sys2Proof/Laws/Exec.lean ====
section
/-! SUPPORT. Where each instruction's meaning, register fields and major stand, one equation for each constructor: true
by unfolding, so that no proof opens the tables themselves. -/

namespace Sys2Proof.Machine

/-! ### The meaning of each instruction -/

@[simp] theorem exec_sadd (d a b : Nat) (s : State) : exec (.sadd d a b) s = execSadd d a b s := rfl
@[simp] theorem exec_ssub (d a b : Nat) (s : State) : exec (.ssub d a b) s = execSsub d a b s := rfl
@[simp] theorem exec_smul (d a b : Nat) (s : State) : exec (.smul d a b) s = execSmul d a b s := rfl
@[simp] theorem exec_smulh (d a b : Nat) (s : State) : exec (.smulh d a b) s = execSmulh d a b s := rfl
@[simp] theorem exec_smulhu (d a b : Nat) (s : State) : exec (.smulhu d a b) s = execSmulhu d a b s := rfl
@[simp] theorem exec_sand (d a b : Nat) (s : State) : exec (.sand d a b) s = execSand d a b s := rfl
@[simp] theorem exec_sor (d a b : Nat) (s : State) : exec (.sor d a b) s = execSor d a b s := rfl
@[simp] theorem exec_sxor (d a b : Nat) (s : State) : exec (.sxor d a b) s = execSxor d a b s := rfl
@[simp] theorem exec_sshl (d a b : Nat) (s : State) : exec (.sshl d a b) s = execSshl d a b s := rfl
@[simp] theorem exec_sshr (d a b : Nat) (s : State) : exec (.sshr d a b) s = execSshr d a b s := rfl
@[simp] theorem exec_ssra (d a b : Nat) (s : State) : exec (.ssra d a b) s = execSsra d a b s := rfl
@[simp] theorem exec_smin (d a b : Nat) (s : State) : exec (.smin d a b) s = execSmin d a b s := rfl
@[simp] theorem exec_smax (d a b : Nat) (s : State) : exec (.smax d a b) s = execSmax d a b s := rfl
@[simp] theorem exec_sminu (d a b : Nat) (s : State) : exec (.sminu d a b) s = execSminu d a b s := rfl
@[simp] theorem exec_smaxu (d a b : Nat) (s : State) : exec (.smaxu d a b) s = execSmaxu d a b s := rfl
@[simp] theorem exec_smov (d a b : Nat) (s : State) : exec (.smov d a b) s = execSmov d a b s := rfl
@[simp] theorem exec_sclz (d a b : Nat) (s : State) : exec (.sclz d a b) s = execSclz d a b s := rfl
@[simp] theorem exec_spopc (d a b : Nat) (s : State) : exec (.spopc d a b) s = execSpopc d a b s := rfl
@[simp] theorem exec_sbrev (d a b : Nat) (s : State) : exec (.sbrev d a b) s = execSbrev d a b s := rfl
@[simp] theorem exec_sext (d a b : Nat) (s : State) : exec (.sext d a b) s = execSext d a b s := rfl
@[simp] theorem exec_sins (d a b : Nat) (s : State) : exec (.sins d a b) s = execSins d a b s := rfl
@[simp] theorem exec_ssel (d a b : Nat) (s : State) : exec (.ssel d a b) s = execSsel d a b s := rfl
@[simp] theorem exec_scmp (cc : Cond) (d a b : Nat) (s : State) : exec (.scmp cc d a b) s = execScmp cc d a b s := rfl
@[simp] theorem exec_saddi (d a imm : Nat) (s : State) : exec (.saddi d a imm) s = execSaddi d a imm s := rfl
@[simp] theorem exec_sli (hi : Bool) (d imm : Nat) (s : State) : exec (.sli hi d imm) s = execSli hi d imm s := rfl
@[simp] theorem exec_slik (hi : Bool) (d imm : Nat) (s : State) : exec (.slik hi d imm) s = execSlik hi d imm s := rfl
@[simp] theorem exec_vadd (u : Bool) (d a b : Nat) (s : State) : exec (.vadd u d a b) s = execVadd u d a b s := rfl
@[simp] theorem exec_vsub (u : Bool) (d a b : Nat) (s : State) : exec (.vsub u d a b) s = execVsub u d a b s := rfl
@[simp] theorem exec_vmul (u : Bool) (d a b : Nat) (s : State) : exec (.vmul u d a b) s = execVmul u d a b s := rfl
@[simp] theorem exec_vmulh (u : Bool) (d a b : Nat) (s : State) : exec (.vmulh u d a b) s = execVmulh u d a b s := rfl
@[simp] theorem exec_vmulhu (u : Bool) (d a b : Nat) (s : State) : exec (.vmulhu u d a b) s = execVmulhu u d a b s := rfl
@[simp] theorem exec_vand (u : Bool) (d a b : Nat) (s : State) : exec (.vand u d a b) s = execVand u d a b s := rfl
@[simp] theorem exec_vor (u : Bool) (d a b : Nat) (s : State) : exec (.vor u d a b) s = execVor u d a b s := rfl
@[simp] theorem exec_vxor (u : Bool) (d a b : Nat) (s : State) : exec (.vxor u d a b) s = execVxor u d a b s := rfl
@[simp] theorem exec_vshl (u : Bool) (d a b : Nat) (s : State) : exec (.vshl u d a b) s = execVshl u d a b s := rfl
@[simp] theorem exec_vshr (u : Bool) (d a b : Nat) (s : State) : exec (.vshr u d a b) s = execVshr u d a b s := rfl
@[simp] theorem exec_vsra (u : Bool) (d a b : Nat) (s : State) : exec (.vsra u d a b) s = execVsra u d a b s := rfl
@[simp] theorem exec_vmin (u : Bool) (d a b : Nat) (s : State) : exec (.vmin u d a b) s = execVmin u d a b s := rfl
@[simp] theorem exec_vmax (u : Bool) (d a b : Nat) (s : State) : exec (.vmax u d a b) s = execVmax u d a b s := rfl
@[simp] theorem exec_vminu (u : Bool) (d a b : Nat) (s : State) : exec (.vminu u d a b) s = execVminu u d a b s := rfl
@[simp] theorem exec_vmaxu (u : Bool) (d a b : Nat) (s : State) : exec (.vmaxu u d a b) s = execVmaxu u d a b s := rfl
@[simp] theorem exec_vaddmin (u : Bool) (d a b : Nat) (s : State) : exec (.vaddmin u d a b) s = execVaddmin u d a b s := rfl
@[simp] theorem exec_vmad (u : Bool) (d a b : Nat) (s : State) : exec (.vmad u d a b) s = execVmad u d a b s := rfl
@[simp] theorem exec_vaddsat (u : Bool) (d a b : Nat) (s : State) : exec (.vaddsat u d a b) s = execVaddsat u d a b s := rfl
@[simp] theorem exec_vsubsat (u : Bool) (d a b : Nat) (s : State) : exec (.vsubsat u d a b) s = execVsubsat u d a b s := rfl
@[simp] theorem exec_vabsdiff (u : Bool) (d a b : Nat) (s : State) : exec (.vabsdiff u d a b) s = execVabsdiff u d a b s := rfl
@[simp] theorem exec_vext (u : Bool) (d a b : Nat) (s : State) : exec (.vext u d a b) s = execVext u d a b s := rfl
@[simp] theorem exec_vins (u : Bool) (d a b : Nat) (s : State) : exec (.vins u d a b) s = execVins u d a b s := rfl
@[simp] theorem exec_vmorton (u : Bool) (d a b : Nat) (s : State) : exec (.vmorton u d a b) s = execVmorton u d a b s := rfl
@[simp] theorem exec_vcellh (u : Bool) (d a b : Nat) (s : State) : exec (.vcellh u d a b) s = execVcellh u d a b s := rfl
@[simp] theorem exec_vnot (d a : Nat) (s : State) : exec (.vnot d a) s = execVnot d a s := rfl
@[simp] theorem exec_vneg (d a : Nat) (s : State) : exec (.vneg d a) s = execVneg d a s := rfl
@[simp] theorem exec_vabs (d a : Nat) (s : State) : exec (.vabs d a) s = execVabs d a s := rfl
@[simp] theorem exec_vclz (d a : Nat) (s : State) : exec (.vclz d a) s = execVclz d a s := rfl
@[simp] theorem exec_vpopc (d a : Nat) (s : State) : exec (.vpopc d a) s = execVpopc d a s := rfl
@[simp] theorem exec_vbrev (d a : Nat) (s : State) : exec (.vbrev d a) s = execVbrev d a s := rfl
@[simp] theorem exec_vmov (d a : Nat) (s : State) : exec (.vmov d a) s = execVmov d a s := rfl
@[simp] theorem exec_vbcastS (d a : Nat) (s : State) : exec (.vbcastS d a) s = execVbcastS d a s := rfl
@[simp] theorem exec_vcmp (cc : Cond) (d a b : Nat) (s : State) : exec (.vcmp cc d a b) s = execVcmp cc d a b s := rfl
@[simp] theorem exec_vaddi (d a imm : Nat) (s : State) : exec (.vaddi d a imm) s = execVaddi d a imm s := rfl
@[simp] theorem exec_vli (hi : Bool) (d imm : Nat) (s : State) : exec (.vli hi d imm) s = execVli hi d imm s := rfl
@[simp] theorem exec_vsel (u : Bool) (n d a b : Nat) (s : State) : exec (.vsel u n d a b) s = execVsel u n d a b s := rfl
@[simp] theorem exec_pand (d a b : Nat) (s : State) : exec (.pand d a b) s = execPand d a b s := rfl
@[simp] theorem exec_por (d a b : Nat) (s : State) : exec (.por d a b) s = execPor d a b s := rfl
@[simp] theorem exec_pxor (d a b : Nat) (s : State) : exec (.pxor d a b) s = execPxor d a b s := rfl
@[simp] theorem exec_pandn (d a b : Nat) (s : State) : exec (.pandn d a b) s = execPandn d a b s := rfl
@[simp] theorem exec_pnot (d a : Nat) (s : State) : exec (.pnot d a) s = execPnot d a s := rfl
@[simp] theorem exec_pmov (d a : Nat) (s : State) : exec (.pmov d a) s = execPmov d a s := rfl
@[simp] theorem exec_vfadd (u : Bool) (d a b : Nat) (s : State) : exec (.vfadd u d a b) s = execVfadd u d a b s := rfl
@[simp] theorem exec_vfsub (u : Bool) (d a b : Nat) (s : State) : exec (.vfsub u d a b) s = execVfsub u d a b s := rfl
@[simp] theorem exec_vfmul (u : Bool) (d a b : Nat) (s : State) : exec (.vfmul u d a b) s = execVfmul u d a b s := rfl
@[simp] theorem exec_vffma (u : Bool) (d a b : Nat) (s : State) : exec (.vffma u d a b) s = execVffma u d a b s := rfl
@[simp] theorem exec_vfmin (u : Bool) (d a b : Nat) (s : State) : exec (.vfmin u d a b) s = execVfmin u d a b s := rfl
@[simp] theorem exec_vfmax (u : Bool) (d a b : Nat) (s : State) : exec (.vfmax u d a b) s = execVfmax u d a b s := rfl
@[simp] theorem exec_vfcpys (u : Bool) (d a b : Nat) (s : State) : exec (.vfcpys u d a b) s = execVfcpys u d a b s := rfl
@[simp] theorem exec_vfabsd (u : Bool) (d a b : Nat) (s : State) : exec (.vfabsd u d a b) s = execVfabsd u d a b s := rfl
@[simp] theorem exec_vdadd (d a b : Nat) (s : State) : exec (.vdadd d a b) s = execVdadd d a b s := rfl
@[simp] theorem exec_vdsub (d a b : Nat) (s : State) : exec (.vdsub d a b) s = execVdsub d a b s := rfl
@[simp] theorem exec_vdmul (d a b : Nat) (s : State) : exec (.vdmul d a b) s = execVdmul d a b s := rfl
@[simp] theorem exec_vdfma (d a b : Nat) (s : State) : exec (.vdfma d a b) s = execVdfma d a b s := rfl
@[simp] theorem exec_vdmin (d a b : Nat) (s : State) : exec (.vdmin d a b) s = execVdmin d a b s := rfl
@[simp] theorem exec_vdmax (d a b : Nat) (s : State) : exec (.vdmax d a b) s = execVdmax d a b s := rfl
@[simp] theorem exec_vhadd2 (f : Bool) (d a b : Nat) (s : State) : exec (.vhadd2 f d a b) s = execVhadd2 f d a b s := rfl
@[simp] theorem exec_vhsub2 (f : Bool) (d a b : Nat) (s : State) : exec (.vhsub2 f d a b) s = execVhsub2 f d a b s := rfl
@[simp] theorem exec_vhmul2 (f : Bool) (d a b : Nat) (s : State) : exec (.vhmul2 f d a b) s = execVhmul2 f d a b s := rfl
@[simp] theorem exec_vhfma2 (f : Bool) (d a b : Nat) (s : State) : exec (.vhfma2 f d a b) s = execVhfma2 f d a b s := rfl
@[simp] theorem exec_vfcmp (cc : FCond) (d a b : Nat) (s : State) : exec (.vfcmp cc d a b) s = execVfcmp cc d a b s := rfl
@[simp] theorem exec_vfcmpF64 (cc : FCond) (d a b : Nat) (s : State) : exec (.vfcmpF64 cc d a b) s = execVfcmpF64 cc d a b s := rfl
@[simp] theorem exec_vcvtF32F64 (d a : Nat) (sat : Bool) (rm : Nat) (s : State) : exec (.vcvtF32F64 d a sat rm) s = execVcvtF32F64 d a sat rm s := rfl
@[simp] theorem exec_vcvtF64F32 (d a : Nat) (s : State) : exec (.vcvtF64F32 d a) s = execVcvtF64F32 d a s := rfl
@[simp] theorem exec_vcvtF32I32 (d a : Nat) (sat : Bool) (rm : Nat) (s : State) : exec (.vcvtF32I32 d a sat rm) s = execVcvtF32I32 d a sat rm s := rfl
@[simp] theorem exec_vcvtF32O32 (d a : Nat) (sat : Bool) (rm : Nat) (s : State) : exec (.vcvtF32O32 d a sat rm) s = execVcvtF32O32 d a sat rm s := rfl
@[simp] theorem exec_vcvtI32F32 (d a rm : Nat) (s : State) : exec (.vcvtI32F32 d a rm) s = execVcvtI32F32 d a rm s := rfl
@[simp] theorem exec_vcvtO32F32 (d a rm : Nat) (s : State) : exec (.vcvtO32F32 d a rm) s = execVcvtO32F32 d a rm s := rfl
@[simp] theorem exec_vcvtF64I32 (d a : Nat) (s : State) : exec (.vcvtF64I32 d a) s = execVcvtF64I32 d a s := rfl
@[simp] theorem exec_vcvtI32F64 (d a rm : Nat) (s : State) : exec (.vcvtI32F64 d a rm) s = execVcvtI32F64 d a rm s := rfl
@[simp] theorem exec_vcvtF19F32 (d a : Nat) (sat : Bool) (rm : Nat) (s : State) : exec (.vcvtF19F32 d a sat rm) s = execVcvtF19F32 d a sat rm s := rfl
@[simp] theorem exec_vcvtBf16x2F32 (d a : Nat) (sat : Bool) (rm : Nat) (s : State) : exec (.vcvtBf16x2F32 d a sat rm) s = execVcvtBf16x2F32 d a sat rm s := rfl
@[simp] theorem exec_vcvtF16x2F32 (d a : Nat) (sat : Bool) (rm : Nat) (s : State) : exec (.vcvtF16x2F32 d a sat rm) s = execVcvtF16x2F32 d a sat rm s := rfl
@[simp] theorem exec_vcvtF32x2F16x2 (d a : Nat) (s : State) : exec (.vcvtF32x2F16x2 d a) s = execVcvtF32x2F16x2 d a s := rfl
@[simp] theorem exec_vcvtE4m3x4F32 (d a : Nat) (sat : Bool) (rm : Nat) (s : State) : exec (.vcvtE4m3x4F32 d a sat rm) s = execVcvtE4m3x4F32 d a sat rm s := rfl
@[simp] theorem exec_vcvtE5m2x4F32 (d a : Nat) (sat : Bool) (rm : Nat) (s : State) : exec (.vcvtE5m2x4F32 d a sat rm) s = execVcvtE5m2x4F32 d a sat rm s := rfl
@[simp] theorem exec_vcvtI16x2F32 (d a rm : Nat) (s : State) : exec (.vcvtI16x2F32 d a rm) s = execVcvtI16x2F32 d a rm s := rfl
@[simp] theorem exec_vcvtO8x4F32 (d a rm : Nat) (s : State) : exec (.vcvtO8x4F32 d a rm) s = execVcvtO8x4F32 d a rm s := rfl
@[simp] theorem exec_vfrcp (la d a : Nat) (s : State) : exec (.vfrcp la d a) s = execVfrcp la d a s := rfl
@[simp] theorem exec_vfrsq (la d a : Nat) (s : State) : exec (.vfrsq la d a) s = execVfrsq la d a s := rfl
@[simp] theorem exec_vfsqrt (la d a : Nat) (s : State) : exec (.vfsqrt la d a) s = execVfsqrt la d a s := rfl
@[simp] theorem exec_vfexp2 (la d a : Nat) (s : State) : exec (.vfexp2 la d a) s = execVfexp2 la d a s := rfl
@[simp] theorem exec_vflog2 (la d a : Nat) (s : State) : exec (.vflog2 la d a) s = execVflog2 la d a s := rfl
@[simp] theorem exec_vfsin (la d a : Nat) (s : State) : exec (.vfsin la d a) s = execVfsin la d a s := rfl
@[simp] theorem exec_vfcos (la d a : Nat) (s : State) : exec (.vfcos la d a) s = execVfcos la d a s := rfl
@[simp] theorem exec_vftanh (la d a : Nat) (s : State) : exec (.vftanh la d a) s = execVftanh la d a s := rfl
@[simp] theorem exec_hrnd (la d ua ub : Nat) (s : State) : exec (.hrnd la d ua ub) s = execHrnd la d ua ub s := rfl
@[simp] theorem exec_vshflUp (la d ua m : Nat) (s : State) : exec (.vshflUp la d ua m) s = execVshflUp la d ua m s := rfl
@[simp] theorem exec_vshflDown (la d ua m : Nat) (s : State) : exec (.vshflDown la d ua m) s = execVshflDown la d ua m s := rfl
@[simp] theorem exec_vshflXor (la d ua m : Nat) (s : State) : exec (.vshflXor la d ua m) s = execVshflXor la d ua m s := rfl
@[simp] theorem exec_vshflIdx (la d m : Nat) (s : State) : exec (.vshflIdx la d m) s = execVshflIdx la d m s := rfl
@[simp] theorem exec_vbcast (la d ua m : Nat) (s : State) : exec (.vbcast la d ua m) s = execVbcast la d ua m s := rfl
@[simp] theorem exec_vvoteAny (la d ps m : Nat) (s : State) : exec (.vvoteAny la d ps m) s = execVvoteAny la d ps m s := rfl
@[simp] theorem exec_vvoteAll (la d ps m : Nat) (s : State) : exec (.vvoteAll la d ps m) s = execVvoteAll la d ps m s := rfl
@[simp] theorem exec_vballot (la d ps m : Nat) (s : State) : exec (.vballot la d ps m) s = execVballot la d ps m s := rfl
@[simp] theorem exec_vredStep (la d ua : Nat) (op : StepOp) (m : Nat) (s : State) : exec (.vredStep la d ua op m) s = execVredStep la d ua op m s := rfl
@[simp] theorem exec_vscanStep (la d ua : Nat) (op : StepOp) (m : Nat) (s : State) : exec (.vscanStep la d ua op m) s = execVscanStep la d ua op m s := rfl
@[simp] theorem exec_br (p off : Nat) (s : State) : exec (.br p off) s = execBr p off s := rfl
@[simp] theorem exec_call (p off : Nat) (s : State) : exec (.call p off) s = execCall p off s := rfl
@[simp] theorem exec_bvSplit (p off : Nat) (s : State) : exec (.bvSplit p off) s = execBvSplit p off s := rfl
@[simp] theorem exec_bvAny (p off : Nat) (s : State) : exec (.bvAny p off) s = execBvAny p off s := rfl
@[simp] theorem exec_bvAll (p off : Nat) (s : State) : exec (.bvAll p off) s = execBvAll p off s := rfl
@[simp] theorem exec_bvUni (p off : Nat) (s : State) : exec (.bvUni p off) s = execBvUni p off s := rfl
@[simp] theorem exec_ret (a : Nat) (s : State) : exec (.ret a) s = execRet a s := rfl
@[simp] theorem exec_brx (a : Nat) (s : State) : exec (.brx a) s = execBrx a s := rfl
@[simp] theorem exec_exit (s : State) : exec .exit s = execExit s := rfl
@[simp] theorem exec_nop (s : State) : exec .nop s = execNop s := rfl
@[simp] theorem exec_yieldL (s : State) : exec .yieldL s = execYieldL s := rfl
@[simp] theorem exec_bar (n : Nat) (s : State) : exec (.bar n) s = execBar n s := rfl
@[simp] theorem exec_barq (n : Nat) (s : State) : exec (.barq n) s = execBarq n s := rfl
@[simp] theorem exec_safe (n : Nat) (s : State) : exec (.safe n) s = execSafe n s := rfl
@[simp] theorem exec_ld (la d a : Nat) (v sx poll : Bool) (sz : Size) (s : State) : exec (.ld la d a v sx poll sz) s = execLd la d a v sx poll sz s := rfl
@[simp] theorem exec_st (la d a : Nat) (v : Bool) (sz : Size) (s : State) : exec (.st la d a v sz) s = execSt la d a v sz s := rfl
@[simp] theorem exec_ldt (la d a : Nat) (v : Bool) (sz : Size) (hs : Nat) (s : State) : exec (.ldt la d a v sz hs) s = execLdt la d a v sz hs s := rfl
@[simp] theorem exec_stt (la d a : Nat) (v : Bool) (sz : Size) (hs : Nat) (s : State) : exec (.stt la d a v sz hs) s = execStt la d a v sz hs s := rfl
@[simp] theorem exec_lds (la d a : Nat) (v sx : Bool) (sz : Size) (s : State) : exec (.lds la d a v sx sz) s = execLds la d a v sx sz s := rfl
@[simp] theorem exec_sts (la d a : Nat) (v : Bool) (sz : Size) (s : State) : exec (.sts la d a v sz) s = execSts la d a v sz s := rfl
@[simp] theorem exec_ldw (la d a : Nat) (v sx : Bool) (sz : Size) (s : State) : exec (.ldw la d a v sx sz) s = execLdw la d a v sx sz s := rfl
@[simp] theorem exec_atom (la d a : Nat) (v dbl : Bool) (op : AtomOp) (s : State) : exec (.atom la d a v dbl op) s = execAtom la d a v dbl op s := rfl
@[simp] theorem exec_atomf (la d a : Nat) (v : Bool) (op : AtomFOp) (s : State) : exec (.atomf la d a v op) s = execAtomf la d a v op s := rfl
@[simp] theorem exec_cas (la d a : Nat) (v dbl : Bool) (s : State) : exec (.cas la d a v dbl) s = execCas la d a v dbl s := rfl
@[simp] theorem exec_satom (la d a : Nat) (v dbl : Bool) (op : AtomOp) (s : State) : exec (.satom la d a v dbl op) s = execSatom la d a v dbl op s := rfl
@[simp] theorem exec_satomCas (la d a : Nat) (v dbl : Bool) (s : State) : exec (.satomCas la d a v dbl) s = execSatomCas la d a v dbl s := rfl
@[simp] theorem exec_prefetch (a : Nat) (v : Bool) (s : State) : exec (.prefetch a v) s = execPrefetch a v s := rfl
@[simp] theorem exec_discard (a : Nat) (v : Bool) (s : State) : exec (.discard a v) s = execDiscard a v s := rfl
@[simp] theorem exec_writeback (a : Nat) (v : Bool) (s : State) : exec (.writeback a v) s = execWriteback a v s := rfl
@[simp] theorem exec_tdesc (la d a : Nat) (s : State) : exec (.tdesc la d a) s = execTdesc la d a s := rfl
@[simp] theorem exec_binit (la d a : Nat) (sp : Bool) (s : State) : exec (.binit la d a sp) s = execBinit la d a sp s := rfl
@[simp] theorem exec_barrive (la d a : Nat) (sp : Bool) (s : State) : exec (.barrive la d a sp) s = execBarrive la d a sp s := rfl
@[simp] theorem exec_bwait (la d a : Nat) (sp : Bool) (s : State) : exec (.bwait la d a sp) s = execBwait la d a sp s := rfl
@[simp] theorem exec_bquery (la d a : Nat) (sp : Bool) (s : State) : exec (.bquery la d a sp) s = execBquery la d a sp s := rfl
@[simp] theorem exec_xcopy (la d ua ub : Nat) (s : State) : exec (.xcopy la d ua ub) s = execXcopy la d ua ub s := rfl
@[simp] theorem exec_cpoll (la d ua : Nat) (s : State) : exec (.cpoll la d ua) s = execCpoll la d ua s := rfl
@[simp] theorem exec_csleep (la d ua : Nat) (s : State) : exec (.csleep la d ua) s = execCsleep la d ua s := rfl
@[simp] theorem exec_cpop (la d ua : Nat) (s : State) : exec (.cpop la d ua) s = execCpop la d ua s := rfl
@[simp] theorem exec_xwp (la d ua : Nat) (s : State) : exec (.xwp la d ua) s = execXwp la d ua s := rfl
@[simp] theorem exec_qfence (ua : Nat) (s : State) : exec (.qfence ua) s = execQfence ua s := rfl
@[simp] theorem exec_drain (scope : Nat) (s : State) : exec (.drain scope) s = execDrain scope s := rfl
@[simp] theorem exec_mmaAcc (la d ua k : Nat) (s : State) : exec (.mmaAcc la d ua k) s = execMmaAcc la d ua k s := rfl
@[simp] theorem exec_mmaZero (la d ua k : Nat) (s : State) : exec (.mmaZero la d ua k) s = execMmaZero la d ua k s := rfl
@[simp] theorem exec_mout (la d ua k : Nat) (s : State) : exec (.mout la d ua k) s = execMout la d ua k s := rfl
@[simp] theorem exec_mclear (ua k : Nat) (s : State) : exec (.mclear ua k) s = execMclear ua k s := rfl
@[simp] theorem exec_mwait (ua : Nat) (s : State) : exec (.mwait ua) s = execMwait ua s := rfl
@[simp] theorem exec_mtest (la d ua : Nat) (s : State) : exec (.mtest la d ua) s = execMtest la d ua s := rfl
@[simp] theorem exec_mcancel (la d ua : Nat) (s : State) : exec (.mcancel la d ua) s = execMcancel la d ua s := rfl
@[simp] theorem exec_qpush (la d ua : Nat) (s : State) : exec (.qpush la d ua) s = execQpush la d ua s := rfl
@[simp] theorem exec_qpop (ua : Nat) (s : State) : exec (.qpop ua) s = execQpop ua s := rfl
@[simp] theorem exec_qpopLanes (d ua : Nat) (s : State) : exec (.qpopLanes d ua) s = execQpopLanes d ua s := rfl
@[simp] theorem exec_qstat (la d ua : Nat) (s : State) : exec (.qstat la d ua) s = execQstat la d ua s := rfl
@[simp] theorem exec_qclose (ua : Nat) (s : State) : exec (.qclose ua) s = execQclose ua s := rfl
@[simp] theorem exec_launch (la d ua : Nat) (s : State) : exec (.launch la d ua) s = execLaunch la d ua s := rfl
@[simp] theorem exec_lwait (ua : Nat) (s : State) : exec (.lwait ua) s = execLwait ua s := rfl
@[simp] theorem exec_rgive (n : Nat) (s : State) : exec (.rgive n) s = execRgive n s := rfl
@[simp] theorem exec_rclaim (n : Nat) (s : State) : exec (.rclaim n) s = execRclaim n s := rfl
@[simp] theorem exec_wsend (la d ua : Nat) (s : State) : exec (.wsend la d ua) s = execWsend la d ua s := rfl
@[simp] theorem exec_wpost (la d ua : Nat) (s : State) : exec (.wpost la d ua) s = execWpost la d ua s := rfl
@[simp] theorem exec_wprobe (la d ua : Nat) (s : State) : exec (.wprobe la d ua) s = execWprobe la d ua s := rfl
@[simp] theorem exec_wcancel (la d ua : Nat) (s : State) : exec (.wcancel la d ua) s = execWcancel la d ua s := rfl
@[simp] theorem exec_wtest (la d ua : Nat) (s : State) : exec (.wtest la d ua) s = execWtest la d ua s := rfl
@[simp] theorem exec_fencePodRel (s : State) : exec .fencePodRel s = execFencePodRel s := rfl
@[simp] theorem exec_fencePodAcq (s : State) : exec .fencePodAcq s = execFencePodAcq s := rfl
@[simp] theorem exec_fencePod (s : State) : exec .fencePod s = execFencePod s := rfl
@[simp] theorem exec_trap (n : Nat) (s : State) : exec (.trap n) s = execTrap n s := rfl
@[simp] theorem exec_sret (s : State) : exec .sret s = execSret s := rfl
@[simp] theorem exec_srd (la d idx : Nat) (v : Bool) (s : State) : exec (.srd la d idx v) s = execSrd la d idx v s := rfl
@[simp] theorem exec_swr (d idx : Nat) (v : Bool) (s : State) : exec (.swr d idx v) s = execSwr d idx v s := rfl
@[simp] theorem exec_sleep (ua : Nat) (s : State) : exec (.sleep ua) s = execSleep ua s := rfl
@[simp] theorem exec_wake (ua : Nat) (s : State) : exec (.wake ua) s = execWake ua s := rfl
@[simp] theorem exec_fstat (la d ua : Nat) (s : State) : exec (.fstat la d ua) s = execFstat la d ua s := rfl
@[simp] theorem exec_fresume (ua : Nat) (s : State) : exec (.fresume ua) s = execFresume ua s := rfl
@[simp] theorem exec_fkill (ua : Nat) (s : State) : exec (.fkill ua) s = execFkill ua s := rfl
@[simp] theorem exec_tlbinv (ua : Nat) (s : State) : exec (.tlbinv ua) s = execTlbinv ua s := rfl
@[simp] theorem exec_lres (ua : Nat) (s : State) : exec (.lres ua) s = execLres ua s := rfl
@[simp] theorem exec_wsopen (ua : Nat) (s : State) : exec (.wsopen ua) s = execWsopen ua s := rfl
@[simp] theorem exec_wsclose (ua : Nat) (s : State) : exec (.wsclose ua) s = execWsclose ua s := rfl
@[simp] theorem exec_rep (count mask sd sa sb : Nat) (s : State) : exec (.rep count mask sd sa sb) s = execRep count mask sd sa sb s := rfl
@[simp] theorem exec_repeatIssue (s : State) : exec .repeatIssue s = execRepeatIssue s := rfl
@[simp] theorem exec_illegalWord (k : KillClass) (s : State) : exec (.illegalWord k) s = execIllegalWord k s := rfl
@[simp] theorem exec_fetchFault (s : State) : exec .fetchFault s = execFetchFault s := rfl
@[simp] theorem exec_resultArrives (c x id : Nat) (s : State) : exec (.resultArrives c x id) s = execResultArrives c x id s := rfl
@[simp] theorem exec_storePerformed (c x : Nat) (s : State) : exec (.storePerformed c x) s = execStorePerformed c x s := rfl
@[simp] theorem exec_atomicPerformed (c x : Nat) (s : State) : exec (.atomicPerformed c x) s = execAtomicPerformed c x s := rfl
@[simp] theorem exec_leaseExpiry (core n : Nat) (s : State) : exec (.leaseExpiry core n) s = execLeaseExpiry core n s := rfl
@[simp] theorem exec_wsRefreshWindow (die : Nat) (s : State) : exec (.wsRefreshWindow die) s = execWsRefreshWindow die s := rfl
@[simp] theorem exec_issueAgePromotion (c x : Nat) (s : State) : exec (.issueAgePromotion c x) s = execIssueAgePromotion c x s := rfl
@[simp] theorem exec_sleepExpiry (c x : Nat) (s : State) : exec (.sleepExpiry c x) s = execSleepExpiry c x s := rfl
@[simp] theorem exec_lqTailWrite (fn q v : Nat) (s : State) : exec (.lqTailWrite fn q v) s = execLqTailWrite fn q v s := rfl
@[simp] theorem exec_launchAccept (vf q : Nat) (s : State) : exec (.launchAccept vf q) s = execLaunchAccept vf q s := rfl
@[simp] theorem exec_launchWalkStart (l : Nat) (s : State) : exec (.launchWalkStart l) s = execLaunchWalkStart l s := rfl
@[simp] theorem exec_tillerEvaluateReach (l die : Nat) (s : State) : exec (.tillerEvaluateReach l die) s = execTillerEvaluateReach l die s := rfl
@[simp] theorem exec_tillerPush (l die : Nat) (s : State) : exec (.tillerPush l die) s = execTillerPush l die s := rfl
@[simp] theorem exec_launchDone (l : Nat) (s : State) : exec (.launchDone l) s = execLaunchDone l s := rfl
@[simp] theorem exec_labortWrite (fn id : Nat) (s : State) : exec (.labortWrite fn id) s = execLabortWrite fn id s := rfl
@[simp] theorem exec_sluicePlaceCrew (bay : Nat) (s : State) : exec (.sluicePlaceCrew bay) s = execSluicePlaceCrew bay s := rfl
@[simp] theorem exec_saveBundleLimit (c x : Nat) (s : State) : exec (.saveBundleLimit c x) s = execSaveBundleLimit c x s := rfl
@[simp] theorem exec_crewSave (c : Nat) (s : State) : exec (.crewSave c) s = execCrewSave c s := rfl
@[simp] theorem exec_crewRestore (c core : Nat) (s : State) : exec (.crewRestore c core) s = execCrewRestore c core s := rfl
@[simp] theorem exec_timeSliceEnd (s : State) : exec .timeSliceEnd s = execTimeSliceEnd s := rfl
@[simp] theorem exec_bteChunk (bay : Nat) (s : State) : exec (.bteChunk bay) s = execBteChunk bay s := rfl
@[simp] theorem exec_bteCompletion (bay ch : Nat) (s : State) : exec (.bteCompletion bay ch) s = execBteCompletion bay ch s := rfl
@[simp] theorem exec_qmeGrant (quad : Nat) (s : State) : exec (.qmeGrant quad) s = execQmeGrant quad s := rfl
@[simp] theorem exec_qmeCompletion (quad e : Nat) (s : State) : exec (.qmeCompletion quad e) s = execQmeCompletion quad e s := rfl
@[simp] theorem exec_qmeEntryAging (quad e : Nat) (s : State) : exec (.qmeEntryAging quad e) s = execQmeEntryAging quad e s := rfl
@[simp] theorem exec_workqRequestServed (die n : Nat) (s : State) : exec (.workqRequestServed die n) s = execWorkqRequestServed die n s := rfl
@[simp] theorem exec_refillArrival (quad n : Nat) (s : State) : exec (.refillArrival quad n) s = execRefillArrival quad n s := rfl
@[simp] theorem exec_stealEntriesArrive (src : Nat) (es : List (List Byte)) (s : State) : exec (.stealEntriesArrive src es) s = execStealEntriesArrive src es s := rfl
@[simp] theorem exec_faultRecordWrite (vf : Nat) (s : State) : exec (.faultRecordWrite vf) s = execFaultRecordWrite vf s := rfl
@[simp] theorem exec_pageWalkComplete (die n : Nat) (s : State) : exec (.pageWalkComplete die n) s = execPageWalkComplete die n s := rfl
@[simp] theorem exec_hostWrite (fn gpa : Nat) (data : List Byte) (s : State) : exec (.hostWrite fn gpa data) s = execHostWrite fn gpa data s := rfl
@[simp] theorem exec_hostRead (fn gpa n : Nat) (s : State) : exec (.hostRead fn gpa n) s = execHostRead fn gpa n s := rfl
@[simp] theorem exec_s1rootWrite (fn v : Nat) (s : State) : exec (.s1rootWrite fn v) s = execS1rootWrite fn v s := rfl
@[simp] theorem exec_faultRingConfigWrite (fn off v : Nat) (s : State) : exec (.faultRingConfigWrite fn off v) s = execFaultRingConfigWrite fn off v s := rfl
@[simp] theorem exec_fresumeWrite (fn id : Nat) (s : State) : exec (.fresumeWrite fn id) s = execFresumeWrite fn id s := rfl
@[simp] theorem exec_fkillWrite (fn id : Nat) (s : State) : exec (.fkillWrite fn id) s = execFkillWrite fn id s := rfl
@[simp] theorem exec_svcstartWrite (fn v : Nat) (s : State) : exec (.svcstartWrite fn v) s = execSvcstartWrite fn v s := rfl
@[simp] theorem exec_vfEnableWrite (vf : Nat) (en : Bool) (s : State) : exec (.vfEnableWrite vf en) s = execVfEnableWrite vf en s := rfl
@[simp] theorem exec_vfQuadsChange (vf quads : Nat) (s : State) : exec (.vfQuadsChange vf quads) s = execVfQuadsChange vf quads s := rfl
@[simp] theorem exec_drainFinish (die : Nat) (s : State) : exec (.drainFinish die) s = execDrainFinish die s := rfl
@[simp] theorem exec_drainSave (die : Nat) (s : State) : exec (.drainSave die) s = execDrainSave die s := rfl
@[simp] theorem exec_dieDrainComplete (die : Nat) (s : State) : exec (.dieDrainComplete die) s = execDieDrainComplete die s := rfl
@[simp] theorem exec_reset (die : Nat) (s : State) : exec (.reset die) s = execReset die s := rfl
@[simp] theorem exec_dieResetComplete (die : Nat) (s : State) : exec (.dieResetComplete die) s = execDieResetComplete die s := rfl
@[simp] theorem exec_return_ (die : Nat) (s : State) : exec (.return_ die) s = execReturn_ die s := rfl
@[simp] theorem exec_dieAuthenticated (die : Nat) (ok : Bool) (s : State) : exec (.dieAuthenticated die ok) s = execDieAuthenticated die ok s := rfl
@[simp] theorem exec_deviceReset (genuine : List Bool) (s : State) : exec (.deviceReset genuine) s = execDeviceReset genuine s := rfl
@[simp] theorem exec_linkStateChange (port : Nat) (up : Bool) (s : State) : exec (.linkStateChange port up) s = execLinkStateChange port up s := rfl
@[simp] theorem exec_peerPathTimeout (dev : Nat) (s : State) : exec (.peerPathTimeout dev) s = execPeerPathTimeout dev s := rfl
@[simp] theorem exec_rdreq (f : Flit) (s : State) : exec (.rdreq f) s = execRdreq f s := rfl
@[simp] theorem exec_wrreq (f : Flit) (s : State) : exec (.wrreq f) s = execWrreq f s := rfl
@[simp] theorem exec_atomreq (f : Flit) (s : State) : exec (.atomreq f) s = execAtomreq f s := rfl
@[simp] theorem exec_resp (f : Flit) (s : State) : exec (.resp f) s = execResp f s := rfl
@[simp] theorem exec_inval (f : Flit) (s : State) : exec (.inval f) s = execInval f s := rfl
@[simp] theorem exec_invack (f : Flit) (s : State) : exec (.invack f) s = execInvack f s := rfl
@[simp] theorem exec_frel (f : Flit) (s : State) : exec (.frel f) s = execFrel f s := rfl
@[simp] theorem exec_fack (f : Flit) (s : State) : exec (.fack f) s = execFack f s := rfl
@[simp] theorem exec_whdr (f : Flit) (s : State) : exec (.whdr f) s = execWhdr f s := rfl
@[simp] theorem exec_wpull (f : Flit) (s : State) : exec (.wpull f) s = execWpull f s := rfl
@[simp] theorem exec_wdone (f : Flit) (s : State) : exec (.wdone f) s = execWdone f s := rfl
@[simp] theorem exec_wharfLandingComplete (n : Nat) (s : State) : exec (.wharfLandingComplete n) s = execWharfLandingComplete n s := rfl
@[simp] theorem exec_dataFlit (f : DataFlit) (s : State) : exec (.dataFlit f) s = execDataFlit f s := rfl
@[simp] theorem exec_lack (f : Flit) (s : State) : exec (.lack f) s = execLack f s := rfl
@[simp] theorem exec_lnak (f : Flit) (s : State) : exec (.lnak f) s = execLnak f s := rfl
@[simp] theorem exec_invalidFlit (port lseq vf : Nat) (s : State) : exec (.invalidFlit port lseq vf) s = execInvalidFlit port lseq vf s := rfl
@[simp] theorem exec_token (f : Flit) (s : State) : exec (.token f) s = execToken f s := rfl
@[simp] theorem exec_tokenPass (s : State) : exec .tokenPass s = execTokenPass s := rfl
@[simp] theorem exec_tokenTimeout (s : State) : exec .tokenTimeout s = execTokenTimeout s := rfl
@[simp] theorem exec_sense (s : State) : exec .sense s = execSense s := rfl
@[simp] theorem exec_logread (s : State) : exec .logread s = execLogread s := rfl
@[simp] theorem exec_stage (sigOk : Bool) (s : State) : exec (.stage sigOk) s = execStage sigOk s := rfl
@[simp] theorem exec_activate (s : State) : exec .activate s = execActivate s := rfl
@[simp] theorem exec_towpathRestartComplete (ok : Bool) (s : State) : exec (.towpathRestartComplete ok) s = execTowpathRestartComplete ok s := rfl
@[simp] theorem exec_slots (s : State) : exec .slots s = execSlots s := rfl
@[simp] theorem exec_reprovision (sigOk : Bool) (s : State) : exec (.reprovision sigOk) s = execReprovision sigOk s := rfl
@[simp] theorem exec_alarmLevel1 (die : Nat) (s : State) : exec (.alarmLevel1 die) s = execAlarmLevel1 die s := rfl
@[simp] theorem exec_alarmL1Clear (persisted : Bool) (s : State) : exec (.alarmL1Clear persisted) s = execAlarmL1Clear persisted s := rfl
@[simp] theorem exec_alarmLevel2 (s : State) : exec .alarmLevel2 s = execAlarmLevel2 s := rfl
@[simp] theorem exec_registerWrite (fn off v : Nat) (s : State) : exec (.registerWrite fn off v) s = execRegisterWrite fn off v s := rfl
@[simp] theorem exec_migrationServiceMove (vf addr hdie hbay : Nat) (s : State) : exec (.migrationServiceMove vf addr hdie hbay) s = execMigrationServiceMove vf addr hdie hbay s := rfl
@[simp] theorem exec_dieFailsInService (die : Nat) (s : State) : exec (.dieFailsInService die) s = execDieFailsInService die s := rfl

/-! ### The register fields of each word -/

@[simp] theorem fields_sadd (d a b : Nat) : fields (.sadd d a b) = [uw d, us a, us b] := rfl
@[simp] theorem fields_ssub (d a b : Nat) : fields (.ssub d a b) = [uw d, us a, us b] := rfl
@[simp] theorem fields_smul (d a b : Nat) : fields (.smul d a b) = [uw d, us a, us b] := rfl
@[simp] theorem fields_smulh (d a b : Nat) : fields (.smulh d a b) = [uw d, us a, us b] := rfl
@[simp] theorem fields_smulhu (d a b : Nat) : fields (.smulhu d a b) = [uw d, us a, us b] := rfl
@[simp] theorem fields_sand (d a b : Nat) : fields (.sand d a b) = [uw d, us a, us b] := rfl
@[simp] theorem fields_sor (d a b : Nat) : fields (.sor d a b) = [uw d, us a, us b] := rfl
@[simp] theorem fields_sxor (d a b : Nat) : fields (.sxor d a b) = [uw d, us a, us b] := rfl
@[simp] theorem fields_sshl (d a b : Nat) : fields (.sshl d a b) = [uw d, us a, us b] := rfl
@[simp] theorem fields_sshr (d a b : Nat) : fields (.sshr d a b) = [uw d, us a, us b] := rfl
@[simp] theorem fields_ssra (d a b : Nat) : fields (.ssra d a b) = [uw d, us a, us b] := rfl
@[simp] theorem fields_smin (d a b : Nat) : fields (.smin d a b) = [uw d, us a, us b] := rfl
@[simp] theorem fields_smax (d a b : Nat) : fields (.smax d a b) = [uw d, us a, us b] := rfl
@[simp] theorem fields_sminu (d a b : Nat) : fields (.sminu d a b) = [uw d, us a, us b] := rfl
@[simp] theorem fields_smaxu (d a b : Nat) : fields (.smaxu d a b) = [uw d, us a, us b] := rfl
@[simp] theorem fields_smov (d a b : Nat) : fields (.smov d a b) = [uw d, us a, ⟨.s, b, 1, false, false, false⟩] := rfl
@[simp] theorem fields_sclz (d a b : Nat) : fields (.sclz d a b) = [uw d, us a, ⟨.s, b, 1, false, false, false⟩] := rfl
@[simp] theorem fields_spopc (d a b : Nat) : fields (.spopc d a b) = [uw d, us a, ⟨.s, b, 1, false, false, false⟩] := rfl
@[simp] theorem fields_sbrev (d a b : Nat) : fields (.sbrev d a b) = [uw d, us a, ⟨.s, b, 1, false, false, false⟩] := rfl
@[simp] theorem fields_sext (d a b : Nat) : fields (.sext d a b) = [uw d, us a, us b] := rfl
@[simp] theorem fields_sins (d a b : Nat) : fields (.sins d a b) = [⟨.s, d, 1, true, true, false⟩, us a, us b] := rfl
@[simp] theorem fields_ssel (d a b : Nat) : fields (.ssel d a b) = [⟨.s, d, 1, true, true, false⟩, us a, us b] := rfl
@[simp] theorem fields_scmp (x0 : Cond) (d a b : Nat) : fields (.scmp x0 d a b) = [pw d, us a, us b] := rfl
@[simp] theorem fields_saddi (d a x2 : Nat) : fields (.saddi d a x2) = [uw d, us a] := rfl
@[simp] theorem fields_sli (x0 : Bool) (d x2 : Nat) : fields (.sli x0 d x2) = [uw d] := rfl
@[simp] theorem fields_slik (x0 : Bool) (d x2 : Nat) : fields (.slik x0 d x2) = [⟨.s, d, 1, true, true, false⟩] := rfl
@[simp] theorem fields_vadd (u : Bool) (d a b : Nat) : fields (.vadd u d a b) = [vw d, vs a, bop u b] := rfl
@[simp] theorem fields_vsub (u : Bool) (d a b : Nat) : fields (.vsub u d a b) = [vw d, vs a, bop u b] := rfl
@[simp] theorem fields_vmul (u : Bool) (d a b : Nat) : fields (.vmul u d a b) = [vw d, vs a, bop u b] := rfl
@[simp] theorem fields_vmulh (u : Bool) (d a b : Nat) : fields (.vmulh u d a b) = [vw d, vs a, bop u b] := rfl
@[simp] theorem fields_vmulhu (u : Bool) (d a b : Nat) : fields (.vmulhu u d a b) = [vw d, vs a, bop u b] := rfl
@[simp] theorem fields_vand (u : Bool) (d a b : Nat) : fields (.vand u d a b) = [vw d, vs a, bop u b] := rfl
@[simp] theorem fields_vor (u : Bool) (d a b : Nat) : fields (.vor u d a b) = [vw d, vs a, bop u b] := rfl
@[simp] theorem fields_vxor (u : Bool) (d a b : Nat) : fields (.vxor u d a b) = [vw d, vs a, bop u b] := rfl
@[simp] theorem fields_vshl (u : Bool) (d a b : Nat) : fields (.vshl u d a b) = [vw d, vs a, bop u b] := rfl
@[simp] theorem fields_vshr (u : Bool) (d a b : Nat) : fields (.vshr u d a b) = [vw d, vs a, bop u b] := rfl
@[simp] theorem fields_vsra (u : Bool) (d a b : Nat) : fields (.vsra u d a b) = [vw d, vs a, bop u b] := rfl
@[simp] theorem fields_vmin (u : Bool) (d a b : Nat) : fields (.vmin u d a b) = [vw d, vs a, bop u b] := rfl
@[simp] theorem fields_vmax (u : Bool) (d a b : Nat) : fields (.vmax u d a b) = [vw d, vs a, bop u b] := rfl
@[simp] theorem fields_vminu (u : Bool) (d a b : Nat) : fields (.vminu u d a b) = [vw d, vs a, bop u b] := rfl
@[simp] theorem fields_vmaxu (u : Bool) (d a b : Nat) : fields (.vmaxu u d a b) = [vw d, vs a, bop u b] := rfl
@[simp] theorem fields_vaddmin (u : Bool) (d a b : Nat) : fields (.vaddmin u d a b) = [vw d, vs a, bop u b] := rfl
@[simp] theorem fields_vmad (u : Bool) (d a b : Nat) : fields (.vmad u d a b) = [vx d, vs a, bop u b] := rfl
@[simp] theorem fields_vaddsat (u : Bool) (d a b : Nat) : fields (.vaddsat u d a b) = [vw d, vs a, bop u b] := rfl
@[simp] theorem fields_vsubsat (u : Bool) (d a b : Nat) : fields (.vsubsat u d a b) = [vw d, vs a, bop u b] := rfl
@[simp] theorem fields_vabsdiff (u : Bool) (d a b : Nat) : fields (.vabsdiff u d a b) = [vw d, vs a, bop u b] := rfl
@[simp] theorem fields_vext (u : Bool) (d a b : Nat) : fields (.vext u d a b) = [vw d, vs a, bop u b] := rfl
@[simp] theorem fields_vins (u : Bool) (d a b : Nat) : fields (.vins u d a b) = [vx d, vs a, bop u b] := rfl
@[simp] theorem fields_vmorton (u : Bool) (d a b : Nat) : fields (.vmorton u d a b) = [vw d, vs a, bop u b] := rfl
@[simp] theorem fields_vcellh (u : Bool) (d a b : Nat) : fields (.vcellh u d a b) = [vw d, vs a, bop u b] := rfl
@[simp] theorem fields_vnot (d a : Nat) : fields (.vnot d a) = [vw d, vs a] := rfl
@[simp] theorem fields_vneg (d a : Nat) : fields (.vneg d a) = [vw d, vs a] := rfl
@[simp] theorem fields_vabs (d a : Nat) : fields (.vabs d a) = [vw d, vs a] := rfl
@[simp] theorem fields_vclz (d a : Nat) : fields (.vclz d a) = [vw d, vs a] := rfl
@[simp] theorem fields_vpopc (d a : Nat) : fields (.vpopc d a) = [vw d, vs a] := rfl
@[simp] theorem fields_vbrev (d a : Nat) : fields (.vbrev d a) = [vw d, vs a] := rfl
@[simp] theorem fields_vmov (d a : Nat) : fields (.vmov d a) = [vw d, vs a] := rfl
@[simp] theorem fields_vbcastS (d a : Nat) : fields (.vbcastS d a) = [vw d, us a] := rfl
@[simp] theorem fields_vcmp (x0 : Cond) (d a b : Nat) : fields (.vcmp x0 d a b) = [pw d, vs a, vs b] := rfl
@[simp] theorem fields_vaddi (d a x2 : Nat) : fields (.vaddi d a x2) = [vw d, vs a] := rfl
@[simp] theorem fields_vli (x0 : Bool) (d x2 : Nat) : fields (.vli x0 d x2) = [vw d] := rfl
@[simp] theorem fields_vsel (u : Bool) (n d a b : Nat) : fields (.vsel u n d a b) = [vw d, vs a, bop u b, ps n] := rfl
@[simp] theorem fields_pand (d a b : Nat) : fields (.pand d a b) = [pw d, ps a, ps b] := rfl
@[simp] theorem fields_por (d a b : Nat) : fields (.por d a b) = [pw d, ps a, ps b] := rfl
@[simp] theorem fields_pxor (d a b : Nat) : fields (.pxor d a b) = [pw d, ps a, ps b] := rfl
@[simp] theorem fields_pandn (d a b : Nat) : fields (.pandn d a b) = [pw d, ps a, ps b] := rfl
@[simp] theorem fields_pnot (d a : Nat) : fields (.pnot d a) = [pw d, ps a] := rfl
@[simp] theorem fields_pmov (d a : Nat) : fields (.pmov d a) = [pw d, ps a] := rfl
@[simp] theorem fields_vfadd (u : Bool) (d a b : Nat) : fields (.vfadd u d a b) = [vw d, vs a, bop u b] := rfl
@[simp] theorem fields_vfsub (u : Bool) (d a b : Nat) : fields (.vfsub u d a b) = [vw d, vs a, bop u b] := rfl
@[simp] theorem fields_vfmul (u : Bool) (d a b : Nat) : fields (.vfmul u d a b) = [vw d, vs a, bop u b] := rfl
@[simp] theorem fields_vffma (u : Bool) (d a b : Nat) : fields (.vffma u d a b) = [vx d, vs a, bop u b] := rfl
@[simp] theorem fields_vfmin (u : Bool) (d a b : Nat) : fields (.vfmin u d a b) = [vw d, vs a, bop u b] := rfl
@[simp] theorem fields_vfmax (u : Bool) (d a b : Nat) : fields (.vfmax u d a b) = [vw d, vs a, bop u b] := rfl
@[simp] theorem fields_vfcpys (u : Bool) (d a b : Nat) : fields (.vfcpys u d a b) = [vw d, vs a, bop u b] := rfl
@[simp] theorem fields_vfabsd (u : Bool) (d a b : Nat) : fields (.vfabsd u d a b) = [vw d, vs a, bop u b] := rfl
@[simp] theorem fields_vdadd (d a b : Nat) : fields (.vdadd d a b) = [vw d 2, vs a 2, vs b 2] := rfl
@[simp] theorem fields_vdsub (d a b : Nat) : fields (.vdsub d a b) = [vw d 2, vs a 2, vs b 2] := rfl
@[simp] theorem fields_vdmul (d a b : Nat) : fields (.vdmul d a b) = [vw d 2, vs a 2, vs b 2] := rfl
@[simp] theorem fields_vdfma (d a b : Nat) : fields (.vdfma d a b) = [vx d 2, vs a 2, vs b 2] := rfl
@[simp] theorem fields_vdmin (d a b : Nat) : fields (.vdmin d a b) = [vw d 2, vs a 2, vs b 2] := rfl
@[simp] theorem fields_vdmax (d a b : Nat) : fields (.vdmax d a b) = [vw d 2, vs a 2, vs b 2] := rfl
@[simp] theorem fields_vhadd2 (x0 : Bool) (d a b : Nat) : fields (.vhadd2 x0 d a b) = [vw d, vs a, vs b] := rfl
@[simp] theorem fields_vhsub2 (x0 : Bool) (d a b : Nat) : fields (.vhsub2 x0 d a b) = [vw d, vs a, vs b] := rfl
@[simp] theorem fields_vhmul2 (x0 : Bool) (d a b : Nat) : fields (.vhmul2 x0 d a b) = [vw d, vs a, vs b] := rfl
@[simp] theorem fields_vhfma2 (x0 : Bool) (d a b : Nat) : fields (.vhfma2 x0 d a b) = [vx d, vs a, vs b] := rfl
@[simp] theorem fields_vfcmp (x0 : FCond) (d a b : Nat) : fields (.vfcmp x0 d a b) = [pw d, vs a, vs b] := rfl
@[simp] theorem fields_vfcmpF64 (x0 : FCond) (d a b : Nat) : fields (.vfcmpF64 x0 d a b) = [pw d, vs a 2, vs b 2] := rfl
@[simp] theorem fields_vcvtF32F64 (d a : Nat) (x2 : Bool) (x3 : Nat) : fields (.vcvtF32F64 d a x2 x3) = [vw d, vs a 2] := rfl
@[simp] theorem fields_vcvtF64F32 (d a : Nat) : fields (.vcvtF64F32 d a) = [vw d 2, vs a] := rfl
@[simp] theorem fields_vcvtF32I32 (d a : Nat) (x2 : Bool) (x3 : Nat) : fields (.vcvtF32I32 d a x2 x3) = [vw d, vs a] := rfl
@[simp] theorem fields_vcvtF32O32 (d a : Nat) (x2 : Bool) (x3 : Nat) : fields (.vcvtF32O32 d a x2 x3) = [vw d, vs a] := rfl
@[simp] theorem fields_vcvtI32F32 (d a x2 : Nat) : fields (.vcvtI32F32 d a x2) = [vw d, vs a] := rfl
@[simp] theorem fields_vcvtO32F32 (d a x2 : Nat) : fields (.vcvtO32F32 d a x2) = [vw d, vs a] := rfl
@[simp] theorem fields_vcvtF64I32 (d a : Nat) : fields (.vcvtF64I32 d a) = [vw d 2, vs a] := rfl
@[simp] theorem fields_vcvtI32F64 (d a x2 : Nat) : fields (.vcvtI32F64 d a x2) = [vw d, vs a 2] := rfl
@[simp] theorem fields_vcvtF19F32 (d a : Nat) (x2 : Bool) (x3 : Nat) : fields (.vcvtF19F32 d a x2 x3) = [vw d, vs a] := rfl
@[simp] theorem fields_vcvtBf16x2F32 (d a : Nat) (x2 : Bool) (x3 : Nat) : fields (.vcvtBf16x2F32 d a x2 x3) = [vw d, vs a 2] := rfl
@[simp] theorem fields_vcvtF16x2F32 (d a : Nat) (x2 : Bool) (x3 : Nat) : fields (.vcvtF16x2F32 d a x2 x3) = [vw d, vs a 2] := rfl
@[simp] theorem fields_vcvtF32x2F16x2 (d a : Nat) : fields (.vcvtF32x2F16x2 d a) = [vw d 2, vs a] := rfl
@[simp] theorem fields_vcvtE4m3x4F32 (d a : Nat) (x2 : Bool) (x3 : Nat) : fields (.vcvtE4m3x4F32 d a x2 x3) = [vw d, vs a 4] := rfl
@[simp] theorem fields_vcvtE5m2x4F32 (d a : Nat) (x2 : Bool) (x3 : Nat) : fields (.vcvtE5m2x4F32 d a x2 x3) = [vw d, vs a 4] := rfl
@[simp] theorem fields_vcvtI16x2F32 (d a x2 : Nat) : fields (.vcvtI16x2F32 d a x2) = [vw d, vs a 2] := rfl
@[simp] theorem fields_vcvtO8x4F32 (d a x2 : Nat) : fields (.vcvtO8x4F32 d a x2) = [vw d, vs a 4] := rfl
@[simp] theorem fields_vfrcp (x0 d a : Nat) : fields (.vfrcp x0 d a) = [(vw d).t, vs a] := rfl
@[simp] theorem fields_vfrsq (x0 d a : Nat) : fields (.vfrsq x0 d a) = [(vw d).t, vs a] := rfl
@[simp] theorem fields_vfsqrt (x0 d a : Nat) : fields (.vfsqrt x0 d a) = [(vw d).t, vs a] := rfl
@[simp] theorem fields_vfexp2 (x0 d a : Nat) : fields (.vfexp2 x0 d a) = [(vw d).t, vs a] := rfl
@[simp] theorem fields_vflog2 (x0 d a : Nat) : fields (.vflog2 x0 d a) = [(vw d).t, vs a] := rfl
@[simp] theorem fields_vfsin (x0 d a : Nat) : fields (.vfsin x0 d a) = [(vw d).t, vs a] := rfl
@[simp] theorem fields_vfcos (x0 d a : Nat) : fields (.vfcos x0 d a) = [(vw d).t, vs a] := rfl
@[simp] theorem fields_vftanh (x0 d a : Nat) : fields (.vftanh x0 d a) = [(vw d).t, vs a] := rfl
@[simp] theorem fields_hrnd (x0 d ua ub : Nat) : fields (.hrnd x0 d ua ub) = [(vx d 2).t, us ua 2, us ub] := rfl
@[simp] theorem fields_vshflUp (x0 d ua m : Nat) : fields (.vshflUp x0 d ua m) = [(vx d).t, us ua, ps m] := rfl
@[simp] theorem fields_vshflDown (x0 d ua m : Nat) : fields (.vshflDown x0 d ua m) = [(vx d).t, us ua, ps m] := rfl
@[simp] theorem fields_vshflXor (x0 d ua m : Nat) : fields (.vshflXor x0 d ua m) = [(vx d).t, us ua, ps m] := rfl
@[simp] theorem fields_vshflIdx (x0 d m : Nat) : fields (.vshflIdx x0 d m) = [(vx d 2).t, ps m] := rfl
@[simp] theorem fields_vbcast (x0 d ua m : Nat) : fields (.vbcast x0 d ua m) = [(vx d).t, us ua, ps m] := rfl
@[simp] theorem fields_vvoteAny (x0 d p m : Nat) : fields (.vvoteAny x0 d p m) = [(pw d).t, ps p, ps m] := rfl
@[simp] theorem fields_vvoteAll (x0 d p m : Nat) : fields (.vvoteAll x0 d p m) = [(pw d).t, ps p, ps m] := rfl
@[simp] theorem fields_vballot (x0 d p m : Nat) : fields (.vballot x0 d p m) = [(uw d 2).t, ps p, ps m] := rfl
@[simp] theorem fields_vredStep (x0 d ua : Nat) (x3 : StepOp) (m : Nat) : fields (.vredStep x0 d ua x3 m) = [(vx d).t, us ua, ps m] := rfl
@[simp] theorem fields_vscanStep (x0 d ua : Nat) (x3 : StepOp) (m : Nat) : fields (.vscanStep x0 d ua x3 m) = [(vx d).t, us ua, ps m] := rfl
@[simp] theorem fields_br (p x1 : Nat) : fields (.br p x1) = [ps p] := rfl
@[simp] theorem fields_call (p x1 : Nat) : fields (.call p x1) = [ps p, uw 63] := rfl
@[simp] theorem fields_bvSplit (p x1 : Nat) : fields (.bvSplit p x1) = [ps p] := rfl
@[simp] theorem fields_bvAny (p x1 : Nat) : fields (.bvAny p x1) = [ps p] := rfl
@[simp] theorem fields_bvAll (p x1 : Nat) : fields (.bvAll p x1) = [ps p] := rfl
@[simp] theorem fields_bvUni (p x1 : Nat) : fields (.bvUni p x1) = [ps p] := rfl
@[simp] theorem fields_ret (a : Nat) : fields (.ret a) = [us a] := rfl
@[simp] theorem fields_brx (a : Nat) : fields (.brx a) = [us a] := rfl
@[simp] theorem fields_exit : fields .exit = [] := rfl
@[simp] theorem fields_nop : fields .nop = [] := rfl
@[simp] theorem fields_yieldL : fields .yieldL = [] := rfl
@[simp] theorem fields_bar (x0 : Nat) : fields (.bar x0) = [] := rfl
@[simp] theorem fields_barq (x0 : Nat) : fields (.barq x0) = [] := rfl
@[simp] theorem fields_safe (x0 : Nat) : fields (.safe x0) = [] := rfl
@[simp] theorem fields_ld (x0 d a : Nat) (v x4 x5 : Bool) (sz : Size) : fields (.ld x0 d a v x4 x5 sz) = [(vw d (Size.regs sz)).t, aop v a] := rfl
@[simp] theorem fields_st (x0 d a : Nat) (v : Bool) (sz : Size) : fields (.st x0 d a v sz) = [(vs d (Size.regs sz)).t, aop v a] := rfl
@[simp] theorem fields_ldt (x0 d a : Nat) (v : Bool) (sz : Size) (hs : Nat) : fields (.ldt x0 d a v sz hs) = [(vw d (Size.regs sz)).t, aop v a, us hs] := rfl
@[simp] theorem fields_stt (x0 d a : Nat) (v : Bool) (sz : Size) (hs : Nat) : fields (.stt x0 d a v sz hs) = [(vs d (Size.regs sz)).t, aop v a, us hs] := rfl
@[simp] theorem fields_lds (x0 d a : Nat) (v x4 : Bool) (sz : Size) : fields (.lds x0 d a v x4 sz) = [(vw d (Size.regs sz)).t, aop v a] := rfl
@[simp] theorem fields_sts (x0 d a : Nat) (v : Bool) (sz : Size) : fields (.sts x0 d a v sz) = [(vs d (Size.regs sz)).t, aop v a] := rfl
@[simp] theorem fields_ldw (x0 d a : Nat) (v x4 : Bool) (sz : Size) : fields (.ldw x0 d a v x4 sz) = [(vw d (Size.regs sz)).t, aop v a] := rfl
@[simp] theorem fields_atom (x0 d a : Nat) (v dbl : Bool) (x5 : AtomOp) : fields (.atom x0 d a v dbl x5) = [(vx d (dreg dbl)).t, aop v a] := rfl
@[simp] theorem fields_atomf (x0 d a : Nat) (v : Bool) (x4 : AtomFOp) : fields (.atomf x0 d a v x4) = [(vx d).t, aop v a] := rfl
@[simp] theorem fields_cas (x0 d a : Nat) (v dbl : Bool) : fields (.cas x0 d a v dbl) = [(vx d (2 * dreg dbl)).t, aop v a] := rfl
@[simp] theorem fields_satom (x0 d a : Nat) (v dbl : Bool) (x5 : AtomOp) : fields (.satom x0 d a v dbl x5) = [(vx d (dreg dbl)).t, aop v a] := rfl
@[simp] theorem fields_satomCas (x0 d a : Nat) (v dbl : Bool) : fields (.satomCas x0 d a v dbl) = [(vx d (2 * dreg dbl)).t, aop v a] := rfl
@[simp] theorem fields_prefetch (a : Nat) (v : Bool) : fields (.prefetch a v) = [⟨.v, 0, 1, false, false, false⟩, aop v a] := rfl
@[simp] theorem fields_discard (a : Nat) (v : Bool) : fields (.discard a v) = [⟨.v, 0, 1, false, false, false⟩, aop v a] := rfl
@[simp] theorem fields_writeback (a : Nat) (v : Bool) : fields (.writeback a v) = [⟨.v, 0, 1, false, false, false⟩, aop v a] := rfl
@[simp] theorem fields_tdesc (x0 d a : Nat) : fields (.tdesc x0 d a) = [(vw d).t, us a] := rfl
@[simp] theorem fields_binit (x0 d a : Nat) (x3 : Bool) : fields (.binit x0 d a x3) = [(vx d).t, us a] := rfl
@[simp] theorem fields_barrive (x0 d a : Nat) (x3 : Bool) : fields (.barrive x0 d a x3) = [(vx d).t, us a] := rfl
@[simp] theorem fields_bwait (x0 d a : Nat) (x3 : Bool) : fields (.bwait x0 d a x3) = [(vx d).t, us a] := rfl
@[simp] theorem fields_bquery (x0 d a : Nat) (x3 : Bool) : fields (.bquery x0 d a x3) = [(vw d).t, us a] := rfl
@[simp] theorem fields_xcopy (x0 d ua ub : Nat) : fields (.xcopy x0 d ua ub) = [(uw d).t, us ua, us ub] := rfl
@[simp] theorem fields_cpoll (x0 d ua : Nat) : fields (.cpoll x0 d ua) = [(uw d).t, us ua] := rfl
@[simp] theorem fields_csleep (x0 d ua : Nat) : fields (.csleep x0 d ua) = [(uw d).t, us ua] := rfl
@[simp] theorem fields_cpop (x0 d ua : Nat) : fields (.cpop x0 d ua) = [(uw d).t, us ua 2] := rfl
@[simp] theorem fields_xwp (x0 d ua : Nat) : fields (.xwp x0 d ua) = [(uw d).t, us ua] := rfl
@[simp] theorem fields_qfence (ua : Nat) : fields (.qfence ua) = [us ua] := rfl
@[simp] theorem fields_drain (x0 : Nat) : fields (.drain x0) = [] := rfl
@[simp] theorem fields_mmaAcc (x0 d ua x3 : Nat) : fields (.mmaAcc x0 d ua x3) = [(uw d).t, us ua] := rfl
@[simp] theorem fields_mmaZero (x0 d ua x3 : Nat) : fields (.mmaZero x0 d ua x3) = [(uw d).t, us ua] := rfl
@[simp] theorem fields_mout (x0 d ua x3 : Nat) : fields (.mout x0 d ua x3) = [(uw d).t, us ua] := rfl
@[simp] theorem fields_mclear (ua x1 : Nat) : fields (.mclear ua x1) = [us ua] := rfl
@[simp] theorem fields_mwait (ua : Nat) : fields (.mwait ua) = [us ua] := rfl
@[simp] theorem fields_mtest (x0 d ua : Nat) : fields (.mtest x0 d ua) = [(uw d).t, us ua] := rfl
@[simp] theorem fields_mcancel (x0 d ua : Nat) : fields (.mcancel x0 d ua) = [(uw d).t, us ua] := rfl
@[simp] theorem fields_qpush (x0 d ua : Nat) : fields (.qpush x0 d ua) = [(uw d).t, us ua 2] := rfl
@[simp] theorem fields_qpop (ua : Nat) : fields (.qpop ua) = [us ua 2] := rfl
@[simp] theorem fields_qpopLanes (d ua : Nat) : fields (.qpopLanes d ua) = [vs d, us ua] := rfl
@[simp] theorem fields_qstat (x0 d ua : Nat) : fields (.qstat x0 d ua) = [(uw d).t, us ua] := rfl
@[simp] theorem fields_qclose (ua : Nat) : fields (.qclose ua) = [us ua] := rfl
@[simp] theorem fields_launch (x0 d ua : Nat) : fields (.launch x0 d ua) = [(uw d).t, us ua] := rfl
@[simp] theorem fields_lwait (ua : Nat) : fields (.lwait ua) = [us ua] := rfl
@[simp] theorem fields_rgive (x0 : Nat) : fields (.rgive x0) = [] := rfl
@[simp] theorem fields_rclaim (x0 : Nat) : fields (.rclaim x0) = [] := rfl
@[simp] theorem fields_wsend (x0 d ua : Nat) : fields (.wsend x0 d ua) = [(uw d).t, us ua] := rfl
@[simp] theorem fields_wpost (x0 d ua : Nat) : fields (.wpost x0 d ua) = [(uw d).t, us ua] := rfl
@[simp] theorem fields_wprobe (x0 d ua : Nat) : fields (.wprobe x0 d ua) = [(uw d).t, us ua] := rfl
@[simp] theorem fields_wcancel (x0 d ua : Nat) : fields (.wcancel x0 d ua) = [(uw d).t, us ua] := rfl
@[simp] theorem fields_wtest (x0 d ua : Nat) : fields (.wtest x0 d ua) = [(uw d).t, us ua] := rfl
@[simp] theorem fields_fencePodRel : fields .fencePodRel = [] := rfl
@[simp] theorem fields_fencePodAcq : fields .fencePodAcq = [] := rfl
@[simp] theorem fields_fencePod : fields .fencePod = [] := rfl
@[simp] theorem fields_trap (x0 : Nat) : fields (.trap x0) = [] := rfl
@[simp] theorem fields_sret : fields .sret = [] := rfl
@[simp] theorem fields_srd (x0 d x2 : Nat) (v : Bool) : fields (.srd x0 d x2 v) = [(if v then vw d else uw d).t] := rfl
@[simp] theorem fields_swr (d x1 : Nat) (v : Bool) : fields (.swr d x1 v) = [if v then vs d else us d] := rfl
@[simp] theorem fields_sleep (ua : Nat) : fields (.sleep ua) = [us ua] := rfl
@[simp] theorem fields_wake (ua : Nat) : fields (.wake ua) = [us ua] := rfl
@[simp] theorem fields_fstat (x0 d ua : Nat) : fields (.fstat x0 d ua) = [(uw d).t, us ua 2] := rfl
@[simp] theorem fields_fresume (ua : Nat) : fields (.fresume ua) = [us ua] := rfl
@[simp] theorem fields_fkill (ua : Nat) : fields (.fkill ua) = [us ua] := rfl
@[simp] theorem fields_tlbinv (ua : Nat) : fields (.tlbinv ua) = [us ua] := rfl
@[simp] theorem fields_lres (ua : Nat) : fields (.lres ua) = [us ua] := rfl
@[simp] theorem fields_wsopen (ua : Nat) : fields (.wsopen ua) = [us ua] := rfl
@[simp] theorem fields_wsclose (ua : Nat) : fields (.wsclose ua) = [us ua] := rfl
@[simp] theorem fields_rep (x0 x1 x2 x3 x4 : Nat) : fields (.rep x0 x1 x2 x3 x4) = [] := rfl

/-! ### The major of each word -/

@[simp] theorem majorOf_sadd (d a b : Nat) : majorOf (.sadd d a b) = 0x00 := rfl
@[simp] theorem majorOf_ssub (d a b : Nat) : majorOf (.ssub d a b) = 0x00 := rfl
@[simp] theorem majorOf_smul (d a b : Nat) : majorOf (.smul d a b) = 0x00 := rfl
@[simp] theorem majorOf_smulh (d a b : Nat) : majorOf (.smulh d a b) = 0x00 := rfl
@[simp] theorem majorOf_smulhu (d a b : Nat) : majorOf (.smulhu d a b) = 0x00 := rfl
@[simp] theorem majorOf_sand (d a b : Nat) : majorOf (.sand d a b) = 0x00 := rfl
@[simp] theorem majorOf_sor (d a b : Nat) : majorOf (.sor d a b) = 0x00 := rfl
@[simp] theorem majorOf_sxor (d a b : Nat) : majorOf (.sxor d a b) = 0x00 := rfl
@[simp] theorem majorOf_sshl (d a b : Nat) : majorOf (.sshl d a b) = 0x00 := rfl
@[simp] theorem majorOf_sshr (d a b : Nat) : majorOf (.sshr d a b) = 0x00 := rfl
@[simp] theorem majorOf_ssra (d a b : Nat) : majorOf (.ssra d a b) = 0x00 := rfl
@[simp] theorem majorOf_smin (d a b : Nat) : majorOf (.smin d a b) = 0x00 := rfl
@[simp] theorem majorOf_smax (d a b : Nat) : majorOf (.smax d a b) = 0x00 := rfl
@[simp] theorem majorOf_sminu (d a b : Nat) : majorOf (.sminu d a b) = 0x00 := rfl
@[simp] theorem majorOf_smaxu (d a b : Nat) : majorOf (.smaxu d a b) = 0x00 := rfl
@[simp] theorem majorOf_smov (d a b : Nat) : majorOf (.smov d a b) = 0x00 := rfl
@[simp] theorem majorOf_sclz (d a b : Nat) : majorOf (.sclz d a b) = 0x01 := rfl
@[simp] theorem majorOf_spopc (d a b : Nat) : majorOf (.spopc d a b) = 0x01 := rfl
@[simp] theorem majorOf_sbrev (d a b : Nat) : majorOf (.sbrev d a b) = 0x01 := rfl
@[simp] theorem majorOf_sext (d a b : Nat) : majorOf (.sext d a b) = 0x01 := rfl
@[simp] theorem majorOf_sins (d a b : Nat) : majorOf (.sins d a b) = 0x01 := rfl
@[simp] theorem majorOf_ssel (d a b : Nat) : majorOf (.ssel d a b) = 0x01 := rfl
@[simp] theorem majorOf_scmp (cc : Cond) (d a b : Nat) : majorOf (.scmp cc d a b) = 0x02 := rfl
@[simp] theorem majorOf_saddi (d a imm : Nat) : majorOf (.saddi d a imm) = 0x03 := rfl
@[simp] theorem majorOf_sli (hi : Bool) (d imm : Nat) : majorOf (.sli hi d imm) = 0x04 := rfl
@[simp] theorem majorOf_slik (hi : Bool) (d imm : Nat) : majorOf (.slik hi d imm) = 0x05 := rfl
@[simp] theorem majorOf_vadd (u : Bool) (d a b : Nat) : majorOf (.vadd u d a b) = 0x08 := rfl
@[simp] theorem majorOf_vsub (u : Bool) (d a b : Nat) : majorOf (.vsub u d a b) = 0x08 := rfl
@[simp] theorem majorOf_vmul (u : Bool) (d a b : Nat) : majorOf (.vmul u d a b) = 0x08 := rfl
@[simp] theorem majorOf_vmulh (u : Bool) (d a b : Nat) : majorOf (.vmulh u d a b) = 0x08 := rfl
@[simp] theorem majorOf_vmulhu (u : Bool) (d a b : Nat) : majorOf (.vmulhu u d a b) = 0x08 := rfl
@[simp] theorem majorOf_vand (u : Bool) (d a b : Nat) : majorOf (.vand u d a b) = 0x08 := rfl
@[simp] theorem majorOf_vor (u : Bool) (d a b : Nat) : majorOf (.vor u d a b) = 0x08 := rfl
@[simp] theorem majorOf_vxor (u : Bool) (d a b : Nat) : majorOf (.vxor u d a b) = 0x08 := rfl
@[simp] theorem majorOf_vshl (u : Bool) (d a b : Nat) : majorOf (.vshl u d a b) = 0x09 := rfl
@[simp] theorem majorOf_vshr (u : Bool) (d a b : Nat) : majorOf (.vshr u d a b) = 0x09 := rfl
@[simp] theorem majorOf_vsra (u : Bool) (d a b : Nat) : majorOf (.vsra u d a b) = 0x09 := rfl
@[simp] theorem majorOf_vmin (u : Bool) (d a b : Nat) : majorOf (.vmin u d a b) = 0x09 := rfl
@[simp] theorem majorOf_vmax (u : Bool) (d a b : Nat) : majorOf (.vmax u d a b) = 0x09 := rfl
@[simp] theorem majorOf_vminu (u : Bool) (d a b : Nat) : majorOf (.vminu u d a b) = 0x09 := rfl
@[simp] theorem majorOf_vmaxu (u : Bool) (d a b : Nat) : majorOf (.vmaxu u d a b) = 0x09 := rfl
@[simp] theorem majorOf_vaddmin (u : Bool) (d a b : Nat) : majorOf (.vaddmin u d a b) = 0x09 := rfl
@[simp] theorem majorOf_vmad (u : Bool) (d a b : Nat) : majorOf (.vmad u d a b) = 0x0A := rfl
@[simp] theorem majorOf_vaddsat (u : Bool) (d a b : Nat) : majorOf (.vaddsat u d a b) = 0x0A := rfl
@[simp] theorem majorOf_vsubsat (u : Bool) (d a b : Nat) : majorOf (.vsubsat u d a b) = 0x0A := rfl
@[simp] theorem majorOf_vabsdiff (u : Bool) (d a b : Nat) : majorOf (.vabsdiff u d a b) = 0x0A := rfl
@[simp] theorem majorOf_vext (u : Bool) (d a b : Nat) : majorOf (.vext u d a b) = 0x0A := rfl
@[simp] theorem majorOf_vins (u : Bool) (d a b : Nat) : majorOf (.vins u d a b) = 0x0A := rfl
@[simp] theorem majorOf_vmorton (u : Bool) (d a b : Nat) : majorOf (.vmorton u d a b) = 0x0A := rfl
@[simp] theorem majorOf_vcellh (u : Bool) (d a b : Nat) : majorOf (.vcellh u d a b) = 0x0A := rfl
@[simp] theorem majorOf_vnot (d a : Nat) : majorOf (.vnot d a) = 0x0B := rfl
@[simp] theorem majorOf_vneg (d a : Nat) : majorOf (.vneg d a) = 0x0B := rfl
@[simp] theorem majorOf_vabs (d a : Nat) : majorOf (.vabs d a) = 0x0B := rfl
@[simp] theorem majorOf_vclz (d a : Nat) : majorOf (.vclz d a) = 0x0B := rfl
@[simp] theorem majorOf_vpopc (d a : Nat) : majorOf (.vpopc d a) = 0x0B := rfl
@[simp] theorem majorOf_vbrev (d a : Nat) : majorOf (.vbrev d a) = 0x0B := rfl
@[simp] theorem majorOf_vmov (d a : Nat) : majorOf (.vmov d a) = 0x0B := rfl
@[simp] theorem majorOf_vbcastS (d a : Nat) : majorOf (.vbcastS d a) = 0x0B := rfl
@[simp] theorem majorOf_vcmp (cc : Cond) (d a b : Nat) : majorOf (.vcmp cc d a b) = 0x0C := rfl
@[simp] theorem majorOf_vaddi (d a imm : Nat) : majorOf (.vaddi d a imm) = 0x0D := rfl
@[simp] theorem majorOf_vli (hi : Bool) (d imm : Nat) : majorOf (.vli hi d imm) = 0x0E := rfl
@[simp] theorem majorOf_vsel (u : Bool) (n d a b : Nat) : majorOf (.vsel u n d a b) = 0x0F := rfl
@[simp] theorem majorOf_pand (d a b : Nat) : majorOf (.pand d a b) = 0x10 := rfl
@[simp] theorem majorOf_por (d a b : Nat) : majorOf (.por d a b) = 0x10 := rfl
@[simp] theorem majorOf_pxor (d a b : Nat) : majorOf (.pxor d a b) = 0x10 := rfl
@[simp] theorem majorOf_pandn (d a b : Nat) : majorOf (.pandn d a b) = 0x10 := rfl
@[simp] theorem majorOf_pnot (d a : Nat) : majorOf (.pnot d a) = 0x10 := rfl
@[simp] theorem majorOf_pmov (d a : Nat) : majorOf (.pmov d a) = 0x10 := rfl
@[simp] theorem majorOf_vfadd (u : Bool) (d a b : Nat) : majorOf (.vfadd u d a b) = 0x11 := rfl
@[simp] theorem majorOf_vfsub (u : Bool) (d a b : Nat) : majorOf (.vfsub u d a b) = 0x11 := rfl
@[simp] theorem majorOf_vfmul (u : Bool) (d a b : Nat) : majorOf (.vfmul u d a b) = 0x11 := rfl
@[simp] theorem majorOf_vffma (u : Bool) (d a b : Nat) : majorOf (.vffma u d a b) = 0x11 := rfl
@[simp] theorem majorOf_vfmin (u : Bool) (d a b : Nat) : majorOf (.vfmin u d a b) = 0x11 := rfl
@[simp] theorem majorOf_vfmax (u : Bool) (d a b : Nat) : majorOf (.vfmax u d a b) = 0x11 := rfl
@[simp] theorem majorOf_vfcpys (u : Bool) (d a b : Nat) : majorOf (.vfcpys u d a b) = 0x11 := rfl
@[simp] theorem majorOf_vfabsd (u : Bool) (d a b : Nat) : majorOf (.vfabsd u d a b) = 0x11 := rfl
@[simp] theorem majorOf_vdadd (d a b : Nat) : majorOf (.vdadd d a b) = 0x12 := rfl
@[simp] theorem majorOf_vdsub (d a b : Nat) : majorOf (.vdsub d a b) = 0x12 := rfl
@[simp] theorem majorOf_vdmul (d a b : Nat) : majorOf (.vdmul d a b) = 0x12 := rfl
@[simp] theorem majorOf_vdfma (d a b : Nat) : majorOf (.vdfma d a b) = 0x12 := rfl
@[simp] theorem majorOf_vdmin (d a b : Nat) : majorOf (.vdmin d a b) = 0x12 := rfl
@[simp] theorem majorOf_vdmax (d a b : Nat) : majorOf (.vdmax d a b) = 0x12 := rfl
@[simp] theorem majorOf_vhadd2 (f : Bool) (d a b : Nat) : majorOf (.vhadd2 f d a b) = 0x13 := rfl
@[simp] theorem majorOf_vhsub2 (f : Bool) (d a b : Nat) : majorOf (.vhsub2 f d a b) = 0x13 := rfl
@[simp] theorem majorOf_vhmul2 (f : Bool) (d a b : Nat) : majorOf (.vhmul2 f d a b) = 0x13 := rfl
@[simp] theorem majorOf_vhfma2 (f : Bool) (d a b : Nat) : majorOf (.vhfma2 f d a b) = 0x13 := rfl
@[simp] theorem majorOf_vfcmp (cc : FCond) (d a b : Nat) : majorOf (.vfcmp cc d a b) = 0x14 := rfl
@[simp] theorem majorOf_vfcmpF64 (cc : FCond) (d a b : Nat) : majorOf (.vfcmpF64 cc d a b) = 0x14 := rfl
@[simp] theorem majorOf_vcvtF32F64 (d a : Nat) (sat : Bool) (rm : Nat) : majorOf (.vcvtF32F64 d a sat rm) = 0x15 := rfl
@[simp] theorem majorOf_vcvtF64F32 (d a : Nat) : majorOf (.vcvtF64F32 d a) = 0x15 := rfl
@[simp] theorem majorOf_vcvtF32I32 (d a : Nat) (sat : Bool) (rm : Nat) : majorOf (.vcvtF32I32 d a sat rm) = 0x15 := rfl
@[simp] theorem majorOf_vcvtF32O32 (d a : Nat) (sat : Bool) (rm : Nat) : majorOf (.vcvtF32O32 d a sat rm) = 0x15 := rfl
@[simp] theorem majorOf_vcvtI32F32 (d a rm : Nat) : majorOf (.vcvtI32F32 d a rm) = 0x15 := rfl
@[simp] theorem majorOf_vcvtO32F32 (d a rm : Nat) : majorOf (.vcvtO32F32 d a rm) = 0x15 := rfl
@[simp] theorem majorOf_vcvtF64I32 (d a : Nat) : majorOf (.vcvtF64I32 d a) = 0x15 := rfl
@[simp] theorem majorOf_vcvtI32F64 (d a rm : Nat) : majorOf (.vcvtI32F64 d a rm) = 0x15 := rfl
@[simp] theorem majorOf_vcvtF19F32 (d a : Nat) (sat : Bool) (rm : Nat) : majorOf (.vcvtF19F32 d a sat rm) = 0x15 := rfl
@[simp] theorem majorOf_vcvtBf16x2F32 (d a : Nat) (sat : Bool) (rm : Nat) : majorOf (.vcvtBf16x2F32 d a sat rm) = 0x15 := rfl
@[simp] theorem majorOf_vcvtF16x2F32 (d a : Nat) (sat : Bool) (rm : Nat) : majorOf (.vcvtF16x2F32 d a sat rm) = 0x15 := rfl
@[simp] theorem majorOf_vcvtF32x2F16x2 (d a : Nat) : majorOf (.vcvtF32x2F16x2 d a) = 0x15 := rfl
@[simp] theorem majorOf_vcvtE4m3x4F32 (d a : Nat) (sat : Bool) (rm : Nat) : majorOf (.vcvtE4m3x4F32 d a sat rm) = 0x15 := rfl
@[simp] theorem majorOf_vcvtE5m2x4F32 (d a : Nat) (sat : Bool) (rm : Nat) : majorOf (.vcvtE5m2x4F32 d a sat rm) = 0x15 := rfl
@[simp] theorem majorOf_vcvtI16x2F32 (d a rm : Nat) : majorOf (.vcvtI16x2F32 d a rm) = 0x15 := rfl
@[simp] theorem majorOf_vcvtO8x4F32 (d a rm : Nat) : majorOf (.vcvtO8x4F32 d a rm) = 0x15 := rfl
@[simp] theorem majorOf_vfrcp (la d a : Nat) : majorOf (.vfrcp la d a) = 0x16 := rfl
@[simp] theorem majorOf_vfrsq (la d a : Nat) : majorOf (.vfrsq la d a) = 0x16 := rfl
@[simp] theorem majorOf_vfsqrt (la d a : Nat) : majorOf (.vfsqrt la d a) = 0x16 := rfl
@[simp] theorem majorOf_vfexp2 (la d a : Nat) : majorOf (.vfexp2 la d a) = 0x16 := rfl
@[simp] theorem majorOf_vflog2 (la d a : Nat) : majorOf (.vflog2 la d a) = 0x16 := rfl
@[simp] theorem majorOf_vfsin (la d a : Nat) : majorOf (.vfsin la d a) = 0x16 := rfl
@[simp] theorem majorOf_vfcos (la d a : Nat) : majorOf (.vfcos la d a) = 0x16 := rfl
@[simp] theorem majorOf_vftanh (la d a : Nat) : majorOf (.vftanh la d a) = 0x16 := rfl
@[simp] theorem majorOf_hrnd (la d ua ub : Nat) : majorOf (.hrnd la d ua ub) = 0x17 := rfl
@[simp] theorem majorOf_vshflUp (la d ua m : Nat) : majorOf (.vshflUp la d ua m) = 0x18 := rfl
@[simp] theorem majorOf_vshflDown (la d ua m : Nat) : majorOf (.vshflDown la d ua m) = 0x18 := rfl
@[simp] theorem majorOf_vshflXor (la d ua m : Nat) : majorOf (.vshflXor la d ua m) = 0x18 := rfl
@[simp] theorem majorOf_vshflIdx (la d m : Nat) : majorOf (.vshflIdx la d m) = 0x18 := rfl
@[simp] theorem majorOf_vbcast (la d ua m : Nat) : majorOf (.vbcast la d ua m) = 0x18 := rfl
@[simp] theorem majorOf_vvoteAny (la d ps m : Nat) : majorOf (.vvoteAny la d ps m) = 0x18 := rfl
@[simp] theorem majorOf_vvoteAll (la d ps m : Nat) : majorOf (.vvoteAll la d ps m) = 0x18 := rfl
@[simp] theorem majorOf_vballot (la d ps m : Nat) : majorOf (.vballot la d ps m) = 0x18 := rfl
@[simp] theorem majorOf_vredStep (la d ua : Nat) (op : StepOp) (m : Nat) : majorOf (.vredStep la d ua op m) = 0x18 := rfl
@[simp] theorem majorOf_vscanStep (la d ua : Nat) (op : StepOp) (m : Nat) : majorOf (.vscanStep la d ua op m) = 0x18 := rfl
@[simp] theorem majorOf_br (p off : Nat) : majorOf (.br p off) = 0x1C := rfl
@[simp] theorem majorOf_call (p off : Nat) : majorOf (.call p off) = 0x1C := rfl
@[simp] theorem majorOf_bvSplit (p off : Nat) : majorOf (.bvSplit p off) = 0x1D := rfl
@[simp] theorem majorOf_bvAny (p off : Nat) : majorOf (.bvAny p off) = 0x1D := rfl
@[simp] theorem majorOf_bvAll (p off : Nat) : majorOf (.bvAll p off) = 0x1D := rfl
@[simp] theorem majorOf_bvUni (p off : Nat) : majorOf (.bvUni p off) = 0x1D := rfl
@[simp] theorem majorOf_ret (a : Nat) : majorOf (.ret a) = 0x1E := rfl
@[simp] theorem majorOf_brx (a : Nat) : majorOf (.brx a) = 0x1E := rfl
@[simp] theorem majorOf_exit : majorOf .exit = 0x1E := rfl
@[simp] theorem majorOf_nop : majorOf .nop = 0x1E := rfl
@[simp] theorem majorOf_yieldL : majorOf .yieldL = 0x1E := rfl
@[simp] theorem majorOf_bar (n : Nat) : majorOf (.bar n) = 0x1E := rfl
@[simp] theorem majorOf_barq (n : Nat) : majorOf (.barq n) = 0x1E := rfl
@[simp] theorem majorOf_safe (n : Nat) : majorOf (.safe n) = 0x1F := rfl
@[simp] theorem majorOf_ld (la d a : Nat) (v sx poll : Bool) (sz : Size) : majorOf (.ld la d a v sx poll sz) = 0x20 := rfl
@[simp] theorem majorOf_st (la d a : Nat) (v : Bool) (sz : Size) : majorOf (.st la d a v sz) = 0x21 := rfl
@[simp] theorem majorOf_ldt (la d a : Nat) (v : Bool) (sz : Size) (hs : Nat) : majorOf (.ldt la d a v sz hs) = 0x22 := rfl
@[simp] theorem majorOf_stt (la d a : Nat) (v : Bool) (sz : Size) (hs : Nat) : majorOf (.stt la d a v sz hs) = 0x23 := rfl
@[simp] theorem majorOf_lds (la d a : Nat) (v sx : Bool) (sz : Size) : majorOf (.lds la d a v sx sz) = 0x24 := rfl
@[simp] theorem majorOf_sts (la d a : Nat) (v : Bool) (sz : Size) : majorOf (.sts la d a v sz) = 0x25 := rfl
@[simp] theorem majorOf_ldw (la d a : Nat) (v sx : Bool) (sz : Size) : majorOf (.ldw la d a v sx sz) = 0x26 := rfl
@[simp] theorem majorOf_atom (la d a : Nat) (v dbl : Bool) (op : AtomOp) : majorOf (.atom la d a v dbl op) = 0x27 := rfl
@[simp] theorem majorOf_atomf (la d a : Nat) (v : Bool) (op : AtomFOp) : majorOf (.atomf la d a v op) = 0x28 := rfl
@[simp] theorem majorOf_cas (la d a : Nat) (v dbl : Bool) : majorOf (.cas la d a v dbl) = 0x29 := rfl
@[simp] theorem majorOf_satom (la d a : Nat) (v dbl : Bool) (op : AtomOp) : majorOf (.satom la d a v dbl op) = 0x2A := rfl
@[simp] theorem majorOf_satomCas (la d a : Nat) (v dbl : Bool) : majorOf (.satomCas la d a v dbl) = 0x2A := rfl
@[simp] theorem majorOf_prefetch (a : Nat) (v : Bool) : majorOf (.prefetch a v) = 0x2B := rfl
@[simp] theorem majorOf_discard (a : Nat) (v : Bool) : majorOf (.discard a v) = 0x2B := rfl
@[simp] theorem majorOf_writeback (a : Nat) (v : Bool) : majorOf (.writeback a v) = 0x2B := rfl
@[simp] theorem majorOf_tdesc (la d a : Nat) : majorOf (.tdesc la d a) = 0x2B := rfl
@[simp] theorem majorOf_binit (la d a : Nat) (sp : Bool) : majorOf (.binit la d a sp) = 0x2C := rfl
@[simp] theorem majorOf_barrive (la d a : Nat) (sp : Bool) : majorOf (.barrive la d a sp) = 0x2C := rfl
@[simp] theorem majorOf_bwait (la d a : Nat) (sp : Bool) : majorOf (.bwait la d a sp) = 0x2C := rfl
@[simp] theorem majorOf_bquery (la d a : Nat) (sp : Bool) : majorOf (.bquery la d a sp) = 0x2C := rfl
@[simp] theorem majorOf_xcopy (la d ua ub : Nat) : majorOf (.xcopy la d ua ub) = 0x30 := rfl
@[simp] theorem majorOf_cpoll (la d ua : Nat) : majorOf (.cpoll la d ua) = 0x31 := rfl
@[simp] theorem majorOf_csleep (la d ua : Nat) : majorOf (.csleep la d ua) = 0x31 := rfl
@[simp] theorem majorOf_cpop (la d ua : Nat) : majorOf (.cpop la d ua) = 0x31 := rfl
@[simp] theorem majorOf_xwp (la d ua : Nat) : majorOf (.xwp la d ua) = 0x31 := rfl
@[simp] theorem majorOf_qfence (ua : Nat) : majorOf (.qfence ua) = 0x32 := rfl
@[simp] theorem majorOf_drain (scope : Nat) : majorOf (.drain scope) = 0x32 := rfl
@[simp] theorem majorOf_mmaAcc (la d ua k : Nat) : majorOf (.mmaAcc la d ua k) = 0x33 := rfl
@[simp] theorem majorOf_mmaZero (la d ua k : Nat) : majorOf (.mmaZero la d ua k) = 0x33 := rfl
@[simp] theorem majorOf_mout (la d ua k : Nat) : majorOf (.mout la d ua k) = 0x33 := rfl
@[simp] theorem majorOf_mclear (ua k : Nat) : majorOf (.mclear ua k) = 0x33 := rfl
@[simp] theorem majorOf_mwait (ua : Nat) : majorOf (.mwait ua) = 0x34 := rfl
@[simp] theorem majorOf_mtest (la d ua : Nat) : majorOf (.mtest la d ua) = 0x34 := rfl
@[simp] theorem majorOf_mcancel (la d ua : Nat) : majorOf (.mcancel la d ua) = 0x34 := rfl
@[simp] theorem majorOf_qpush (la d ua : Nat) : majorOf (.qpush la d ua) = 0x35 := rfl
@[simp] theorem majorOf_qpop (ua : Nat) : majorOf (.qpop ua) = 0x35 := rfl
@[simp] theorem majorOf_qpopLanes (d ua : Nat) : majorOf (.qpopLanes d ua) = 0x35 := rfl
@[simp] theorem majorOf_qstat (la d ua : Nat) : majorOf (.qstat la d ua) = 0x35 := rfl
@[simp] theorem majorOf_qclose (ua : Nat) : majorOf (.qclose ua) = 0x35 := rfl
@[simp] theorem majorOf_launch (la d ua : Nat) : majorOf (.launch la d ua) = 0x36 := rfl
@[simp] theorem majorOf_lwait (ua : Nat) : majorOf (.lwait ua) = 0x36 := rfl
@[simp] theorem majorOf_rgive (n : Nat) : majorOf (.rgive n) = 0x37 := rfl
@[simp] theorem majorOf_rclaim (n : Nat) : majorOf (.rclaim n) = 0x37 := rfl
@[simp] theorem majorOf_wsend (la d ua : Nat) : majorOf (.wsend la d ua) = 0x38 := rfl
@[simp] theorem majorOf_wpost (la d ua : Nat) : majorOf (.wpost la d ua) = 0x38 := rfl
@[simp] theorem majorOf_wprobe (la d ua : Nat) : majorOf (.wprobe la d ua) = 0x38 := rfl
@[simp] theorem majorOf_wcancel (la d ua : Nat) : majorOf (.wcancel la d ua) = 0x38 := rfl
@[simp] theorem majorOf_wtest (la d ua : Nat) : majorOf (.wtest la d ua) = 0x38 := rfl
@[simp] theorem majorOf_fencePodRel : majorOf .fencePodRel = 0x39 := rfl
@[simp] theorem majorOf_fencePodAcq : majorOf .fencePodAcq = 0x39 := rfl
@[simp] theorem majorOf_fencePod : majorOf .fencePod = 0x39 := rfl
@[simp] theorem majorOf_trap (n : Nat) : majorOf (.trap n) = 0x3C := rfl
@[simp] theorem majorOf_sret : majorOf .sret = 0x3C := rfl
@[simp] theorem majorOf_srd (la d idx : Nat) (v : Bool) : majorOf (.srd la d idx v) = 0x3C := rfl
@[simp] theorem majorOf_swr (d idx : Nat) (v : Bool) : majorOf (.swr d idx v) = 0x3C := rfl
@[simp] theorem majorOf_sleep (ua : Nat) : majorOf (.sleep ua) = 0x3C := rfl
@[simp] theorem majorOf_wake (ua : Nat) : majorOf (.wake ua) = 0x3C := rfl
@[simp] theorem majorOf_fstat (la d ua : Nat) : majorOf (.fstat la d ua) = 0x3D := rfl
@[simp] theorem majorOf_fresume (ua : Nat) : majorOf (.fresume ua) = 0x3D := rfl
@[simp] theorem majorOf_fkill (ua : Nat) : majorOf (.fkill ua) = 0x3D := rfl
@[simp] theorem majorOf_tlbinv (ua : Nat) : majorOf (.tlbinv ua) = 0x3E := rfl
@[simp] theorem majorOf_lres (ua : Nat) : majorOf (.lres ua) = 0x3E := rfl
@[simp] theorem majorOf_wsopen (ua : Nat) : majorOf (.wsopen ua) = 0x3E := rfl
@[simp] theorem majorOf_wsclose (ua : Nat) : majorOf (.wsclose ua) = 0x3E := rfl
@[simp] theorem majorOf_rep (count mask sd sa sb : Nat) : majorOf (.rep count mask sd sa sb) = 0x3F := rfl

end Sys2Proof.Machine
end

