-- ==== Sys2Proof/Laws/State.lean ====
section
/-! SUPPORT. What each update of the state leaves alone: one lemma for each field, so that no proof unfolds a record
update. -/

namespace Sys2Proof.Machine

/-! ### wrS -/

@[simp] theorem wrS_cycle (s : State) (r : Nat) (x : Word) : (wrS s r x).cycle = s.cycle := rfl
@[simp] theorem wrS_moves (s : State) (r : Nat) (x : Word) : (wrS s r x).moves = s.moves := rfl
@[simp] theorem wrS_steps (s : State) (r : Nat) (x : Word) : (wrS s r x).steps = s.steps := rfl
@[simp] theorem wrS_freeCtr (s : State) (r : Nat) (x : Word) : (wrS s r x).freeCtr = s.freeCtr := rfl
@[simp] theorem wrS_opSeq (s : State) (r : Nat) (x : Word) : (wrS s r x).opSeq = s.opSeq := rfl
@[simp] theorem wrS_c (s : State) (r : Nat) (x : Word) : (wrS s r x).c = s.c := rfl
@[simp] theorem wrS_old (s : State) (r : Nat) (x : Word) : (wrS s r x).old = s.old := rfl
@[simp] theorem wrS_iss (s : State) (r : Nat) (x : Word) : (wrS s r x).iss = s.iss := rfl
@[simp] theorem wrS_crews (s : State) (r : Nat) (x : Word) : (wrS s r x).crews = s.crews := rfl
@[simp] theorem wrS_frags (s : State) (r : Nat) (x : Word) : (wrS s r x).frags = s.frags := rfl
@[simp] theorem wrS_nextCrew (s : State) (r : Nat) (x : Word) : (wrS s r x).nextCrew = s.nextCrew := rfl
@[simp] theorem wrS_mem (s : State) (r : Nat) (x : Word) : (wrS s r x).mem = s.mem := rfl
@[simp] theorem wrS_hostMem (s : State) (r : Nat) (x : Word) : (wrS s r x).hostMem = s.hostMem := rfl
@[simp] theorem wrS_lines (s : State) (r : Nat) (x : Word) : (wrS s r x).lines = s.lines := rfl
@[simp] theorem wrS_etime (s : State) (r : Nat) (x : Word) : (wrS s r x).etime = s.etime := rfl
@[simp] theorem wrS_units (s : State) (r : Nat) (x : Word) : (wrS s r x).units = s.units := rfl
@[simp] theorem wrS_poison (s : State) (r : Nat) (x : Word) : (wrS s r x).poison = s.poison := rfl
@[simp] theorem wrS_owners (s : State) (r : Nat) (x : Word) : (wrS s r x).owners = s.owners := rfl
@[simp] theorem wrS_armed (s : State) (r : Nat) (x : Word) : (wrS s r x).armed = s.armed := rfl
@[simp] theorem wrS_cores (s : State) (r : Nat) (x : Word) : (wrS s r x).cores = s.cores := rfl
@[simp] theorem wrS_quads (s : State) (r : Nat) (x : Word) : (wrS s r x).quads = s.quads := rfl
@[simp] theorem wrS_bays (s : State) (r : Nat) (x : Word) : (wrS s r x).bays = s.bays := rfl
@[simp] theorem wrS_dies (s : State) (r : Nat) (x : Word) : (wrS s r x).dies = s.dies := rfl
@[simp] theorem wrS_stripe (s : State) (r : Nat) (x : Word) : (wrS s r x).stripe = s.stripe := rfl
@[simp] theorem wrS_elect (s : State) (r : Nat) (x : Word) : (wrS s r x).elect = s.elect := rfl
@[simp] theorem wrS_vfs (s : State) (r : Nat) (x : Word) : (wrS s r x).vfs = s.vfs := rfl
@[simp] theorem wrS_launches (s : State) (r : Nat) (x : Word) : (wrS s r x).launches = s.launches := rfl
@[simp] theorem wrS_nextLaunch (s : State) (r : Nat) (x : Word) : (wrS s r x).nextLaunch = s.nextLaunch := rfl
@[simp] theorem wrS_lastVf (s : State) (r : Nat) (x : Word) : (wrS s r x).lastVf = s.lastVf := rfl
@[simp] theorem wrS_slice (s : State) (r : Nat) (x : Word) : (wrS s r x).slice = s.slice := rfl
@[simp] theorem wrS_tslen (s : State) (r : Nat) (x : Word) : (wrS s r x).tslen = s.tslen := rfl
@[simp] theorem wrS_drGo (s : State) (r : Nat) (x : Word) : (wrS s r x).drGo = s.drGo := rfl
@[simp] theorem wrS_drRun (s : State) (r : Nat) (x : Word) : (wrS s r x).drRun = s.drRun := rfl
@[simp] theorem wrS_drOp (s : State) (r : Nat) (x : Word) : (wrS s r x).drOp = s.drOp := rfl
@[simp] theorem wrS_drDie (s : State) (r : Nat) (x : Word) : (wrS s r x).drDie = s.drDie := rfl
@[simp] theorem wrS_dcap (s : State) (r : Nat) (x : Word) : (wrS s r x).dcap = s.dcap := rfl
@[simp] theorem wrS_fabric (s : State) (r : Nat) (x : Word) : (wrS s r x).fabric = s.fabric := rfl
@[simp] theorem wrS_wharf (s : State) (r : Nat) (x : Word) : (wrS s r x).wharf = s.wharf := rfl
@[simp] theorem wrS_pod (s : State) (r : Nat) (x : Word) : (wrS s r x).pod = s.pod := rfl
@[simp] theorem wrS_towpath (s : State) (r : Nat) (x : Word) : (wrS s r x).towpath = s.towpath := rfl
@[simp] theorem wrS_nextKey (s : State) (r : Nat) (x : Word) : (wrS s r x).nextKey = s.nextKey := rfl
@[simp] theorem wrS_hostReadback (s : State) (r : Nat) (x : Word) : (wrS s r x).hostReadback = s.hostReadback := rfl
@[simp] theorem wrS_halted (s : State) (r : Nat) (x : Word) : (wrS s r x).halted = s.halted := rfl

/-! ### wrV -/

@[simp] theorem wrV_cycle (s : State) (r : Nat) (f : Nat → Word) : (wrV s r f).cycle = s.cycle := rfl
@[simp] theorem wrV_moves (s : State) (r : Nat) (f : Nat → Word) : (wrV s r f).moves = s.moves := rfl
@[simp] theorem wrV_steps (s : State) (r : Nat) (f : Nat → Word) : (wrV s r f).steps = s.steps := rfl
@[simp] theorem wrV_freeCtr (s : State) (r : Nat) (f : Nat → Word) : (wrV s r f).freeCtr = s.freeCtr := rfl
@[simp] theorem wrV_opSeq (s : State) (r : Nat) (f : Nat → Word) : (wrV s r f).opSeq = s.opSeq := rfl
@[simp] theorem wrV_c (s : State) (r : Nat) (f : Nat → Word) : (wrV s r f).c = s.c := rfl
@[simp] theorem wrV_old (s : State) (r : Nat) (f : Nat → Word) : (wrV s r f).old = s.old := rfl
@[simp] theorem wrV_iss (s : State) (r : Nat) (f : Nat → Word) : (wrV s r f).iss = s.iss := rfl
@[simp] theorem wrV_crews (s : State) (r : Nat) (f : Nat → Word) : (wrV s r f).crews = s.crews := rfl
@[simp] theorem wrV_frags (s : State) (r : Nat) (f : Nat → Word) : (wrV s r f).frags = s.frags := rfl
@[simp] theorem wrV_nextCrew (s : State) (r : Nat) (f : Nat → Word) : (wrV s r f).nextCrew = s.nextCrew := rfl
@[simp] theorem wrV_mem (s : State) (r : Nat) (f : Nat → Word) : (wrV s r f).mem = s.mem := rfl
@[simp] theorem wrV_hostMem (s : State) (r : Nat) (f : Nat → Word) : (wrV s r f).hostMem = s.hostMem := rfl
@[simp] theorem wrV_lines (s : State) (r : Nat) (f : Nat → Word) : (wrV s r f).lines = s.lines := rfl
@[simp] theorem wrV_etime (s : State) (r : Nat) (f : Nat → Word) : (wrV s r f).etime = s.etime := rfl
@[simp] theorem wrV_units (s : State) (r : Nat) (f : Nat → Word) : (wrV s r f).units = s.units := rfl
@[simp] theorem wrV_poison (s : State) (r : Nat) (f : Nat → Word) : (wrV s r f).poison = s.poison := rfl
@[simp] theorem wrV_owners (s : State) (r : Nat) (f : Nat → Word) : (wrV s r f).owners = s.owners := rfl
@[simp] theorem wrV_armed (s : State) (r : Nat) (f : Nat → Word) : (wrV s r f).armed = s.armed := rfl
@[simp] theorem wrV_cores (s : State) (r : Nat) (f : Nat → Word) : (wrV s r f).cores = s.cores := rfl
@[simp] theorem wrV_quads (s : State) (r : Nat) (f : Nat → Word) : (wrV s r f).quads = s.quads := rfl
@[simp] theorem wrV_bays (s : State) (r : Nat) (f : Nat → Word) : (wrV s r f).bays = s.bays := rfl
@[simp] theorem wrV_dies (s : State) (r : Nat) (f : Nat → Word) : (wrV s r f).dies = s.dies := rfl
@[simp] theorem wrV_stripe (s : State) (r : Nat) (f : Nat → Word) : (wrV s r f).stripe = s.stripe := rfl
@[simp] theorem wrV_elect (s : State) (r : Nat) (f : Nat → Word) : (wrV s r f).elect = s.elect := rfl
@[simp] theorem wrV_vfs (s : State) (r : Nat) (f : Nat → Word) : (wrV s r f).vfs = s.vfs := rfl
@[simp] theorem wrV_launches (s : State) (r : Nat) (f : Nat → Word) : (wrV s r f).launches = s.launches := rfl
@[simp] theorem wrV_nextLaunch (s : State) (r : Nat) (f : Nat → Word) : (wrV s r f).nextLaunch = s.nextLaunch := rfl
@[simp] theorem wrV_lastVf (s : State) (r : Nat) (f : Nat → Word) : (wrV s r f).lastVf = s.lastVf := rfl
@[simp] theorem wrV_slice (s : State) (r : Nat) (f : Nat → Word) : (wrV s r f).slice = s.slice := rfl
@[simp] theorem wrV_tslen (s : State) (r : Nat) (f : Nat → Word) : (wrV s r f).tslen = s.tslen := rfl
@[simp] theorem wrV_drGo (s : State) (r : Nat) (f : Nat → Word) : (wrV s r f).drGo = s.drGo := rfl
@[simp] theorem wrV_drRun (s : State) (r : Nat) (f : Nat → Word) : (wrV s r f).drRun = s.drRun := rfl
@[simp] theorem wrV_drOp (s : State) (r : Nat) (f : Nat → Word) : (wrV s r f).drOp = s.drOp := rfl
@[simp] theorem wrV_drDie (s : State) (r : Nat) (f : Nat → Word) : (wrV s r f).drDie = s.drDie := rfl
@[simp] theorem wrV_dcap (s : State) (r : Nat) (f : Nat → Word) : (wrV s r f).dcap = s.dcap := rfl
@[simp] theorem wrV_fabric (s : State) (r : Nat) (f : Nat → Word) : (wrV s r f).fabric = s.fabric := rfl
@[simp] theorem wrV_wharf (s : State) (r : Nat) (f : Nat → Word) : (wrV s r f).wharf = s.wharf := rfl
@[simp] theorem wrV_pod (s : State) (r : Nat) (f : Nat → Word) : (wrV s r f).pod = s.pod := rfl
@[simp] theorem wrV_towpath (s : State) (r : Nat) (f : Nat → Word) : (wrV s r f).towpath = s.towpath := rfl
@[simp] theorem wrV_nextKey (s : State) (r : Nat) (f : Nat → Word) : (wrV s r f).nextKey = s.nextKey := rfl
@[simp] theorem wrV_hostReadback (s : State) (r : Nat) (f : Nat → Word) : (wrV s r f).hostReadback = s.hostReadback := rfl
@[simp] theorem wrV_halted (s : State) (r : Nat) (f : Nat → Word) : (wrV s r f).halted = s.halted := rfl

/-! ### wrP -/

@[simp] theorem wrP_cycle (s : State) (r : Nat) (f : Nat → Bool) : (wrP s r f).cycle = s.cycle := rfl
@[simp] theorem wrP_moves (s : State) (r : Nat) (f : Nat → Bool) : (wrP s r f).moves = s.moves := rfl
@[simp] theorem wrP_steps (s : State) (r : Nat) (f : Nat → Bool) : (wrP s r f).steps = s.steps := rfl
@[simp] theorem wrP_freeCtr (s : State) (r : Nat) (f : Nat → Bool) : (wrP s r f).freeCtr = s.freeCtr := rfl
@[simp] theorem wrP_opSeq (s : State) (r : Nat) (f : Nat → Bool) : (wrP s r f).opSeq = s.opSeq := rfl
@[simp] theorem wrP_c (s : State) (r : Nat) (f : Nat → Bool) : (wrP s r f).c = s.c := rfl
@[simp] theorem wrP_old (s : State) (r : Nat) (f : Nat → Bool) : (wrP s r f).old = s.old := rfl
@[simp] theorem wrP_iss (s : State) (r : Nat) (f : Nat → Bool) : (wrP s r f).iss = s.iss := rfl
@[simp] theorem wrP_crews (s : State) (r : Nat) (f : Nat → Bool) : (wrP s r f).crews = s.crews := rfl
@[simp] theorem wrP_frags (s : State) (r : Nat) (f : Nat → Bool) : (wrP s r f).frags = s.frags := rfl
@[simp] theorem wrP_nextCrew (s : State) (r : Nat) (f : Nat → Bool) : (wrP s r f).nextCrew = s.nextCrew := rfl
@[simp] theorem wrP_mem (s : State) (r : Nat) (f : Nat → Bool) : (wrP s r f).mem = s.mem := rfl
@[simp] theorem wrP_hostMem (s : State) (r : Nat) (f : Nat → Bool) : (wrP s r f).hostMem = s.hostMem := rfl
@[simp] theorem wrP_lines (s : State) (r : Nat) (f : Nat → Bool) : (wrP s r f).lines = s.lines := rfl
@[simp] theorem wrP_etime (s : State) (r : Nat) (f : Nat → Bool) : (wrP s r f).etime = s.etime := rfl
@[simp] theorem wrP_units (s : State) (r : Nat) (f : Nat → Bool) : (wrP s r f).units = s.units := rfl
@[simp] theorem wrP_poison (s : State) (r : Nat) (f : Nat → Bool) : (wrP s r f).poison = s.poison := rfl
@[simp] theorem wrP_owners (s : State) (r : Nat) (f : Nat → Bool) : (wrP s r f).owners = s.owners := rfl
@[simp] theorem wrP_armed (s : State) (r : Nat) (f : Nat → Bool) : (wrP s r f).armed = s.armed := rfl
@[simp] theorem wrP_cores (s : State) (r : Nat) (f : Nat → Bool) : (wrP s r f).cores = s.cores := rfl
@[simp] theorem wrP_quads (s : State) (r : Nat) (f : Nat → Bool) : (wrP s r f).quads = s.quads := rfl
@[simp] theorem wrP_bays (s : State) (r : Nat) (f : Nat → Bool) : (wrP s r f).bays = s.bays := rfl
@[simp] theorem wrP_dies (s : State) (r : Nat) (f : Nat → Bool) : (wrP s r f).dies = s.dies := rfl
@[simp] theorem wrP_stripe (s : State) (r : Nat) (f : Nat → Bool) : (wrP s r f).stripe = s.stripe := rfl
@[simp] theorem wrP_elect (s : State) (r : Nat) (f : Nat → Bool) : (wrP s r f).elect = s.elect := rfl
@[simp] theorem wrP_vfs (s : State) (r : Nat) (f : Nat → Bool) : (wrP s r f).vfs = s.vfs := rfl
@[simp] theorem wrP_launches (s : State) (r : Nat) (f : Nat → Bool) : (wrP s r f).launches = s.launches := rfl
@[simp] theorem wrP_nextLaunch (s : State) (r : Nat) (f : Nat → Bool) : (wrP s r f).nextLaunch = s.nextLaunch := rfl
@[simp] theorem wrP_lastVf (s : State) (r : Nat) (f : Nat → Bool) : (wrP s r f).lastVf = s.lastVf := rfl
@[simp] theorem wrP_slice (s : State) (r : Nat) (f : Nat → Bool) : (wrP s r f).slice = s.slice := rfl
@[simp] theorem wrP_tslen (s : State) (r : Nat) (f : Nat → Bool) : (wrP s r f).tslen = s.tslen := rfl
@[simp] theorem wrP_drGo (s : State) (r : Nat) (f : Nat → Bool) : (wrP s r f).drGo = s.drGo := rfl
@[simp] theorem wrP_drRun (s : State) (r : Nat) (f : Nat → Bool) : (wrP s r f).drRun = s.drRun := rfl
@[simp] theorem wrP_drOp (s : State) (r : Nat) (f : Nat → Bool) : (wrP s r f).drOp = s.drOp := rfl
@[simp] theorem wrP_drDie (s : State) (r : Nat) (f : Nat → Bool) : (wrP s r f).drDie = s.drDie := rfl
@[simp] theorem wrP_dcap (s : State) (r : Nat) (f : Nat → Bool) : (wrP s r f).dcap = s.dcap := rfl
@[simp] theorem wrP_fabric (s : State) (r : Nat) (f : Nat → Bool) : (wrP s r f).fabric = s.fabric := rfl
@[simp] theorem wrP_wharf (s : State) (r : Nat) (f : Nat → Bool) : (wrP s r f).wharf = s.wharf := rfl
@[simp] theorem wrP_pod (s : State) (r : Nat) (f : Nat → Bool) : (wrP s r f).pod = s.pod := rfl
@[simp] theorem wrP_towpath (s : State) (r : Nat) (f : Nat → Bool) : (wrP s r f).towpath = s.towpath := rfl
@[simp] theorem wrP_nextKey (s : State) (r : Nat) (f : Nat → Bool) : (wrP s r f).nextKey = s.nextKey := rfl
@[simp] theorem wrP_hostReadback (s : State) (r : Nat) (f : Nat → Bool) : (wrP s r f).hostReadback = s.hostReadback := rfl
@[simp] theorem wrP_halted (s : State) (r : Nat) (f : Nat → Bool) : (wrP s r f).halted = s.halted := rfl

/-! ### wrV2 -/

@[simp] theorem wrV2_cycle (s : State) (r : Nat) (f : Nat → Nat) : (wrV2 s r f).cycle = s.cycle := rfl
@[simp] theorem wrV2_moves (s : State) (r : Nat) (f : Nat → Nat) : (wrV2 s r f).moves = s.moves := rfl
@[simp] theorem wrV2_steps (s : State) (r : Nat) (f : Nat → Nat) : (wrV2 s r f).steps = s.steps := rfl
@[simp] theorem wrV2_freeCtr (s : State) (r : Nat) (f : Nat → Nat) : (wrV2 s r f).freeCtr = s.freeCtr := rfl
@[simp] theorem wrV2_opSeq (s : State) (r : Nat) (f : Nat → Nat) : (wrV2 s r f).opSeq = s.opSeq := rfl
@[simp] theorem wrV2_c (s : State) (r : Nat) (f : Nat → Nat) : (wrV2 s r f).c = s.c := rfl
@[simp] theorem wrV2_old (s : State) (r : Nat) (f : Nat → Nat) : (wrV2 s r f).old = s.old := rfl
@[simp] theorem wrV2_iss (s : State) (r : Nat) (f : Nat → Nat) : (wrV2 s r f).iss = s.iss := rfl
@[simp] theorem wrV2_crews (s : State) (r : Nat) (f : Nat → Nat) : (wrV2 s r f).crews = s.crews := rfl
@[simp] theorem wrV2_frags (s : State) (r : Nat) (f : Nat → Nat) : (wrV2 s r f).frags = s.frags := rfl
@[simp] theorem wrV2_nextCrew (s : State) (r : Nat) (f : Nat → Nat) : (wrV2 s r f).nextCrew = s.nextCrew := rfl
@[simp] theorem wrV2_mem (s : State) (r : Nat) (f : Nat → Nat) : (wrV2 s r f).mem = s.mem := rfl
@[simp] theorem wrV2_hostMem (s : State) (r : Nat) (f : Nat → Nat) : (wrV2 s r f).hostMem = s.hostMem := rfl
@[simp] theorem wrV2_lines (s : State) (r : Nat) (f : Nat → Nat) : (wrV2 s r f).lines = s.lines := rfl
@[simp] theorem wrV2_etime (s : State) (r : Nat) (f : Nat → Nat) : (wrV2 s r f).etime = s.etime := rfl
@[simp] theorem wrV2_units (s : State) (r : Nat) (f : Nat → Nat) : (wrV2 s r f).units = s.units := rfl
@[simp] theorem wrV2_poison (s : State) (r : Nat) (f : Nat → Nat) : (wrV2 s r f).poison = s.poison := rfl
@[simp] theorem wrV2_owners (s : State) (r : Nat) (f : Nat → Nat) : (wrV2 s r f).owners = s.owners := rfl
@[simp] theorem wrV2_armed (s : State) (r : Nat) (f : Nat → Nat) : (wrV2 s r f).armed = s.armed := rfl
@[simp] theorem wrV2_cores (s : State) (r : Nat) (f : Nat → Nat) : (wrV2 s r f).cores = s.cores := rfl
@[simp] theorem wrV2_quads (s : State) (r : Nat) (f : Nat → Nat) : (wrV2 s r f).quads = s.quads := rfl
@[simp] theorem wrV2_bays (s : State) (r : Nat) (f : Nat → Nat) : (wrV2 s r f).bays = s.bays := rfl
@[simp] theorem wrV2_dies (s : State) (r : Nat) (f : Nat → Nat) : (wrV2 s r f).dies = s.dies := rfl
@[simp] theorem wrV2_stripe (s : State) (r : Nat) (f : Nat → Nat) : (wrV2 s r f).stripe = s.stripe := rfl
@[simp] theorem wrV2_elect (s : State) (r : Nat) (f : Nat → Nat) : (wrV2 s r f).elect = s.elect := rfl
@[simp] theorem wrV2_vfs (s : State) (r : Nat) (f : Nat → Nat) : (wrV2 s r f).vfs = s.vfs := rfl
@[simp] theorem wrV2_launches (s : State) (r : Nat) (f : Nat → Nat) : (wrV2 s r f).launches = s.launches := rfl
@[simp] theorem wrV2_nextLaunch (s : State) (r : Nat) (f : Nat → Nat) : (wrV2 s r f).nextLaunch = s.nextLaunch := rfl
@[simp] theorem wrV2_lastVf (s : State) (r : Nat) (f : Nat → Nat) : (wrV2 s r f).lastVf = s.lastVf := rfl
@[simp] theorem wrV2_slice (s : State) (r : Nat) (f : Nat → Nat) : (wrV2 s r f).slice = s.slice := rfl
@[simp] theorem wrV2_tslen (s : State) (r : Nat) (f : Nat → Nat) : (wrV2 s r f).tslen = s.tslen := rfl
@[simp] theorem wrV2_drGo (s : State) (r : Nat) (f : Nat → Nat) : (wrV2 s r f).drGo = s.drGo := rfl
@[simp] theorem wrV2_drRun (s : State) (r : Nat) (f : Nat → Nat) : (wrV2 s r f).drRun = s.drRun := rfl
@[simp] theorem wrV2_drOp (s : State) (r : Nat) (f : Nat → Nat) : (wrV2 s r f).drOp = s.drOp := rfl
@[simp] theorem wrV2_drDie (s : State) (r : Nat) (f : Nat → Nat) : (wrV2 s r f).drDie = s.drDie := rfl
@[simp] theorem wrV2_dcap (s : State) (r : Nat) (f : Nat → Nat) : (wrV2 s r f).dcap = s.dcap := rfl
@[simp] theorem wrV2_fabric (s : State) (r : Nat) (f : Nat → Nat) : (wrV2 s r f).fabric = s.fabric := rfl
@[simp] theorem wrV2_wharf (s : State) (r : Nat) (f : Nat → Nat) : (wrV2 s r f).wharf = s.wharf := rfl
@[simp] theorem wrV2_pod (s : State) (r : Nat) (f : Nat → Nat) : (wrV2 s r f).pod = s.pod := rfl
@[simp] theorem wrV2_towpath (s : State) (r : Nat) (f : Nat → Nat) : (wrV2 s r f).towpath = s.towpath := rfl
@[simp] theorem wrV2_nextKey (s : State) (r : Nat) (f : Nat → Nat) : (wrV2 s r f).nextKey = s.nextKey := rfl
@[simp] theorem wrV2_hostReadback (s : State) (r : Nat) (f : Nat → Nat) : (wrV2 s r f).hostReadback = s.hostReadback := rfl
@[simp] theorem wrV2_halted (s : State) (r : Nat) (f : Nat → Nat) : (wrV2 s r f).halted = s.halted := rfl

/-! ### raise -/

@[simp] theorem raise_cycle (s : State) (f : BitVec 5) : (raise s f).cycle = s.cycle := rfl
@[simp] theorem raise_moves (s : State) (f : BitVec 5) : (raise s f).moves = s.moves := rfl
@[simp] theorem raise_steps (s : State) (f : BitVec 5) : (raise s f).steps = s.steps := rfl
@[simp] theorem raise_freeCtr (s : State) (f : BitVec 5) : (raise s f).freeCtr = s.freeCtr := rfl
@[simp] theorem raise_opSeq (s : State) (f : BitVec 5) : (raise s f).opSeq = s.opSeq := rfl
@[simp] theorem raise_c (s : State) (f : BitVec 5) : (raise s f).c = s.c := rfl
@[simp] theorem raise_old (s : State) (f : BitVec 5) : (raise s f).old = s.old := rfl
@[simp] theorem raise_iss (s : State) (f : BitVec 5) : (raise s f).iss = s.iss := rfl
@[simp] theorem raise_crews (s : State) (f : BitVec 5) : (raise s f).crews = s.crews := rfl
@[simp] theorem raise_frags (s : State) (f : BitVec 5) : (raise s f).frags = s.frags := rfl
@[simp] theorem raise_nextCrew (s : State) (f : BitVec 5) : (raise s f).nextCrew = s.nextCrew := rfl
@[simp] theorem raise_mem (s : State) (f : BitVec 5) : (raise s f).mem = s.mem := rfl
@[simp] theorem raise_hostMem (s : State) (f : BitVec 5) : (raise s f).hostMem = s.hostMem := rfl
@[simp] theorem raise_lines (s : State) (f : BitVec 5) : (raise s f).lines = s.lines := rfl
@[simp] theorem raise_etime (s : State) (f : BitVec 5) : (raise s f).etime = s.etime := rfl
@[simp] theorem raise_units (s : State) (f : BitVec 5) : (raise s f).units = s.units := rfl
@[simp] theorem raise_poison (s : State) (f : BitVec 5) : (raise s f).poison = s.poison := rfl
@[simp] theorem raise_owners (s : State) (f : BitVec 5) : (raise s f).owners = s.owners := rfl
@[simp] theorem raise_armed (s : State) (f : BitVec 5) : (raise s f).armed = s.armed := rfl
@[simp] theorem raise_cores (s : State) (f : BitVec 5) : (raise s f).cores = s.cores := rfl
@[simp] theorem raise_quads (s : State) (f : BitVec 5) : (raise s f).quads = s.quads := rfl
@[simp] theorem raise_bays (s : State) (f : BitVec 5) : (raise s f).bays = s.bays := rfl
@[simp] theorem raise_dies (s : State) (f : BitVec 5) : (raise s f).dies = s.dies := rfl
@[simp] theorem raise_stripe (s : State) (f : BitVec 5) : (raise s f).stripe = s.stripe := rfl
@[simp] theorem raise_elect (s : State) (f : BitVec 5) : (raise s f).elect = s.elect := rfl
@[simp] theorem raise_vfs (s : State) (f : BitVec 5) : (raise s f).vfs = s.vfs := rfl
@[simp] theorem raise_launches (s : State) (f : BitVec 5) : (raise s f).launches = s.launches := rfl
@[simp] theorem raise_nextLaunch (s : State) (f : BitVec 5) : (raise s f).nextLaunch = s.nextLaunch := rfl
@[simp] theorem raise_lastVf (s : State) (f : BitVec 5) : (raise s f).lastVf = s.lastVf := rfl
@[simp] theorem raise_slice (s : State) (f : BitVec 5) : (raise s f).slice = s.slice := rfl
@[simp] theorem raise_tslen (s : State) (f : BitVec 5) : (raise s f).tslen = s.tslen := rfl
@[simp] theorem raise_drGo (s : State) (f : BitVec 5) : (raise s f).drGo = s.drGo := rfl
@[simp] theorem raise_drRun (s : State) (f : BitVec 5) : (raise s f).drRun = s.drRun := rfl
@[simp] theorem raise_drOp (s : State) (f : BitVec 5) : (raise s f).drOp = s.drOp := rfl
@[simp] theorem raise_drDie (s : State) (f : BitVec 5) : (raise s f).drDie = s.drDie := rfl
@[simp] theorem raise_dcap (s : State) (f : BitVec 5) : (raise s f).dcap = s.dcap := rfl
@[simp] theorem raise_fabric (s : State) (f : BitVec 5) : (raise s f).fabric = s.fabric := rfl
@[simp] theorem raise_wharf (s : State) (f : BitVec 5) : (raise s f).wharf = s.wharf := rfl
@[simp] theorem raise_pod (s : State) (f : BitVec 5) : (raise s f).pod = s.pod := rfl
@[simp] theorem raise_towpath (s : State) (f : BitVec 5) : (raise s f).towpath = s.towpath := rfl
@[simp] theorem raise_nextKey (s : State) (f : BitVec 5) : (raise s f).nextKey = s.nextKey := rfl
@[simp] theorem raise_hostReadback (s : State) (f : BitVec 5) : (raise s f).hostReadback = s.hostReadback := rfl
@[simp] theorem raise_halted (s : State) (f : BitVec 5) : (raise s f).halted = s.halted := rfl

/-! ### enqueue -/

@[simp] theorem enqueue_cycle (s : State) (o : MemOp) : (enqueue s o).cycle = s.cycle := rfl
@[simp] theorem enqueue_moves (s : State) (o : MemOp) : (enqueue s o).moves = s.moves := rfl
@[simp] theorem enqueue_steps (s : State) (o : MemOp) : (enqueue s o).steps = s.steps := rfl
@[simp] theorem enqueue_freeCtr (s : State) (o : MemOp) : (enqueue s o).freeCtr = s.freeCtr := rfl
@[simp] theorem enqueue_opSeq (s : State) (o : MemOp) : (enqueue s o).opSeq = s.opSeq := rfl
@[simp] theorem enqueue_c (s : State) (o : MemOp) : (enqueue s o).c = s.c := rfl
@[simp] theorem enqueue_old (s : State) (o : MemOp) : (enqueue s o).old = s.old := rfl
@[simp] theorem enqueue_iss (s : State) (o : MemOp) : (enqueue s o).iss = s.iss := rfl
@[simp] theorem enqueue_crews (s : State) (o : MemOp) : (enqueue s o).crews = s.crews := rfl
@[simp] theorem enqueue_frags (s : State) (o : MemOp) : (enqueue s o).frags = s.frags := rfl
@[simp] theorem enqueue_nextCrew (s : State) (o : MemOp) : (enqueue s o).nextCrew = s.nextCrew := rfl
@[simp] theorem enqueue_mem (s : State) (o : MemOp) : (enqueue s o).mem = s.mem := rfl
@[simp] theorem enqueue_hostMem (s : State) (o : MemOp) : (enqueue s o).hostMem = s.hostMem := rfl
@[simp] theorem enqueue_lines (s : State) (o : MemOp) : (enqueue s o).lines = s.lines := rfl
@[simp] theorem enqueue_etime (s : State) (o : MemOp) : (enqueue s o).etime = s.etime := rfl
@[simp] theorem enqueue_units (s : State) (o : MemOp) : (enqueue s o).units = s.units := rfl
@[simp] theorem enqueue_poison (s : State) (o : MemOp) : (enqueue s o).poison = s.poison := rfl
@[simp] theorem enqueue_owners (s : State) (o : MemOp) : (enqueue s o).owners = s.owners := rfl
@[simp] theorem enqueue_armed (s : State) (o : MemOp) : (enqueue s o).armed = s.armed := rfl
@[simp] theorem enqueue_cores (s : State) (o : MemOp) : (enqueue s o).cores = s.cores := rfl
@[simp] theorem enqueue_quads (s : State) (o : MemOp) : (enqueue s o).quads = s.quads := rfl
@[simp] theorem enqueue_bays (s : State) (o : MemOp) : (enqueue s o).bays = s.bays := rfl
@[simp] theorem enqueue_dies (s : State) (o : MemOp) : (enqueue s o).dies = s.dies := rfl
@[simp] theorem enqueue_stripe (s : State) (o : MemOp) : (enqueue s o).stripe = s.stripe := rfl
@[simp] theorem enqueue_elect (s : State) (o : MemOp) : (enqueue s o).elect = s.elect := rfl
@[simp] theorem enqueue_vfs (s : State) (o : MemOp) : (enqueue s o).vfs = s.vfs := rfl
@[simp] theorem enqueue_launches (s : State) (o : MemOp) : (enqueue s o).launches = s.launches := rfl
@[simp] theorem enqueue_nextLaunch (s : State) (o : MemOp) : (enqueue s o).nextLaunch = s.nextLaunch := rfl
@[simp] theorem enqueue_lastVf (s : State) (o : MemOp) : (enqueue s o).lastVf = s.lastVf := rfl
@[simp] theorem enqueue_slice (s : State) (o : MemOp) : (enqueue s o).slice = s.slice := rfl
@[simp] theorem enqueue_tslen (s : State) (o : MemOp) : (enqueue s o).tslen = s.tslen := rfl
@[simp] theorem enqueue_drGo (s : State) (o : MemOp) : (enqueue s o).drGo = s.drGo := rfl
@[simp] theorem enqueue_drRun (s : State) (o : MemOp) : (enqueue s o).drRun = s.drRun := rfl
@[simp] theorem enqueue_drOp (s : State) (o : MemOp) : (enqueue s o).drOp = s.drOp := rfl
@[simp] theorem enqueue_drDie (s : State) (o : MemOp) : (enqueue s o).drDie = s.drDie := rfl
@[simp] theorem enqueue_dcap (s : State) (o : MemOp) : (enqueue s o).dcap = s.dcap := rfl
@[simp] theorem enqueue_fabric (s : State) (o : MemOp) : (enqueue s o).fabric = s.fabric := rfl
@[simp] theorem enqueue_wharf (s : State) (o : MemOp) : (enqueue s o).wharf = s.wharf := rfl
@[simp] theorem enqueue_pod (s : State) (o : MemOp) : (enqueue s o).pod = s.pod := rfl
@[simp] theorem enqueue_towpath (s : State) (o : MemOp) : (enqueue s o).towpath = s.towpath := rfl
@[simp] theorem enqueue_nextKey (s : State) (o : MemOp) : (enqueue s o).nextKey = s.nextKey := rfl
@[simp] theorem enqueue_hostReadback (s : State) (o : MemOp) : (enqueue s o).hostReadback = s.hostReadback := rfl
@[simp] theorem enqueue_halted (s : State) (o : MemOp) : (enqueue s o).halted = s.halted := rfl

/-! ### waitLanes -/

@[simp] theorem waitLanes_cycle (s : State) (x : Wait) : (waitLanes s x).cycle = s.cycle := rfl
@[simp] theorem waitLanes_moves (s : State) (x : Wait) : (waitLanes s x).moves = s.moves := rfl
@[simp] theorem waitLanes_steps (s : State) (x : Wait) : (waitLanes s x).steps = s.steps := rfl
@[simp] theorem waitLanes_freeCtr (s : State) (x : Wait) : (waitLanes s x).freeCtr = s.freeCtr := rfl
@[simp] theorem waitLanes_opSeq (s : State) (x : Wait) : (waitLanes s x).opSeq = s.opSeq := rfl
@[simp] theorem waitLanes_c (s : State) (x : Wait) : (waitLanes s x).c = s.c := rfl
@[simp] theorem waitLanes_old (s : State) (x : Wait) : (waitLanes s x).old = s.old := rfl
@[simp] theorem waitLanes_iss (s : State) (x : Wait) : (waitLanes s x).iss = s.iss := rfl
@[simp] theorem waitLanes_crews (s : State) (x : Wait) : (waitLanes s x).crews = s.crews := rfl
@[simp] theorem waitLanes_frags (s : State) (x : Wait) : (waitLanes s x).frags = s.frags := rfl
@[simp] theorem waitLanes_nextCrew (s : State) (x : Wait) : (waitLanes s x).nextCrew = s.nextCrew := rfl
@[simp] theorem waitLanes_mem (s : State) (x : Wait) : (waitLanes s x).mem = s.mem := rfl
@[simp] theorem waitLanes_hostMem (s : State) (x : Wait) : (waitLanes s x).hostMem = s.hostMem := rfl
@[simp] theorem waitLanes_lines (s : State) (x : Wait) : (waitLanes s x).lines = s.lines := rfl
@[simp] theorem waitLanes_etime (s : State) (x : Wait) : (waitLanes s x).etime = s.etime := rfl
@[simp] theorem waitLanes_units (s : State) (x : Wait) : (waitLanes s x).units = s.units := rfl
@[simp] theorem waitLanes_poison (s : State) (x : Wait) : (waitLanes s x).poison = s.poison := rfl
@[simp] theorem waitLanes_owners (s : State) (x : Wait) : (waitLanes s x).owners = s.owners := rfl
@[simp] theorem waitLanes_armed (s : State) (x : Wait) : (waitLanes s x).armed = s.armed := rfl
@[simp] theorem waitLanes_cores (s : State) (x : Wait) : (waitLanes s x).cores = s.cores := rfl
@[simp] theorem waitLanes_quads (s : State) (x : Wait) : (waitLanes s x).quads = s.quads := rfl
@[simp] theorem waitLanes_bays (s : State) (x : Wait) : (waitLanes s x).bays = s.bays := rfl
@[simp] theorem waitLanes_dies (s : State) (x : Wait) : (waitLanes s x).dies = s.dies := rfl
@[simp] theorem waitLanes_stripe (s : State) (x : Wait) : (waitLanes s x).stripe = s.stripe := rfl
@[simp] theorem waitLanes_elect (s : State) (x : Wait) : (waitLanes s x).elect = s.elect := rfl
@[simp] theorem waitLanes_vfs (s : State) (x : Wait) : (waitLanes s x).vfs = s.vfs := rfl
@[simp] theorem waitLanes_launches (s : State) (x : Wait) : (waitLanes s x).launches = s.launches := rfl
@[simp] theorem waitLanes_nextLaunch (s : State) (x : Wait) : (waitLanes s x).nextLaunch = s.nextLaunch := rfl
@[simp] theorem waitLanes_lastVf (s : State) (x : Wait) : (waitLanes s x).lastVf = s.lastVf := rfl
@[simp] theorem waitLanes_slice (s : State) (x : Wait) : (waitLanes s x).slice = s.slice := rfl
@[simp] theorem waitLanes_tslen (s : State) (x : Wait) : (waitLanes s x).tslen = s.tslen := rfl
@[simp] theorem waitLanes_drGo (s : State) (x : Wait) : (waitLanes s x).drGo = s.drGo := rfl
@[simp] theorem waitLanes_drRun (s : State) (x : Wait) : (waitLanes s x).drRun = s.drRun := rfl
@[simp] theorem waitLanes_drOp (s : State) (x : Wait) : (waitLanes s x).drOp = s.drOp := rfl
@[simp] theorem waitLanes_drDie (s : State) (x : Wait) : (waitLanes s x).drDie = s.drDie := rfl
@[simp] theorem waitLanes_dcap (s : State) (x : Wait) : (waitLanes s x).dcap = s.dcap := rfl
@[simp] theorem waitLanes_fabric (s : State) (x : Wait) : (waitLanes s x).fabric = s.fabric := rfl
@[simp] theorem waitLanes_wharf (s : State) (x : Wait) : (waitLanes s x).wharf = s.wharf := rfl
@[simp] theorem waitLanes_pod (s : State) (x : Wait) : (waitLanes s x).pod = s.pod := rfl
@[simp] theorem waitLanes_towpath (s : State) (x : Wait) : (waitLanes s x).towpath = s.towpath := rfl
@[simp] theorem waitLanes_nextKey (s : State) (x : Wait) : (waitLanes s x).nextKey = s.nextKey := rfl
@[simp] theorem waitLanes_hostReadback (s : State) (x : Wait) : (waitLanes s x).hostReadback = s.hostReadback := rfl
@[simp] theorem waitLanes_halted (s : State) (x : Wait) : (waitLanes s x).halted = s.halted := rfl

/-! ### updCore -/

@[simp] theorem updCore_cycle (s : State) (n : Nat) (f : Core → Core) : (updCore s n f).cycle = s.cycle := rfl
@[simp] theorem updCore_moves (s : State) (n : Nat) (f : Core → Core) : (updCore s n f).moves = s.moves := rfl
@[simp] theorem updCore_steps (s : State) (n : Nat) (f : Core → Core) : (updCore s n f).steps = s.steps := rfl
@[simp] theorem updCore_freeCtr (s : State) (n : Nat) (f : Core → Core) : (updCore s n f).freeCtr = s.freeCtr := rfl
@[simp] theorem updCore_opSeq (s : State) (n : Nat) (f : Core → Core) : (updCore s n f).opSeq = s.opSeq := rfl
@[simp] theorem updCore_c (s : State) (n : Nat) (f : Core → Core) : (updCore s n f).c = s.c := rfl
@[simp] theorem updCore_w (s : State) (n : Nat) (f : Core → Core) : (updCore s n f).w = s.w := rfl
@[simp] theorem updCore_old (s : State) (n : Nat) (f : Core → Core) : (updCore s n f).old = s.old := rfl
@[simp] theorem updCore_iss (s : State) (n : Nat) (f : Core → Core) : (updCore s n f).iss = s.iss := rfl
@[simp] theorem updCore_crews (s : State) (n : Nat) (f : Core → Core) : (updCore s n f).crews = s.crews := rfl
@[simp] theorem updCore_frags (s : State) (n : Nat) (f : Core → Core) : (updCore s n f).frags = s.frags := rfl
@[simp] theorem updCore_nextCrew (s : State) (n : Nat) (f : Core → Core) : (updCore s n f).nextCrew = s.nextCrew := rfl
@[simp] theorem updCore_mem (s : State) (n : Nat) (f : Core → Core) : (updCore s n f).mem = s.mem := rfl
@[simp] theorem updCore_hostMem (s : State) (n : Nat) (f : Core → Core) : (updCore s n f).hostMem = s.hostMem := rfl
@[simp] theorem updCore_lines (s : State) (n : Nat) (f : Core → Core) : (updCore s n f).lines = s.lines := rfl
@[simp] theorem updCore_etime (s : State) (n : Nat) (f : Core → Core) : (updCore s n f).etime = s.etime := rfl
@[simp] theorem updCore_units (s : State) (n : Nat) (f : Core → Core) : (updCore s n f).units = s.units := rfl
@[simp] theorem updCore_poison (s : State) (n : Nat) (f : Core → Core) : (updCore s n f).poison = s.poison := rfl
@[simp] theorem updCore_owners (s : State) (n : Nat) (f : Core → Core) : (updCore s n f).owners = s.owners := rfl
@[simp] theorem updCore_armed (s : State) (n : Nat) (f : Core → Core) : (updCore s n f).armed = s.armed := rfl
@[simp] theorem updCore_quads (s : State) (n : Nat) (f : Core → Core) : (updCore s n f).quads = s.quads := rfl
@[simp] theorem updCore_bays (s : State) (n : Nat) (f : Core → Core) : (updCore s n f).bays = s.bays := rfl
@[simp] theorem updCore_dies (s : State) (n : Nat) (f : Core → Core) : (updCore s n f).dies = s.dies := rfl
@[simp] theorem updCore_stripe (s : State) (n : Nat) (f : Core → Core) : (updCore s n f).stripe = s.stripe := rfl
@[simp] theorem updCore_elect (s : State) (n : Nat) (f : Core → Core) : (updCore s n f).elect = s.elect := rfl
@[simp] theorem updCore_vfs (s : State) (n : Nat) (f : Core → Core) : (updCore s n f).vfs = s.vfs := rfl
@[simp] theorem updCore_launches (s : State) (n : Nat) (f : Core → Core) : (updCore s n f).launches = s.launches := rfl
@[simp] theorem updCore_nextLaunch (s : State) (n : Nat) (f : Core → Core) : (updCore s n f).nextLaunch = s.nextLaunch := rfl
@[simp] theorem updCore_lastVf (s : State) (n : Nat) (f : Core → Core) : (updCore s n f).lastVf = s.lastVf := rfl
@[simp] theorem updCore_slice (s : State) (n : Nat) (f : Core → Core) : (updCore s n f).slice = s.slice := rfl
@[simp] theorem updCore_tslen (s : State) (n : Nat) (f : Core → Core) : (updCore s n f).tslen = s.tslen := rfl
@[simp] theorem updCore_drGo (s : State) (n : Nat) (f : Core → Core) : (updCore s n f).drGo = s.drGo := rfl
@[simp] theorem updCore_drRun (s : State) (n : Nat) (f : Core → Core) : (updCore s n f).drRun = s.drRun := rfl
@[simp] theorem updCore_drOp (s : State) (n : Nat) (f : Core → Core) : (updCore s n f).drOp = s.drOp := rfl
@[simp] theorem updCore_drDie (s : State) (n : Nat) (f : Core → Core) : (updCore s n f).drDie = s.drDie := rfl
@[simp] theorem updCore_dcap (s : State) (n : Nat) (f : Core → Core) : (updCore s n f).dcap = s.dcap := rfl
@[simp] theorem updCore_fabric (s : State) (n : Nat) (f : Core → Core) : (updCore s n f).fabric = s.fabric := rfl
@[simp] theorem updCore_wharf (s : State) (n : Nat) (f : Core → Core) : (updCore s n f).wharf = s.wharf := rfl
@[simp] theorem updCore_pod (s : State) (n : Nat) (f : Core → Core) : (updCore s n f).pod = s.pod := rfl
@[simp] theorem updCore_towpath (s : State) (n : Nat) (f : Core → Core) : (updCore s n f).towpath = s.towpath := rfl
@[simp] theorem updCore_nextKey (s : State) (n : Nat) (f : Core → Core) : (updCore s n f).nextKey = s.nextKey := rfl
@[simp] theorem updCore_hostReadback (s : State) (n : Nat) (f : Core → Core) : (updCore s n f).hostReadback = s.hostReadback := rfl
@[simp] theorem updCore_halted (s : State) (n : Nat) (f : Core → Core) : (updCore s n f).halted = s.halted := rfl

/-! ### updQuad -/

@[simp] theorem updQuad_cycle (s : State) (n : Nat) (f : Quad → Quad) : (updQuad s n f).cycle = s.cycle := rfl
@[simp] theorem updQuad_moves (s : State) (n : Nat) (f : Quad → Quad) : (updQuad s n f).moves = s.moves := rfl
@[simp] theorem updQuad_steps (s : State) (n : Nat) (f : Quad → Quad) : (updQuad s n f).steps = s.steps := rfl
@[simp] theorem updQuad_freeCtr (s : State) (n : Nat) (f : Quad → Quad) : (updQuad s n f).freeCtr = s.freeCtr := rfl
@[simp] theorem updQuad_opSeq (s : State) (n : Nat) (f : Quad → Quad) : (updQuad s n f).opSeq = s.opSeq := rfl
@[simp] theorem updQuad_c (s : State) (n : Nat) (f : Quad → Quad) : (updQuad s n f).c = s.c := rfl
@[simp] theorem updQuad_w (s : State) (n : Nat) (f : Quad → Quad) : (updQuad s n f).w = s.w := rfl
@[simp] theorem updQuad_old (s : State) (n : Nat) (f : Quad → Quad) : (updQuad s n f).old = s.old := rfl
@[simp] theorem updQuad_iss (s : State) (n : Nat) (f : Quad → Quad) : (updQuad s n f).iss = s.iss := rfl
@[simp] theorem updQuad_crews (s : State) (n : Nat) (f : Quad → Quad) : (updQuad s n f).crews = s.crews := rfl
@[simp] theorem updQuad_frags (s : State) (n : Nat) (f : Quad → Quad) : (updQuad s n f).frags = s.frags := rfl
@[simp] theorem updQuad_nextCrew (s : State) (n : Nat) (f : Quad → Quad) : (updQuad s n f).nextCrew = s.nextCrew := rfl
@[simp] theorem updQuad_mem (s : State) (n : Nat) (f : Quad → Quad) : (updQuad s n f).mem = s.mem := rfl
@[simp] theorem updQuad_hostMem (s : State) (n : Nat) (f : Quad → Quad) : (updQuad s n f).hostMem = s.hostMem := rfl
@[simp] theorem updQuad_lines (s : State) (n : Nat) (f : Quad → Quad) : (updQuad s n f).lines = s.lines := rfl
@[simp] theorem updQuad_etime (s : State) (n : Nat) (f : Quad → Quad) : (updQuad s n f).etime = s.etime := rfl
@[simp] theorem updQuad_units (s : State) (n : Nat) (f : Quad → Quad) : (updQuad s n f).units = s.units := rfl
@[simp] theorem updQuad_poison (s : State) (n : Nat) (f : Quad → Quad) : (updQuad s n f).poison = s.poison := rfl
@[simp] theorem updQuad_owners (s : State) (n : Nat) (f : Quad → Quad) : (updQuad s n f).owners = s.owners := rfl
@[simp] theorem updQuad_armed (s : State) (n : Nat) (f : Quad → Quad) : (updQuad s n f).armed = s.armed := rfl
@[simp] theorem updQuad_cores (s : State) (n : Nat) (f : Quad → Quad) : (updQuad s n f).cores = s.cores := rfl
@[simp] theorem updQuad_bays (s : State) (n : Nat) (f : Quad → Quad) : (updQuad s n f).bays = s.bays := rfl
@[simp] theorem updQuad_dies (s : State) (n : Nat) (f : Quad → Quad) : (updQuad s n f).dies = s.dies := rfl
@[simp] theorem updQuad_stripe (s : State) (n : Nat) (f : Quad → Quad) : (updQuad s n f).stripe = s.stripe := rfl
@[simp] theorem updQuad_elect (s : State) (n : Nat) (f : Quad → Quad) : (updQuad s n f).elect = s.elect := rfl
@[simp] theorem updQuad_vfs (s : State) (n : Nat) (f : Quad → Quad) : (updQuad s n f).vfs = s.vfs := rfl
@[simp] theorem updQuad_launches (s : State) (n : Nat) (f : Quad → Quad) : (updQuad s n f).launches = s.launches := rfl
@[simp] theorem updQuad_nextLaunch (s : State) (n : Nat) (f : Quad → Quad) : (updQuad s n f).nextLaunch = s.nextLaunch := rfl
@[simp] theorem updQuad_lastVf (s : State) (n : Nat) (f : Quad → Quad) : (updQuad s n f).lastVf = s.lastVf := rfl
@[simp] theorem updQuad_slice (s : State) (n : Nat) (f : Quad → Quad) : (updQuad s n f).slice = s.slice := rfl
@[simp] theorem updQuad_tslen (s : State) (n : Nat) (f : Quad → Quad) : (updQuad s n f).tslen = s.tslen := rfl
@[simp] theorem updQuad_drGo (s : State) (n : Nat) (f : Quad → Quad) : (updQuad s n f).drGo = s.drGo := rfl
@[simp] theorem updQuad_drRun (s : State) (n : Nat) (f : Quad → Quad) : (updQuad s n f).drRun = s.drRun := rfl
@[simp] theorem updQuad_drOp (s : State) (n : Nat) (f : Quad → Quad) : (updQuad s n f).drOp = s.drOp := rfl
@[simp] theorem updQuad_drDie (s : State) (n : Nat) (f : Quad → Quad) : (updQuad s n f).drDie = s.drDie := rfl
@[simp] theorem updQuad_dcap (s : State) (n : Nat) (f : Quad → Quad) : (updQuad s n f).dcap = s.dcap := rfl
@[simp] theorem updQuad_fabric (s : State) (n : Nat) (f : Quad → Quad) : (updQuad s n f).fabric = s.fabric := rfl
@[simp] theorem updQuad_wharf (s : State) (n : Nat) (f : Quad → Quad) : (updQuad s n f).wharf = s.wharf := rfl
@[simp] theorem updQuad_pod (s : State) (n : Nat) (f : Quad → Quad) : (updQuad s n f).pod = s.pod := rfl
@[simp] theorem updQuad_towpath (s : State) (n : Nat) (f : Quad → Quad) : (updQuad s n f).towpath = s.towpath := rfl
@[simp] theorem updQuad_nextKey (s : State) (n : Nat) (f : Quad → Quad) : (updQuad s n f).nextKey = s.nextKey := rfl
@[simp] theorem updQuad_hostReadback (s : State) (n : Nat) (f : Quad → Quad) : (updQuad s n f).hostReadback = s.hostReadback := rfl
@[simp] theorem updQuad_halted (s : State) (n : Nat) (f : Quad → Quad) : (updQuad s n f).halted = s.halted := rfl

/-! ### updBay -/

@[simp] theorem updBay_cycle (s : State) (n : Nat) (f : Bay → Bay) : (updBay s n f).cycle = s.cycle := rfl
@[simp] theorem updBay_moves (s : State) (n : Nat) (f : Bay → Bay) : (updBay s n f).moves = s.moves := rfl
@[simp] theorem updBay_steps (s : State) (n : Nat) (f : Bay → Bay) : (updBay s n f).steps = s.steps := rfl
@[simp] theorem updBay_freeCtr (s : State) (n : Nat) (f : Bay → Bay) : (updBay s n f).freeCtr = s.freeCtr := rfl
@[simp] theorem updBay_opSeq (s : State) (n : Nat) (f : Bay → Bay) : (updBay s n f).opSeq = s.opSeq := rfl
@[simp] theorem updBay_c (s : State) (n : Nat) (f : Bay → Bay) : (updBay s n f).c = s.c := rfl
@[simp] theorem updBay_w (s : State) (n : Nat) (f : Bay → Bay) : (updBay s n f).w = s.w := rfl
@[simp] theorem updBay_old (s : State) (n : Nat) (f : Bay → Bay) : (updBay s n f).old = s.old := rfl
@[simp] theorem updBay_iss (s : State) (n : Nat) (f : Bay → Bay) : (updBay s n f).iss = s.iss := rfl
@[simp] theorem updBay_crews (s : State) (n : Nat) (f : Bay → Bay) : (updBay s n f).crews = s.crews := rfl
@[simp] theorem updBay_frags (s : State) (n : Nat) (f : Bay → Bay) : (updBay s n f).frags = s.frags := rfl
@[simp] theorem updBay_nextCrew (s : State) (n : Nat) (f : Bay → Bay) : (updBay s n f).nextCrew = s.nextCrew := rfl
@[simp] theorem updBay_mem (s : State) (n : Nat) (f : Bay → Bay) : (updBay s n f).mem = s.mem := rfl
@[simp] theorem updBay_hostMem (s : State) (n : Nat) (f : Bay → Bay) : (updBay s n f).hostMem = s.hostMem := rfl
@[simp] theorem updBay_lines (s : State) (n : Nat) (f : Bay → Bay) : (updBay s n f).lines = s.lines := rfl
@[simp] theorem updBay_etime (s : State) (n : Nat) (f : Bay → Bay) : (updBay s n f).etime = s.etime := rfl
@[simp] theorem updBay_units (s : State) (n : Nat) (f : Bay → Bay) : (updBay s n f).units = s.units := rfl
@[simp] theorem updBay_poison (s : State) (n : Nat) (f : Bay → Bay) : (updBay s n f).poison = s.poison := rfl
@[simp] theorem updBay_owners (s : State) (n : Nat) (f : Bay → Bay) : (updBay s n f).owners = s.owners := rfl
@[simp] theorem updBay_armed (s : State) (n : Nat) (f : Bay → Bay) : (updBay s n f).armed = s.armed := rfl
@[simp] theorem updBay_cores (s : State) (n : Nat) (f : Bay → Bay) : (updBay s n f).cores = s.cores := rfl
@[simp] theorem updBay_quads (s : State) (n : Nat) (f : Bay → Bay) : (updBay s n f).quads = s.quads := rfl
@[simp] theorem updBay_dies (s : State) (n : Nat) (f : Bay → Bay) : (updBay s n f).dies = s.dies := rfl
@[simp] theorem updBay_stripe (s : State) (n : Nat) (f : Bay → Bay) : (updBay s n f).stripe = s.stripe := rfl
@[simp] theorem updBay_elect (s : State) (n : Nat) (f : Bay → Bay) : (updBay s n f).elect = s.elect := rfl
@[simp] theorem updBay_vfs (s : State) (n : Nat) (f : Bay → Bay) : (updBay s n f).vfs = s.vfs := rfl
@[simp] theorem updBay_launches (s : State) (n : Nat) (f : Bay → Bay) : (updBay s n f).launches = s.launches := rfl
@[simp] theorem updBay_nextLaunch (s : State) (n : Nat) (f : Bay → Bay) : (updBay s n f).nextLaunch = s.nextLaunch := rfl
@[simp] theorem updBay_lastVf (s : State) (n : Nat) (f : Bay → Bay) : (updBay s n f).lastVf = s.lastVf := rfl
@[simp] theorem updBay_slice (s : State) (n : Nat) (f : Bay → Bay) : (updBay s n f).slice = s.slice := rfl
@[simp] theorem updBay_tslen (s : State) (n : Nat) (f : Bay → Bay) : (updBay s n f).tslen = s.tslen := rfl
@[simp] theorem updBay_drGo (s : State) (n : Nat) (f : Bay → Bay) : (updBay s n f).drGo = s.drGo := rfl
@[simp] theorem updBay_drRun (s : State) (n : Nat) (f : Bay → Bay) : (updBay s n f).drRun = s.drRun := rfl
@[simp] theorem updBay_drOp (s : State) (n : Nat) (f : Bay → Bay) : (updBay s n f).drOp = s.drOp := rfl
@[simp] theorem updBay_drDie (s : State) (n : Nat) (f : Bay → Bay) : (updBay s n f).drDie = s.drDie := rfl
@[simp] theorem updBay_dcap (s : State) (n : Nat) (f : Bay → Bay) : (updBay s n f).dcap = s.dcap := rfl
@[simp] theorem updBay_fabric (s : State) (n : Nat) (f : Bay → Bay) : (updBay s n f).fabric = s.fabric := rfl
@[simp] theorem updBay_wharf (s : State) (n : Nat) (f : Bay → Bay) : (updBay s n f).wharf = s.wharf := rfl
@[simp] theorem updBay_pod (s : State) (n : Nat) (f : Bay → Bay) : (updBay s n f).pod = s.pod := rfl
@[simp] theorem updBay_towpath (s : State) (n : Nat) (f : Bay → Bay) : (updBay s n f).towpath = s.towpath := rfl
@[simp] theorem updBay_nextKey (s : State) (n : Nat) (f : Bay → Bay) : (updBay s n f).nextKey = s.nextKey := rfl
@[simp] theorem updBay_hostReadback (s : State) (n : Nat) (f : Bay → Bay) : (updBay s n f).hostReadback = s.hostReadback := rfl
@[simp] theorem updBay_halted (s : State) (n : Nat) (f : Bay → Bay) : (updBay s n f).halted = s.halted := rfl

/-! ### updDie -/

@[simp] theorem updDie_cycle (s : State) (n : Nat) (f : Die → Die) : (updDie s n f).cycle = s.cycle := rfl
@[simp] theorem updDie_moves (s : State) (n : Nat) (f : Die → Die) : (updDie s n f).moves = s.moves := rfl
@[simp] theorem updDie_steps (s : State) (n : Nat) (f : Die → Die) : (updDie s n f).steps = s.steps := rfl
@[simp] theorem updDie_freeCtr (s : State) (n : Nat) (f : Die → Die) : (updDie s n f).freeCtr = s.freeCtr := rfl
@[simp] theorem updDie_opSeq (s : State) (n : Nat) (f : Die → Die) : (updDie s n f).opSeq = s.opSeq := rfl
@[simp] theorem updDie_c (s : State) (n : Nat) (f : Die → Die) : (updDie s n f).c = s.c := rfl
@[simp] theorem updDie_w (s : State) (n : Nat) (f : Die → Die) : (updDie s n f).w = s.w := rfl
@[simp] theorem updDie_old (s : State) (n : Nat) (f : Die → Die) : (updDie s n f).old = s.old := rfl
@[simp] theorem updDie_iss (s : State) (n : Nat) (f : Die → Die) : (updDie s n f).iss = s.iss := rfl
@[simp] theorem updDie_crews (s : State) (n : Nat) (f : Die → Die) : (updDie s n f).crews = s.crews := rfl
@[simp] theorem updDie_frags (s : State) (n : Nat) (f : Die → Die) : (updDie s n f).frags = s.frags := rfl
@[simp] theorem updDie_nextCrew (s : State) (n : Nat) (f : Die → Die) : (updDie s n f).nextCrew = s.nextCrew := rfl
@[simp] theorem updDie_mem (s : State) (n : Nat) (f : Die → Die) : (updDie s n f).mem = s.mem := rfl
@[simp] theorem updDie_hostMem (s : State) (n : Nat) (f : Die → Die) : (updDie s n f).hostMem = s.hostMem := rfl
@[simp] theorem updDie_lines (s : State) (n : Nat) (f : Die → Die) : (updDie s n f).lines = s.lines := rfl
@[simp] theorem updDie_etime (s : State) (n : Nat) (f : Die → Die) : (updDie s n f).etime = s.etime := rfl
@[simp] theorem updDie_units (s : State) (n : Nat) (f : Die → Die) : (updDie s n f).units = s.units := rfl
@[simp] theorem updDie_poison (s : State) (n : Nat) (f : Die → Die) : (updDie s n f).poison = s.poison := rfl
@[simp] theorem updDie_owners (s : State) (n : Nat) (f : Die → Die) : (updDie s n f).owners = s.owners := rfl
@[simp] theorem updDie_armed (s : State) (n : Nat) (f : Die → Die) : (updDie s n f).armed = s.armed := rfl
@[simp] theorem updDie_cores (s : State) (n : Nat) (f : Die → Die) : (updDie s n f).cores = s.cores := rfl
@[simp] theorem updDie_quads (s : State) (n : Nat) (f : Die → Die) : (updDie s n f).quads = s.quads := rfl
@[simp] theorem updDie_bays (s : State) (n : Nat) (f : Die → Die) : (updDie s n f).bays = s.bays := rfl
@[simp] theorem updDie_stripe (s : State) (n : Nat) (f : Die → Die) : (updDie s n f).stripe = s.stripe := rfl
@[simp] theorem updDie_elect (s : State) (n : Nat) (f : Die → Die) : (updDie s n f).elect = s.elect := rfl
@[simp] theorem updDie_vfs (s : State) (n : Nat) (f : Die → Die) : (updDie s n f).vfs = s.vfs := rfl
@[simp] theorem updDie_launches (s : State) (n : Nat) (f : Die → Die) : (updDie s n f).launches = s.launches := rfl
@[simp] theorem updDie_nextLaunch (s : State) (n : Nat) (f : Die → Die) : (updDie s n f).nextLaunch = s.nextLaunch := rfl
@[simp] theorem updDie_lastVf (s : State) (n : Nat) (f : Die → Die) : (updDie s n f).lastVf = s.lastVf := rfl
@[simp] theorem updDie_slice (s : State) (n : Nat) (f : Die → Die) : (updDie s n f).slice = s.slice := rfl
@[simp] theorem updDie_tslen (s : State) (n : Nat) (f : Die → Die) : (updDie s n f).tslen = s.tslen := rfl
@[simp] theorem updDie_drGo (s : State) (n : Nat) (f : Die → Die) : (updDie s n f).drGo = s.drGo := rfl
@[simp] theorem updDie_drRun (s : State) (n : Nat) (f : Die → Die) : (updDie s n f).drRun = s.drRun := rfl
@[simp] theorem updDie_drOp (s : State) (n : Nat) (f : Die → Die) : (updDie s n f).drOp = s.drOp := rfl
@[simp] theorem updDie_drDie (s : State) (n : Nat) (f : Die → Die) : (updDie s n f).drDie = s.drDie := rfl
@[simp] theorem updDie_dcap (s : State) (n : Nat) (f : Die → Die) : (updDie s n f).dcap = s.dcap := rfl
@[simp] theorem updDie_fabric (s : State) (n : Nat) (f : Die → Die) : (updDie s n f).fabric = s.fabric := rfl
@[simp] theorem updDie_wharf (s : State) (n : Nat) (f : Die → Die) : (updDie s n f).wharf = s.wharf := rfl
@[simp] theorem updDie_pod (s : State) (n : Nat) (f : Die → Die) : (updDie s n f).pod = s.pod := rfl
@[simp] theorem updDie_towpath (s : State) (n : Nat) (f : Die → Die) : (updDie s n f).towpath = s.towpath := rfl
@[simp] theorem updDie_nextKey (s : State) (n : Nat) (f : Die → Die) : (updDie s n f).nextKey = s.nextKey := rfl
@[simp] theorem updDie_hostReadback (s : State) (n : Nat) (f : Die → Die) : (updDie s n f).hostReadback = s.hostReadback := rfl
@[simp] theorem updDie_halted (s : State) (n : Nat) (f : Die → Die) : (updDie s n f).halted = s.halted := rfl

/-! ### updVf -/

@[simp] theorem updVf_cycle (s : State) (n : Nat) (f : Vf → Vf) : (updVf s n f).cycle = s.cycle := rfl
@[simp] theorem updVf_moves (s : State) (n : Nat) (f : Vf → Vf) : (updVf s n f).moves = s.moves := rfl
@[simp] theorem updVf_steps (s : State) (n : Nat) (f : Vf → Vf) : (updVf s n f).steps = s.steps := rfl
@[simp] theorem updVf_freeCtr (s : State) (n : Nat) (f : Vf → Vf) : (updVf s n f).freeCtr = s.freeCtr := rfl
@[simp] theorem updVf_opSeq (s : State) (n : Nat) (f : Vf → Vf) : (updVf s n f).opSeq = s.opSeq := rfl
@[simp] theorem updVf_c (s : State) (n : Nat) (f : Vf → Vf) : (updVf s n f).c = s.c := rfl
@[simp] theorem updVf_w (s : State) (n : Nat) (f : Vf → Vf) : (updVf s n f).w = s.w := rfl
@[simp] theorem updVf_old (s : State) (n : Nat) (f : Vf → Vf) : (updVf s n f).old = s.old := rfl
@[simp] theorem updVf_iss (s : State) (n : Nat) (f : Vf → Vf) : (updVf s n f).iss = s.iss := rfl
@[simp] theorem updVf_crews (s : State) (n : Nat) (f : Vf → Vf) : (updVf s n f).crews = s.crews := rfl
@[simp] theorem updVf_frags (s : State) (n : Nat) (f : Vf → Vf) : (updVf s n f).frags = s.frags := rfl
@[simp] theorem updVf_nextCrew (s : State) (n : Nat) (f : Vf → Vf) : (updVf s n f).nextCrew = s.nextCrew := rfl
@[simp] theorem updVf_mem (s : State) (n : Nat) (f : Vf → Vf) : (updVf s n f).mem = s.mem := rfl
@[simp] theorem updVf_hostMem (s : State) (n : Nat) (f : Vf → Vf) : (updVf s n f).hostMem = s.hostMem := rfl
@[simp] theorem updVf_lines (s : State) (n : Nat) (f : Vf → Vf) : (updVf s n f).lines = s.lines := rfl
@[simp] theorem updVf_etime (s : State) (n : Nat) (f : Vf → Vf) : (updVf s n f).etime = s.etime := rfl
@[simp] theorem updVf_units (s : State) (n : Nat) (f : Vf → Vf) : (updVf s n f).units = s.units := rfl
@[simp] theorem updVf_poison (s : State) (n : Nat) (f : Vf → Vf) : (updVf s n f).poison = s.poison := rfl
@[simp] theorem updVf_owners (s : State) (n : Nat) (f : Vf → Vf) : (updVf s n f).owners = s.owners := rfl
@[simp] theorem updVf_armed (s : State) (n : Nat) (f : Vf → Vf) : (updVf s n f).armed = s.armed := rfl
@[simp] theorem updVf_cores (s : State) (n : Nat) (f : Vf → Vf) : (updVf s n f).cores = s.cores := rfl
@[simp] theorem updVf_quads (s : State) (n : Nat) (f : Vf → Vf) : (updVf s n f).quads = s.quads := rfl
@[simp] theorem updVf_bays (s : State) (n : Nat) (f : Vf → Vf) : (updVf s n f).bays = s.bays := rfl
@[simp] theorem updVf_dies (s : State) (n : Nat) (f : Vf → Vf) : (updVf s n f).dies = s.dies := rfl
@[simp] theorem updVf_stripe (s : State) (n : Nat) (f : Vf → Vf) : (updVf s n f).stripe = s.stripe := rfl
@[simp] theorem updVf_elect (s : State) (n : Nat) (f : Vf → Vf) : (updVf s n f).elect = s.elect := rfl
@[simp] theorem updVf_launches (s : State) (n : Nat) (f : Vf → Vf) : (updVf s n f).launches = s.launches := rfl
@[simp] theorem updVf_nextLaunch (s : State) (n : Nat) (f : Vf → Vf) : (updVf s n f).nextLaunch = s.nextLaunch := rfl
@[simp] theorem updVf_lastVf (s : State) (n : Nat) (f : Vf → Vf) : (updVf s n f).lastVf = s.lastVf := rfl
@[simp] theorem updVf_slice (s : State) (n : Nat) (f : Vf → Vf) : (updVf s n f).slice = s.slice := rfl
@[simp] theorem updVf_tslen (s : State) (n : Nat) (f : Vf → Vf) : (updVf s n f).tslen = s.tslen := rfl
@[simp] theorem updVf_drGo (s : State) (n : Nat) (f : Vf → Vf) : (updVf s n f).drGo = s.drGo := rfl
@[simp] theorem updVf_drRun (s : State) (n : Nat) (f : Vf → Vf) : (updVf s n f).drRun = s.drRun := rfl
@[simp] theorem updVf_drOp (s : State) (n : Nat) (f : Vf → Vf) : (updVf s n f).drOp = s.drOp := rfl
@[simp] theorem updVf_drDie (s : State) (n : Nat) (f : Vf → Vf) : (updVf s n f).drDie = s.drDie := rfl
@[simp] theorem updVf_dcap (s : State) (n : Nat) (f : Vf → Vf) : (updVf s n f).dcap = s.dcap := rfl
@[simp] theorem updVf_fabric (s : State) (n : Nat) (f : Vf → Vf) : (updVf s n f).fabric = s.fabric := rfl
@[simp] theorem updVf_wharf (s : State) (n : Nat) (f : Vf → Vf) : (updVf s n f).wharf = s.wharf := rfl
@[simp] theorem updVf_pod (s : State) (n : Nat) (f : Vf → Vf) : (updVf s n f).pod = s.pod := rfl
@[simp] theorem updVf_towpath (s : State) (n : Nat) (f : Vf → Vf) : (updVf s n f).towpath = s.towpath := rfl
@[simp] theorem updVf_nextKey (s : State) (n : Nat) (f : Vf → Vf) : (updVf s n f).nextKey = s.nextKey := rfl
@[simp] theorem updVf_hostReadback (s : State) (n : Nat) (f : Vf → Vf) : (updVf s n f).hostReadback = s.hostReadback := rfl
@[simp] theorem updVf_halted (s : State) (n : Nat) (f : Vf → Vf) : (updVf s n f).halted = s.halted := rfl

/-! ### spread -/

@[simp] theorem spread_cycle (s : State) (ks : List Crew) : (spread s ks).cycle = s.cycle := by unfold spread; split <;> rfl
@[simp] theorem spread_moves (s : State) (ks : List Crew) : (spread s ks).moves = s.moves := by unfold spread; split <;> rfl
@[simp] theorem spread_steps (s : State) (ks : List Crew) : (spread s ks).steps = s.steps := by unfold spread; split <;> rfl
@[simp] theorem spread_freeCtr (s : State) (ks : List Crew) : (spread s ks).freeCtr = s.freeCtr := by unfold spread; split <;> rfl
@[simp] theorem spread_opSeq (s : State) (ks : List Crew) : (spread s ks).opSeq = s.opSeq := by unfold spread; split <;> rfl
@[simp] theorem spread_old (s : State) (ks : List Crew) : (spread s ks).old = s.old := by unfold spread; split <;> rfl
@[simp] theorem spread_iss (s : State) (ks : List Crew) : (spread s ks).iss = s.iss := by unfold spread; split <;> rfl
@[simp] theorem spread_frags (s : State) (ks : List Crew) : (spread s ks).frags = s.frags := by unfold spread; split <;> rfl
@[simp] theorem spread_nextCrew (s : State) (ks : List Crew) : (spread s ks).nextCrew = s.nextCrew := by unfold spread; split <;> rfl
@[simp] theorem spread_mem (s : State) (ks : List Crew) : (spread s ks).mem = s.mem := by unfold spread; split <;> rfl
@[simp] theorem spread_hostMem (s : State) (ks : List Crew) : (spread s ks).hostMem = s.hostMem := by unfold spread; split <;> rfl
@[simp] theorem spread_lines (s : State) (ks : List Crew) : (spread s ks).lines = s.lines := by unfold spread; split <;> rfl
@[simp] theorem spread_etime (s : State) (ks : List Crew) : (spread s ks).etime = s.etime := by unfold spread; split <;> rfl
@[simp] theorem spread_units (s : State) (ks : List Crew) : (spread s ks).units = s.units := by unfold spread; split <;> rfl
@[simp] theorem spread_poison (s : State) (ks : List Crew) : (spread s ks).poison = s.poison := by unfold spread; split <;> rfl
@[simp] theorem spread_owners (s : State) (ks : List Crew) : (spread s ks).owners = s.owners := by unfold spread; split <;> rfl
@[simp] theorem spread_armed (s : State) (ks : List Crew) : (spread s ks).armed = s.armed := by unfold spread; split <;> rfl
@[simp] theorem spread_cores (s : State) (ks : List Crew) : (spread s ks).cores = s.cores := by unfold spread; split <;> rfl
@[simp] theorem spread_quads (s : State) (ks : List Crew) : (spread s ks).quads = s.quads := by unfold spread; split <;> rfl
@[simp] theorem spread_bays (s : State) (ks : List Crew) : (spread s ks).bays = s.bays := by unfold spread; split <;> rfl
@[simp] theorem spread_dies (s : State) (ks : List Crew) : (spread s ks).dies = s.dies := by unfold spread; split <;> rfl
@[simp] theorem spread_stripe (s : State) (ks : List Crew) : (spread s ks).stripe = s.stripe := by unfold spread; split <;> rfl
@[simp] theorem spread_elect (s : State) (ks : List Crew) : (spread s ks).elect = s.elect := by unfold spread; split <;> rfl
@[simp] theorem spread_vfs (s : State) (ks : List Crew) : (spread s ks).vfs = s.vfs := by unfold spread; split <;> rfl
@[simp] theorem spread_launches (s : State) (ks : List Crew) : (spread s ks).launches = s.launches := by unfold spread; split <;> rfl
@[simp] theorem spread_nextLaunch (s : State) (ks : List Crew) : (spread s ks).nextLaunch = s.nextLaunch := by unfold spread; split <;> rfl
@[simp] theorem spread_lastVf (s : State) (ks : List Crew) : (spread s ks).lastVf = s.lastVf := by unfold spread; split <;> rfl
@[simp] theorem spread_slice (s : State) (ks : List Crew) : (spread s ks).slice = s.slice := by unfold spread; split <;> rfl
@[simp] theorem spread_tslen (s : State) (ks : List Crew) : (spread s ks).tslen = s.tslen := by unfold spread; split <;> rfl
@[simp] theorem spread_drGo (s : State) (ks : List Crew) : (spread s ks).drGo = s.drGo := by unfold spread; split <;> rfl
@[simp] theorem spread_drRun (s : State) (ks : List Crew) : (spread s ks).drRun = s.drRun := by unfold spread; split <;> rfl
@[simp] theorem spread_drOp (s : State) (ks : List Crew) : (spread s ks).drOp = s.drOp := by unfold spread; split <;> rfl
@[simp] theorem spread_drDie (s : State) (ks : List Crew) : (spread s ks).drDie = s.drDie := by unfold spread; split <;> rfl
@[simp] theorem spread_dcap (s : State) (ks : List Crew) : (spread s ks).dcap = s.dcap := by unfold spread; split <;> rfl
@[simp] theorem spread_fabric (s : State) (ks : List Crew) : (spread s ks).fabric = s.fabric := by unfold spread; split <;> rfl
@[simp] theorem spread_wharf (s : State) (ks : List Crew) : (spread s ks).wharf = s.wharf := by unfold spread; split <;> rfl
@[simp] theorem spread_pod (s : State) (ks : List Crew) : (spread s ks).pod = s.pod := by unfold spread; split <;> rfl
@[simp] theorem spread_towpath (s : State) (ks : List Crew) : (spread s ks).towpath = s.towpath := by unfold spread; split <;> rfl
@[simp] theorem spread_nextKey (s : State) (ks : List Crew) : (spread s ks).nextKey = s.nextKey := by unfold spread; split <;> rfl
@[simp] theorem spread_hostReadback (s : State) (ks : List Crew) : (spread s ks).hostReadback = s.hostReadback := by unfold spread; split <;> rfl
@[simp] theorem spread_halted (s : State) (ks : List Crew) : (spread s ks).halted = s.halted := by unfold spread; split <;> rfl

/-! ### mapCrews -/

@[simp] theorem mapCrews_cycle (s : State) (f : Crew → Crew) : (mapCrews s f).cycle = s.cycle := by unfold mapCrews; simp
@[simp] theorem mapCrews_moves (s : State) (f : Crew → Crew) : (mapCrews s f).moves = s.moves := by unfold mapCrews; simp
@[simp] theorem mapCrews_steps (s : State) (f : Crew → Crew) : (mapCrews s f).steps = s.steps := by unfold mapCrews; simp
@[simp] theorem mapCrews_freeCtr (s : State) (f : Crew → Crew) : (mapCrews s f).freeCtr = s.freeCtr := by unfold mapCrews; simp
@[simp] theorem mapCrews_opSeq (s : State) (f : Crew → Crew) : (mapCrews s f).opSeq = s.opSeq := by unfold mapCrews; simp
@[simp] theorem mapCrews_old (s : State) (f : Crew → Crew) : (mapCrews s f).old = s.old := by unfold mapCrews; simp
@[simp] theorem mapCrews_iss (s : State) (f : Crew → Crew) : (mapCrews s f).iss = s.iss := by unfold mapCrews; simp
@[simp] theorem mapCrews_frags (s : State) (f : Crew → Crew) : (mapCrews s f).frags = s.frags := by unfold mapCrews; simp
@[simp] theorem mapCrews_nextCrew (s : State) (f : Crew → Crew) : (mapCrews s f).nextCrew = s.nextCrew := by unfold mapCrews; simp
@[simp] theorem mapCrews_mem (s : State) (f : Crew → Crew) : (mapCrews s f).mem = s.mem := by unfold mapCrews; simp
@[simp] theorem mapCrews_hostMem (s : State) (f : Crew → Crew) : (mapCrews s f).hostMem = s.hostMem := by unfold mapCrews; simp
@[simp] theorem mapCrews_lines (s : State) (f : Crew → Crew) : (mapCrews s f).lines = s.lines := by unfold mapCrews; simp
@[simp] theorem mapCrews_etime (s : State) (f : Crew → Crew) : (mapCrews s f).etime = s.etime := by unfold mapCrews; simp
@[simp] theorem mapCrews_units (s : State) (f : Crew → Crew) : (mapCrews s f).units = s.units := by unfold mapCrews; simp
@[simp] theorem mapCrews_poison (s : State) (f : Crew → Crew) : (mapCrews s f).poison = s.poison := by unfold mapCrews; simp
@[simp] theorem mapCrews_owners (s : State) (f : Crew → Crew) : (mapCrews s f).owners = s.owners := by unfold mapCrews; simp
@[simp] theorem mapCrews_armed (s : State) (f : Crew → Crew) : (mapCrews s f).armed = s.armed := by unfold mapCrews; simp
@[simp] theorem mapCrews_cores (s : State) (f : Crew → Crew) : (mapCrews s f).cores = s.cores := by unfold mapCrews; simp
@[simp] theorem mapCrews_quads (s : State) (f : Crew → Crew) : (mapCrews s f).quads = s.quads := by unfold mapCrews; simp
@[simp] theorem mapCrews_bays (s : State) (f : Crew → Crew) : (mapCrews s f).bays = s.bays := by unfold mapCrews; simp
@[simp] theorem mapCrews_dies (s : State) (f : Crew → Crew) : (mapCrews s f).dies = s.dies := by unfold mapCrews; simp
@[simp] theorem mapCrews_stripe (s : State) (f : Crew → Crew) : (mapCrews s f).stripe = s.stripe := by unfold mapCrews; simp
@[simp] theorem mapCrews_elect (s : State) (f : Crew → Crew) : (mapCrews s f).elect = s.elect := by unfold mapCrews; simp
@[simp] theorem mapCrews_vfs (s : State) (f : Crew → Crew) : (mapCrews s f).vfs = s.vfs := by unfold mapCrews; simp
@[simp] theorem mapCrews_launches (s : State) (f : Crew → Crew) : (mapCrews s f).launches = s.launches := by unfold mapCrews; simp
@[simp] theorem mapCrews_nextLaunch (s : State) (f : Crew → Crew) : (mapCrews s f).nextLaunch = s.nextLaunch := by unfold mapCrews; simp
@[simp] theorem mapCrews_lastVf (s : State) (f : Crew → Crew) : (mapCrews s f).lastVf = s.lastVf := by unfold mapCrews; simp
@[simp] theorem mapCrews_slice (s : State) (f : Crew → Crew) : (mapCrews s f).slice = s.slice := by unfold mapCrews; simp
@[simp] theorem mapCrews_tslen (s : State) (f : Crew → Crew) : (mapCrews s f).tslen = s.tslen := by unfold mapCrews; simp
@[simp] theorem mapCrews_drGo (s : State) (f : Crew → Crew) : (mapCrews s f).drGo = s.drGo := by unfold mapCrews; simp
@[simp] theorem mapCrews_drRun (s : State) (f : Crew → Crew) : (mapCrews s f).drRun = s.drRun := by unfold mapCrews; simp
@[simp] theorem mapCrews_drOp (s : State) (f : Crew → Crew) : (mapCrews s f).drOp = s.drOp := by unfold mapCrews; simp
@[simp] theorem mapCrews_drDie (s : State) (f : Crew → Crew) : (mapCrews s f).drDie = s.drDie := by unfold mapCrews; simp
@[simp] theorem mapCrews_dcap (s : State) (f : Crew → Crew) : (mapCrews s f).dcap = s.dcap := by unfold mapCrews; simp
@[simp] theorem mapCrews_fabric (s : State) (f : Crew → Crew) : (mapCrews s f).fabric = s.fabric := by unfold mapCrews; simp
@[simp] theorem mapCrews_wharf (s : State) (f : Crew → Crew) : (mapCrews s f).wharf = s.wharf := by unfold mapCrews; simp
@[simp] theorem mapCrews_pod (s : State) (f : Crew → Crew) : (mapCrews s f).pod = s.pod := by unfold mapCrews; simp
@[simp] theorem mapCrews_towpath (s : State) (f : Crew → Crew) : (mapCrews s f).towpath = s.towpath := by unfold mapCrews; simp
@[simp] theorem mapCrews_nextKey (s : State) (f : Crew → Crew) : (mapCrews s f).nextKey = s.nextKey := by unfold mapCrews; simp
@[simp] theorem mapCrews_hostReadback (s : State) (f : Crew → Crew) : (mapCrews s f).hostReadback = s.hostReadback := by unfold mapCrews; simp
@[simp] theorem mapCrews_halted (s : State) (f : Crew → Crew) : (mapCrews s f).halted = s.halted := by unfold mapCrews; simp

/-! ### updWarp -/

@[simp] theorem updWarp_cycle (s : State) (c x : Nat) (f : Warp → Warp) : (updWarp s c x f).cycle = s.cycle := by unfold updWarp; simp
@[simp] theorem updWarp_moves (s : State) (c x : Nat) (f : Warp → Warp) : (updWarp s c x f).moves = s.moves := by unfold updWarp; simp
@[simp] theorem updWarp_steps (s : State) (c x : Nat) (f : Warp → Warp) : (updWarp s c x f).steps = s.steps := by unfold updWarp; simp
@[simp] theorem updWarp_freeCtr (s : State) (c x : Nat) (f : Warp → Warp) : (updWarp s c x f).freeCtr = s.freeCtr := by unfold updWarp; simp
@[simp] theorem updWarp_opSeq (s : State) (c x : Nat) (f : Warp → Warp) : (updWarp s c x f).opSeq = s.opSeq := by unfold updWarp; simp
@[simp] theorem updWarp_old (s : State) (c x : Nat) (f : Warp → Warp) : (updWarp s c x f).old = s.old := by unfold updWarp; simp
@[simp] theorem updWarp_iss (s : State) (c x : Nat) (f : Warp → Warp) : (updWarp s c x f).iss = s.iss := by unfold updWarp; simp
@[simp] theorem updWarp_frags (s : State) (c x : Nat) (f : Warp → Warp) : (updWarp s c x f).frags = s.frags := by unfold updWarp; simp
@[simp] theorem updWarp_nextCrew (s : State) (c x : Nat) (f : Warp → Warp) : (updWarp s c x f).nextCrew = s.nextCrew := by unfold updWarp; simp
@[simp] theorem updWarp_mem (s : State) (c x : Nat) (f : Warp → Warp) : (updWarp s c x f).mem = s.mem := by unfold updWarp; simp
@[simp] theorem updWarp_hostMem (s : State) (c x : Nat) (f : Warp → Warp) : (updWarp s c x f).hostMem = s.hostMem := by unfold updWarp; simp
@[simp] theorem updWarp_lines (s : State) (c x : Nat) (f : Warp → Warp) : (updWarp s c x f).lines = s.lines := by unfold updWarp; simp
@[simp] theorem updWarp_etime (s : State) (c x : Nat) (f : Warp → Warp) : (updWarp s c x f).etime = s.etime := by unfold updWarp; simp
@[simp] theorem updWarp_units (s : State) (c x : Nat) (f : Warp → Warp) : (updWarp s c x f).units = s.units := by unfold updWarp; simp
@[simp] theorem updWarp_poison (s : State) (c x : Nat) (f : Warp → Warp) : (updWarp s c x f).poison = s.poison := by unfold updWarp; simp
@[simp] theorem updWarp_owners (s : State) (c x : Nat) (f : Warp → Warp) : (updWarp s c x f).owners = s.owners := by unfold updWarp; simp
@[simp] theorem updWarp_armed (s : State) (c x : Nat) (f : Warp → Warp) : (updWarp s c x f).armed = s.armed := by unfold updWarp; simp
@[simp] theorem updWarp_cores (s : State) (c x : Nat) (f : Warp → Warp) : (updWarp s c x f).cores = s.cores := by unfold updWarp; simp
@[simp] theorem updWarp_quads (s : State) (c x : Nat) (f : Warp → Warp) : (updWarp s c x f).quads = s.quads := by unfold updWarp; simp
@[simp] theorem updWarp_bays (s : State) (c x : Nat) (f : Warp → Warp) : (updWarp s c x f).bays = s.bays := by unfold updWarp; simp
@[simp] theorem updWarp_dies (s : State) (c x : Nat) (f : Warp → Warp) : (updWarp s c x f).dies = s.dies := by unfold updWarp; simp
@[simp] theorem updWarp_stripe (s : State) (c x : Nat) (f : Warp → Warp) : (updWarp s c x f).stripe = s.stripe := by unfold updWarp; simp
@[simp] theorem updWarp_elect (s : State) (c x : Nat) (f : Warp → Warp) : (updWarp s c x f).elect = s.elect := by unfold updWarp; simp
@[simp] theorem updWarp_vfs (s : State) (c x : Nat) (f : Warp → Warp) : (updWarp s c x f).vfs = s.vfs := by unfold updWarp; simp
@[simp] theorem updWarp_launches (s : State) (c x : Nat) (f : Warp → Warp) : (updWarp s c x f).launches = s.launches := by unfold updWarp; simp
@[simp] theorem updWarp_nextLaunch (s : State) (c x : Nat) (f : Warp → Warp) : (updWarp s c x f).nextLaunch = s.nextLaunch := by unfold updWarp; simp
@[simp] theorem updWarp_lastVf (s : State) (c x : Nat) (f : Warp → Warp) : (updWarp s c x f).lastVf = s.lastVf := by unfold updWarp; simp
@[simp] theorem updWarp_slice (s : State) (c x : Nat) (f : Warp → Warp) : (updWarp s c x f).slice = s.slice := by unfold updWarp; simp
@[simp] theorem updWarp_tslen (s : State) (c x : Nat) (f : Warp → Warp) : (updWarp s c x f).tslen = s.tslen := by unfold updWarp; simp
@[simp] theorem updWarp_drGo (s : State) (c x : Nat) (f : Warp → Warp) : (updWarp s c x f).drGo = s.drGo := by unfold updWarp; simp
@[simp] theorem updWarp_drRun (s : State) (c x : Nat) (f : Warp → Warp) : (updWarp s c x f).drRun = s.drRun := by unfold updWarp; simp
@[simp] theorem updWarp_drOp (s : State) (c x : Nat) (f : Warp → Warp) : (updWarp s c x f).drOp = s.drOp := by unfold updWarp; simp
@[simp] theorem updWarp_drDie (s : State) (c x : Nat) (f : Warp → Warp) : (updWarp s c x f).drDie = s.drDie := by unfold updWarp; simp
@[simp] theorem updWarp_dcap (s : State) (c x : Nat) (f : Warp → Warp) : (updWarp s c x f).dcap = s.dcap := by unfold updWarp; simp
@[simp] theorem updWarp_fabric (s : State) (c x : Nat) (f : Warp → Warp) : (updWarp s c x f).fabric = s.fabric := by unfold updWarp; simp
@[simp] theorem updWarp_wharf (s : State) (c x : Nat) (f : Warp → Warp) : (updWarp s c x f).wharf = s.wharf := by unfold updWarp; simp
@[simp] theorem updWarp_pod (s : State) (c x : Nat) (f : Warp → Warp) : (updWarp s c x f).pod = s.pod := by unfold updWarp; simp
@[simp] theorem updWarp_towpath (s : State) (c x : Nat) (f : Warp → Warp) : (updWarp s c x f).towpath = s.towpath := by unfold updWarp; simp
@[simp] theorem updWarp_nextKey (s : State) (c x : Nat) (f : Warp → Warp) : (updWarp s c x f).nextKey = s.nextKey := by unfold updWarp; simp
@[simp] theorem updWarp_hostReadback (s : State) (c x : Nat) (f : Warp → Warp) : (updWarp s c x f).hostReadback = s.hostReadback := by unfold updWarp; simp
@[simp] theorem updWarp_halted (s : State) (c x : Nat) (f : Warp → Warp) : (updWarp s c x f).halted = s.halted := by unfold updWarp; simp

/-! ### addPend -/

@[simp] theorem addPend_cycle (s : State) (i : Instr) (ws : List RegWrite) (fl : BitVec 5) (fp : Bool) (n : Nat) (o : Bool) : (addPend s i ws fl fp n o).cycle = s.cycle := by unfold addPend; split <;> rfl
@[simp] theorem addPend_moves (s : State) (i : Instr) (ws : List RegWrite) (fl : BitVec 5) (fp : Bool) (n : Nat) (o : Bool) : (addPend s i ws fl fp n o).moves = s.moves := by unfold addPend; split <;> rfl
@[simp] theorem addPend_steps (s : State) (i : Instr) (ws : List RegWrite) (fl : BitVec 5) (fp : Bool) (n : Nat) (o : Bool) : (addPend s i ws fl fp n o).steps = s.steps := by unfold addPend; split <;> rfl
@[simp] theorem addPend_freeCtr (s : State) (i : Instr) (ws : List RegWrite) (fl : BitVec 5) (fp : Bool) (n : Nat) (o : Bool) : (addPend s i ws fl fp n o).freeCtr = s.freeCtr := by unfold addPend; split <;> rfl
@[simp] theorem addPend_opSeq (s : State) (i : Instr) (ws : List RegWrite) (fl : BitVec 5) (fp : Bool) (n : Nat) (o : Bool) : (addPend s i ws fl fp n o).opSeq = s.opSeq := by unfold addPend; split <;> rfl
@[simp] theorem addPend_c (s : State) (i : Instr) (ws : List RegWrite) (fl : BitVec 5) (fp : Bool) (n : Nat) (o : Bool) : (addPend s i ws fl fp n o).c = s.c := by unfold addPend; split <;> rfl
@[simp] theorem addPend_old (s : State) (i : Instr) (ws : List RegWrite) (fl : BitVec 5) (fp : Bool) (n : Nat) (o : Bool) : (addPend s i ws fl fp n o).old = s.old := by unfold addPend; split <;> rfl
@[simp] theorem addPend_iss (s : State) (i : Instr) (ws : List RegWrite) (fl : BitVec 5) (fp : Bool) (n : Nat) (o : Bool) : (addPend s i ws fl fp n o).iss = s.iss := by unfold addPend; split <;> rfl
@[simp] theorem addPend_crews (s : State) (i : Instr) (ws : List RegWrite) (fl : BitVec 5) (fp : Bool) (n : Nat) (o : Bool) : (addPend s i ws fl fp n o).crews = s.crews := by unfold addPend; split <;> rfl
@[simp] theorem addPend_frags (s : State) (i : Instr) (ws : List RegWrite) (fl : BitVec 5) (fp : Bool) (n : Nat) (o : Bool) : (addPend s i ws fl fp n o).frags = s.frags := by unfold addPend; split <;> rfl
@[simp] theorem addPend_nextCrew (s : State) (i : Instr) (ws : List RegWrite) (fl : BitVec 5) (fp : Bool) (n : Nat) (o : Bool) : (addPend s i ws fl fp n o).nextCrew = s.nextCrew := by unfold addPend; split <;> rfl
@[simp] theorem addPend_mem (s : State) (i : Instr) (ws : List RegWrite) (fl : BitVec 5) (fp : Bool) (n : Nat) (o : Bool) : (addPend s i ws fl fp n o).mem = s.mem := by unfold addPend; split <;> rfl
@[simp] theorem addPend_hostMem (s : State) (i : Instr) (ws : List RegWrite) (fl : BitVec 5) (fp : Bool) (n : Nat) (o : Bool) : (addPend s i ws fl fp n o).hostMem = s.hostMem := by unfold addPend; split <;> rfl
@[simp] theorem addPend_lines (s : State) (i : Instr) (ws : List RegWrite) (fl : BitVec 5) (fp : Bool) (n : Nat) (o : Bool) : (addPend s i ws fl fp n o).lines = s.lines := by unfold addPend; split <;> rfl
@[simp] theorem addPend_etime (s : State) (i : Instr) (ws : List RegWrite) (fl : BitVec 5) (fp : Bool) (n : Nat) (o : Bool) : (addPend s i ws fl fp n o).etime = s.etime := by unfold addPend; split <;> rfl
@[simp] theorem addPend_units (s : State) (i : Instr) (ws : List RegWrite) (fl : BitVec 5) (fp : Bool) (n : Nat) (o : Bool) : (addPend s i ws fl fp n o).units = s.units := by unfold addPend; split <;> rfl
@[simp] theorem addPend_poison (s : State) (i : Instr) (ws : List RegWrite) (fl : BitVec 5) (fp : Bool) (n : Nat) (o : Bool) : (addPend s i ws fl fp n o).poison = s.poison := by unfold addPend; split <;> rfl
@[simp] theorem addPend_owners (s : State) (i : Instr) (ws : List RegWrite) (fl : BitVec 5) (fp : Bool) (n : Nat) (o : Bool) : (addPend s i ws fl fp n o).owners = s.owners := by unfold addPend; split <;> rfl
@[simp] theorem addPend_armed (s : State) (i : Instr) (ws : List RegWrite) (fl : BitVec 5) (fp : Bool) (n : Nat) (o : Bool) : (addPend s i ws fl fp n o).armed = s.armed := by unfold addPend; split <;> rfl
@[simp] theorem addPend_cores (s : State) (i : Instr) (ws : List RegWrite) (fl : BitVec 5) (fp : Bool) (n : Nat) (o : Bool) : (addPend s i ws fl fp n o).cores = s.cores := by unfold addPend; split <;> rfl
@[simp] theorem addPend_quads (s : State) (i : Instr) (ws : List RegWrite) (fl : BitVec 5) (fp : Bool) (n : Nat) (o : Bool) : (addPend s i ws fl fp n o).quads = s.quads := by unfold addPend; split <;> rfl
@[simp] theorem addPend_bays (s : State) (i : Instr) (ws : List RegWrite) (fl : BitVec 5) (fp : Bool) (n : Nat) (o : Bool) : (addPend s i ws fl fp n o).bays = s.bays := by unfold addPend; split <;> rfl
@[simp] theorem addPend_dies (s : State) (i : Instr) (ws : List RegWrite) (fl : BitVec 5) (fp : Bool) (n : Nat) (o : Bool) : (addPend s i ws fl fp n o).dies = s.dies := by unfold addPend; split <;> rfl
@[simp] theorem addPend_stripe (s : State) (i : Instr) (ws : List RegWrite) (fl : BitVec 5) (fp : Bool) (n : Nat) (o : Bool) : (addPend s i ws fl fp n o).stripe = s.stripe := by unfold addPend; split <;> rfl
@[simp] theorem addPend_elect (s : State) (i : Instr) (ws : List RegWrite) (fl : BitVec 5) (fp : Bool) (n : Nat) (o : Bool) : (addPend s i ws fl fp n o).elect = s.elect := by unfold addPend; split <;> rfl
@[simp] theorem addPend_vfs (s : State) (i : Instr) (ws : List RegWrite) (fl : BitVec 5) (fp : Bool) (n : Nat) (o : Bool) : (addPend s i ws fl fp n o).vfs = s.vfs := by unfold addPend; split <;> rfl
@[simp] theorem addPend_launches (s : State) (i : Instr) (ws : List RegWrite) (fl : BitVec 5) (fp : Bool) (n : Nat) (o : Bool) : (addPend s i ws fl fp n o).launches = s.launches := by unfold addPend; split <;> rfl
@[simp] theorem addPend_nextLaunch (s : State) (i : Instr) (ws : List RegWrite) (fl : BitVec 5) (fp : Bool) (n : Nat) (o : Bool) : (addPend s i ws fl fp n o).nextLaunch = s.nextLaunch := by unfold addPend; split <;> rfl
@[simp] theorem addPend_lastVf (s : State) (i : Instr) (ws : List RegWrite) (fl : BitVec 5) (fp : Bool) (n : Nat) (o : Bool) : (addPend s i ws fl fp n o).lastVf = s.lastVf := by unfold addPend; split <;> rfl
@[simp] theorem addPend_slice (s : State) (i : Instr) (ws : List RegWrite) (fl : BitVec 5) (fp : Bool) (n : Nat) (o : Bool) : (addPend s i ws fl fp n o).slice = s.slice := by unfold addPend; split <;> rfl
@[simp] theorem addPend_tslen (s : State) (i : Instr) (ws : List RegWrite) (fl : BitVec 5) (fp : Bool) (n : Nat) (o : Bool) : (addPend s i ws fl fp n o).tslen = s.tslen := by unfold addPend; split <;> rfl
@[simp] theorem addPend_drGo (s : State) (i : Instr) (ws : List RegWrite) (fl : BitVec 5) (fp : Bool) (n : Nat) (o : Bool) : (addPend s i ws fl fp n o).drGo = s.drGo := by unfold addPend; split <;> rfl
@[simp] theorem addPend_drRun (s : State) (i : Instr) (ws : List RegWrite) (fl : BitVec 5) (fp : Bool) (n : Nat) (o : Bool) : (addPend s i ws fl fp n o).drRun = s.drRun := by unfold addPend; split <;> rfl
@[simp] theorem addPend_drOp (s : State) (i : Instr) (ws : List RegWrite) (fl : BitVec 5) (fp : Bool) (n : Nat) (o : Bool) : (addPend s i ws fl fp n o).drOp = s.drOp := by unfold addPend; split <;> rfl
@[simp] theorem addPend_drDie (s : State) (i : Instr) (ws : List RegWrite) (fl : BitVec 5) (fp : Bool) (n : Nat) (o : Bool) : (addPend s i ws fl fp n o).drDie = s.drDie := by unfold addPend; split <;> rfl
@[simp] theorem addPend_dcap (s : State) (i : Instr) (ws : List RegWrite) (fl : BitVec 5) (fp : Bool) (n : Nat) (o : Bool) : (addPend s i ws fl fp n o).dcap = s.dcap := by unfold addPend; split <;> rfl
@[simp] theorem addPend_fabric (s : State) (i : Instr) (ws : List RegWrite) (fl : BitVec 5) (fp : Bool) (n : Nat) (o : Bool) : (addPend s i ws fl fp n o).fabric = s.fabric := by unfold addPend; split <;> rfl
@[simp] theorem addPend_wharf (s : State) (i : Instr) (ws : List RegWrite) (fl : BitVec 5) (fp : Bool) (n : Nat) (o : Bool) : (addPend s i ws fl fp n o).wharf = s.wharf := by unfold addPend; split <;> rfl
@[simp] theorem addPend_pod (s : State) (i : Instr) (ws : List RegWrite) (fl : BitVec 5) (fp : Bool) (n : Nat) (o : Bool) : (addPend s i ws fl fp n o).pod = s.pod := by unfold addPend; split <;> rfl
@[simp] theorem addPend_towpath (s : State) (i : Instr) (ws : List RegWrite) (fl : BitVec 5) (fp : Bool) (n : Nat) (o : Bool) : (addPend s i ws fl fp n o).towpath = s.towpath := by unfold addPend; split <;> rfl
@[simp] theorem addPend_nextKey (s : State) (i : Instr) (ws : List RegWrite) (fl : BitVec 5) (fp : Bool) (n : Nat) (o : Bool) : (addPend s i ws fl fp n o).nextKey = s.nextKey := by unfold addPend; split <;> rfl
@[simp] theorem addPend_hostReadback (s : State) (i : Instr) (ws : List RegWrite) (fl : BitVec 5) (fp : Bool) (n : Nat) (o : Bool) : (addPend s i ws fl fp n o).hostReadback = s.hostReadback := by unfold addPend; split <;> rfl
@[simp] theorem addPend_halted (s : State) (i : Instr) (ws : List RegWrite) (fl : BitVec 5) (fp : Bool) (n : Nat) (o : Bool) : (addPend s i ws fl fp n o).halted = s.halted := by unfold addPend; split <;> rfl

/-! ### mapLanes -/

@[simp] theorem mapLanes_slot (w : Warp) (m : LaneMask) (f : Nat → Lane → Lane) : (mapLanes w m f).slot = w.slot := rfl
@[simp] theorem mapLanes_idx (w : Warp) (m : LaneMask) (f : Nat → Lane → Lane) : (mapLanes w m f).idx = w.idx := rfl
@[simp] theorem mapLanes_role (w : Warp) (m : LaneMask) (f : Nat → Lane → Lane) : (mapLanes w m f).role = w.role := rfl
@[simp] theorem mapLanes_window (w : Warp) (m : LaneMask) (f : Nat → Lane → Lane) : (mapLanes w m f).window = w.window := rfl
@[simp] theorem mapLanes_s (w : Warp) (m : LaneMask) (f : Nat → Lane → Lane) : (mapLanes w m f).s = w.s := rfl
@[simp] theorem mapLanes_fpmode (w : Warp) (m : LaneMask) (f : Nat → Lane → Lane) : (mapLanes w m f).fpmode = w.fpmode := rfl
@[simp] theorem mapLanes_fpflags (w : Warp) (m : LaneMask) (f : Nat → Lane → Lane) : (mapLanes w m f).fpflags = w.fpflags := rfl
@[simp] theorem mapLanes_rep (w : Warp) (m : LaneMask) (f : Nat → Lane → Lane) : (mapLanes w m f).rep = w.rep := rfl
@[simp] theorem mapLanes_repFin (w : Warp) (m : LaneMask) (f : Nat → Lane → Lane) : (mapLanes w m f).repFin = w.repFin := rfl
@[simp] theorem mapLanes_vote (w : Warp) (m : LaneMask) (f : Nat → Lane → Lane) : (mapLanes w m f).vote = w.vote := rfl
@[simp] theorem mapLanes_trapV (w : Warp) (m : LaneMask) (f : Nat → Lane → Lane) : (mapLanes w m f).trapV = w.trapV := rfl
@[simp] theorem mapLanes_trapN (w : Warp) (m : LaneMask) (f : Nat → Lane → Lane) : (mapLanes w m f).trapN = w.trapN := rfl
@[simp] theorem mapLanes_xs0 (w : Warp) (m : LaneMask) (f : Nat → Lane → Lane) : (mapLanes w m f).xs0 = w.xs0 := rfl
@[simp] theorem mapLanes_xs1 (w : Warp) (m : LaneMask) (f : Nat → Lane → Lane) : (mapLanes w m f).xs1 = w.xs1 := rfl
@[simp] theorem mapLanes_priv (w : Warp) (m : LaneMask) (f : Nat → Lane → Lane) : (mapLanes w m f).priv = w.priv := rfl
@[simp] theorem mapLanes_pend (w : Warp) (m : LaneMask) (f : Nat → Lane → Lane) : (mapLanes w m f).pend = w.pend := rfl
@[simp] theorem mapLanes_memq (w : Warp) (m : LaneMask) (f : Nat → Lane → Lane) : (mapLanes w m f).memq = w.memq := rfl
@[simp] theorem mapLanes_nextId (w : Warp) (m : LaneMask) (f : Nat → Lane → Lane) : (mapLanes w m f).nextId = w.nextId := rfl
@[simp] theorem mapLanes_sleepUntil (w : Warp) (m : LaneMask) (f : Nat → Lane → Lane) : (mapLanes w m f).sleepUntil = w.sleepUntil := rfl
@[simp] theorem mapLanes_token (w : Warp) (m : LaneMask) (f : Nat → Lane → Lane) : (mapLanes w m f).token = w.token := rfl
@[simp] theorem mapLanes_hold (w : Warp) (m : LaneMask) (f : Nat → Lane → Lane) : (mapLanes w m f).hold = w.hold := rfl
@[simp] theorem mapLanes_xlat (w : Warp) (m : LaneMask) (f : Nat → Lane → Lane) : (mapLanes w m f).xlat = w.xlat := rfl
@[simp] theorem mapLanes_lastIssue (w : Warp) (m : LaneMask) (f : Nat → Lane → Lane) : (mapLanes w m f).lastIssue = w.lastIssue := rfl
@[simp] theorem mapLanes_promoted (w : Warp) (m : LaneMask) (f : Nat → Lane → Lane) : (mapLanes w m f).promoted = w.promoted := rfl
@[simp] theorem mapLanes_passed (w : Warp) (m : LaneMask) (f : Nat → Lane → Lane) : (mapLanes w m f).passed = w.passed := rfl
@[simp] theorem mapLanes_sinceReq (w : Warp) (m : LaneMask) (f : Nat → Lane → Lane) : (mapLanes w m f).sinceReq = w.sinceReq := rfl
@[simp] theorem mapLanes_stopped (w : Warp) (m : LaneMask) (f : Nat → Lane → Lane) : (mapLanes w m f).stopped = w.stopped := rfl
@[simp] theorem mapLanes_peers (w : Warp) (m : LaneMask) (f : Nat → Lane → Lane) : (mapLanes w m f).peers = w.peers := rfl

/-! ### setS -/

@[simp] theorem setS_slot (w : Warp) (r : Nat) (x : Word) : (setS w r x).slot = w.slot := by unfold setS; split <;> rfl
@[simp] theorem setS_idx (w : Warp) (r : Nat) (x : Word) : (setS w r x).idx = w.idx := by unfold setS; split <;> rfl
@[simp] theorem setS_role (w : Warp) (r : Nat) (x : Word) : (setS w r x).role = w.role := by unfold setS; split <;> rfl
@[simp] theorem setS_window (w : Warp) (r : Nat) (x : Word) : (setS w r x).window = w.window := by unfold setS; split <;> rfl
@[simp] theorem setS_lanes (w : Warp) (r : Nat) (x : Word) : (setS w r x).lanes = w.lanes := by unfold setS; split <;> rfl
@[simp] theorem setS_fpmode (w : Warp) (r : Nat) (x : Word) : (setS w r x).fpmode = w.fpmode := by unfold setS; split <;> rfl
@[simp] theorem setS_fpflags (w : Warp) (r : Nat) (x : Word) : (setS w r x).fpflags = w.fpflags := by unfold setS; split <;> rfl
@[simp] theorem setS_rep (w : Warp) (r : Nat) (x : Word) : (setS w r x).rep = w.rep := by unfold setS; split <;> rfl
@[simp] theorem setS_repFin (w : Warp) (r : Nat) (x : Word) : (setS w r x).repFin = w.repFin := by unfold setS; split <;> rfl
@[simp] theorem setS_vote (w : Warp) (r : Nat) (x : Word) : (setS w r x).vote = w.vote := by unfold setS; split <;> rfl
@[simp] theorem setS_trapV (w : Warp) (r : Nat) (x : Word) : (setS w r x).trapV = w.trapV := by unfold setS; split <;> rfl
@[simp] theorem setS_trapN (w : Warp) (r : Nat) (x : Word) : (setS w r x).trapN = w.trapN := by unfold setS; split <;> rfl
@[simp] theorem setS_xs0 (w : Warp) (r : Nat) (x : Word) : (setS w r x).xs0 = w.xs0 := by unfold setS; split <;> rfl
@[simp] theorem setS_xs1 (w : Warp) (r : Nat) (x : Word) : (setS w r x).xs1 = w.xs1 := by unfold setS; split <;> rfl
@[simp] theorem setS_priv (w : Warp) (r : Nat) (x : Word) : (setS w r x).priv = w.priv := by unfold setS; split <;> rfl
@[simp] theorem setS_pend (w : Warp) (r : Nat) (x : Word) : (setS w r x).pend = w.pend := by unfold setS; split <;> rfl
@[simp] theorem setS_memq (w : Warp) (r : Nat) (x : Word) : (setS w r x).memq = w.memq := by unfold setS; split <;> rfl
@[simp] theorem setS_nextId (w : Warp) (r : Nat) (x : Word) : (setS w r x).nextId = w.nextId := by unfold setS; split <;> rfl
@[simp] theorem setS_sleepUntil (w : Warp) (r : Nat) (x : Word) : (setS w r x).sleepUntil = w.sleepUntil := by unfold setS; split <;> rfl
@[simp] theorem setS_token (w : Warp) (r : Nat) (x : Word) : (setS w r x).token = w.token := by unfold setS; split <;> rfl
@[simp] theorem setS_hold (w : Warp) (r : Nat) (x : Word) : (setS w r x).hold = w.hold := by unfold setS; split <;> rfl
@[simp] theorem setS_xlat (w : Warp) (r : Nat) (x : Word) : (setS w r x).xlat = w.xlat := by unfold setS; split <;> rfl
@[simp] theorem setS_lastIssue (w : Warp) (r : Nat) (x : Word) : (setS w r x).lastIssue = w.lastIssue := by unfold setS; split <;> rfl
@[simp] theorem setS_promoted (w : Warp) (r : Nat) (x : Word) : (setS w r x).promoted = w.promoted := by unfold setS; split <;> rfl
@[simp] theorem setS_passed (w : Warp) (r : Nat) (x : Word) : (setS w r x).passed = w.passed := by unfold setS; split <;> rfl
@[simp] theorem setS_sinceReq (w : Warp) (r : Nat) (x : Word) : (setS w r x).sinceReq = w.sinceReq := by unfold setS; split <;> rfl
@[simp] theorem setS_stopped (w : Warp) (r : Nat) (x : Word) : (setS w r x).stopped = w.stopped := by unfold setS; split <;> rfl
@[simp] theorem setS_peers (w : Warp) (r : Nat) (x : Word) : (setS w r x).peers = w.peers := by unfold setS; split <;> rfl

/-! ### setV -/

@[simp] theorem setV_slot (w : Warp) (m : LaneMask) (r : Nat) (f : Nat → Word) : (setV w m r f).slot = w.slot := rfl
@[simp] theorem setV_idx (w : Warp) (m : LaneMask) (r : Nat) (f : Nat → Word) : (setV w m r f).idx = w.idx := rfl
@[simp] theorem setV_role (w : Warp) (m : LaneMask) (r : Nat) (f : Nat → Word) : (setV w m r f).role = w.role := rfl
@[simp] theorem setV_window (w : Warp) (m : LaneMask) (r : Nat) (f : Nat → Word) : (setV w m r f).window = w.window := rfl
@[simp] theorem setV_s (w : Warp) (m : LaneMask) (r : Nat) (f : Nat → Word) : (setV w m r f).s = w.s := rfl
@[simp] theorem setV_fpmode (w : Warp) (m : LaneMask) (r : Nat) (f : Nat → Word) : (setV w m r f).fpmode = w.fpmode := rfl
@[simp] theorem setV_fpflags (w : Warp) (m : LaneMask) (r : Nat) (f : Nat → Word) : (setV w m r f).fpflags = w.fpflags := rfl
@[simp] theorem setV_rep (w : Warp) (m : LaneMask) (r : Nat) (f : Nat → Word) : (setV w m r f).rep = w.rep := rfl
@[simp] theorem setV_repFin (w : Warp) (m : LaneMask) (r : Nat) (f : Nat → Word) : (setV w m r f).repFin = w.repFin := rfl
@[simp] theorem setV_vote (w : Warp) (m : LaneMask) (r : Nat) (f : Nat → Word) : (setV w m r f).vote = w.vote := rfl
@[simp] theorem setV_trapV (w : Warp) (m : LaneMask) (r : Nat) (f : Nat → Word) : (setV w m r f).trapV = w.trapV := rfl
@[simp] theorem setV_trapN (w : Warp) (m : LaneMask) (r : Nat) (f : Nat → Word) : (setV w m r f).trapN = w.trapN := rfl
@[simp] theorem setV_xs0 (w : Warp) (m : LaneMask) (r : Nat) (f : Nat → Word) : (setV w m r f).xs0 = w.xs0 := rfl
@[simp] theorem setV_xs1 (w : Warp) (m : LaneMask) (r : Nat) (f : Nat → Word) : (setV w m r f).xs1 = w.xs1 := rfl
@[simp] theorem setV_priv (w : Warp) (m : LaneMask) (r : Nat) (f : Nat → Word) : (setV w m r f).priv = w.priv := rfl
@[simp] theorem setV_pend (w : Warp) (m : LaneMask) (r : Nat) (f : Nat → Word) : (setV w m r f).pend = w.pend := rfl
@[simp] theorem setV_memq (w : Warp) (m : LaneMask) (r : Nat) (f : Nat → Word) : (setV w m r f).memq = w.memq := rfl
@[simp] theorem setV_nextId (w : Warp) (m : LaneMask) (r : Nat) (f : Nat → Word) : (setV w m r f).nextId = w.nextId := rfl
@[simp] theorem setV_sleepUntil (w : Warp) (m : LaneMask) (r : Nat) (f : Nat → Word) : (setV w m r f).sleepUntil = w.sleepUntil := rfl
@[simp] theorem setV_token (w : Warp) (m : LaneMask) (r : Nat) (f : Nat → Word) : (setV w m r f).token = w.token := rfl
@[simp] theorem setV_hold (w : Warp) (m : LaneMask) (r : Nat) (f : Nat → Word) : (setV w m r f).hold = w.hold := rfl
@[simp] theorem setV_xlat (w : Warp) (m : LaneMask) (r : Nat) (f : Nat → Word) : (setV w m r f).xlat = w.xlat := rfl
@[simp] theorem setV_lastIssue (w : Warp) (m : LaneMask) (r : Nat) (f : Nat → Word) : (setV w m r f).lastIssue = w.lastIssue := rfl
@[simp] theorem setV_promoted (w : Warp) (m : LaneMask) (r : Nat) (f : Nat → Word) : (setV w m r f).promoted = w.promoted := rfl
@[simp] theorem setV_passed (w : Warp) (m : LaneMask) (r : Nat) (f : Nat → Word) : (setV w m r f).passed = w.passed := rfl
@[simp] theorem setV_sinceReq (w : Warp) (m : LaneMask) (r : Nat) (f : Nat → Word) : (setV w m r f).sinceReq = w.sinceReq := rfl
@[simp] theorem setV_stopped (w : Warp) (m : LaneMask) (r : Nat) (f : Nat → Word) : (setV w m r f).stopped = w.stopped := rfl
@[simp] theorem setV_peers (w : Warp) (m : LaneMask) (r : Nat) (f : Nat → Word) : (setV w m r f).peers = w.peers := rfl

/-! ### setP -/

@[simp] theorem setP_slot (w : Warp) (m : LaneMask) (r : Nat) (f : Nat → Bool) : (setP w m r f).slot = w.slot := by unfold setP; split <;> rfl
@[simp] theorem setP_idx (w : Warp) (m : LaneMask) (r : Nat) (f : Nat → Bool) : (setP w m r f).idx = w.idx := by unfold setP; split <;> rfl
@[simp] theorem setP_role (w : Warp) (m : LaneMask) (r : Nat) (f : Nat → Bool) : (setP w m r f).role = w.role := by unfold setP; split <;> rfl
@[simp] theorem setP_window (w : Warp) (m : LaneMask) (r : Nat) (f : Nat → Bool) : (setP w m r f).window = w.window := by unfold setP; split <;> rfl
@[simp] theorem setP_s (w : Warp) (m : LaneMask) (r : Nat) (f : Nat → Bool) : (setP w m r f).s = w.s := by unfold setP; split <;> rfl
@[simp] theorem setP_fpmode (w : Warp) (m : LaneMask) (r : Nat) (f : Nat → Bool) : (setP w m r f).fpmode = w.fpmode := by unfold setP; split <;> rfl
@[simp] theorem setP_fpflags (w : Warp) (m : LaneMask) (r : Nat) (f : Nat → Bool) : (setP w m r f).fpflags = w.fpflags := by unfold setP; split <;> rfl
@[simp] theorem setP_rep (w : Warp) (m : LaneMask) (r : Nat) (f : Nat → Bool) : (setP w m r f).rep = w.rep := by unfold setP; split <;> rfl
@[simp] theorem setP_repFin (w : Warp) (m : LaneMask) (r : Nat) (f : Nat → Bool) : (setP w m r f).repFin = w.repFin := by unfold setP; split <;> rfl
@[simp] theorem setP_vote (w : Warp) (m : LaneMask) (r : Nat) (f : Nat → Bool) : (setP w m r f).vote = w.vote := by unfold setP; split <;> rfl
@[simp] theorem setP_trapV (w : Warp) (m : LaneMask) (r : Nat) (f : Nat → Bool) : (setP w m r f).trapV = w.trapV := by unfold setP; split <;> rfl
@[simp] theorem setP_trapN (w : Warp) (m : LaneMask) (r : Nat) (f : Nat → Bool) : (setP w m r f).trapN = w.trapN := by unfold setP; split <;> rfl
@[simp] theorem setP_xs0 (w : Warp) (m : LaneMask) (r : Nat) (f : Nat → Bool) : (setP w m r f).xs0 = w.xs0 := by unfold setP; split <;> rfl
@[simp] theorem setP_xs1 (w : Warp) (m : LaneMask) (r : Nat) (f : Nat → Bool) : (setP w m r f).xs1 = w.xs1 := by unfold setP; split <;> rfl
@[simp] theorem setP_priv (w : Warp) (m : LaneMask) (r : Nat) (f : Nat → Bool) : (setP w m r f).priv = w.priv := by unfold setP; split <;> rfl
@[simp] theorem setP_pend (w : Warp) (m : LaneMask) (r : Nat) (f : Nat → Bool) : (setP w m r f).pend = w.pend := by unfold setP; split <;> rfl
@[simp] theorem setP_memq (w : Warp) (m : LaneMask) (r : Nat) (f : Nat → Bool) : (setP w m r f).memq = w.memq := by unfold setP; split <;> rfl
@[simp] theorem setP_nextId (w : Warp) (m : LaneMask) (r : Nat) (f : Nat → Bool) : (setP w m r f).nextId = w.nextId := by unfold setP; split <;> rfl
@[simp] theorem setP_sleepUntil (w : Warp) (m : LaneMask) (r : Nat) (f : Nat → Bool) : (setP w m r f).sleepUntil = w.sleepUntil := by unfold setP; split <;> rfl
@[simp] theorem setP_token (w : Warp) (m : LaneMask) (r : Nat) (f : Nat → Bool) : (setP w m r f).token = w.token := by unfold setP; split <;> rfl
@[simp] theorem setP_hold (w : Warp) (m : LaneMask) (r : Nat) (f : Nat → Bool) : (setP w m r f).hold = w.hold := by unfold setP; split <;> rfl
@[simp] theorem setP_xlat (w : Warp) (m : LaneMask) (r : Nat) (f : Nat → Bool) : (setP w m r f).xlat = w.xlat := by unfold setP; split <;> rfl
@[simp] theorem setP_lastIssue (w : Warp) (m : LaneMask) (r : Nat) (f : Nat → Bool) : (setP w m r f).lastIssue = w.lastIssue := by unfold setP; split <;> rfl
@[simp] theorem setP_promoted (w : Warp) (m : LaneMask) (r : Nat) (f : Nat → Bool) : (setP w m r f).promoted = w.promoted := by unfold setP; split <;> rfl
@[simp] theorem setP_passed (w : Warp) (m : LaneMask) (r : Nat) (f : Nat → Bool) : (setP w m r f).passed = w.passed := by unfold setP; split <;> rfl
@[simp] theorem setP_sinceReq (w : Warp) (m : LaneMask) (r : Nat) (f : Nat → Bool) : (setP w m r f).sinceReq = w.sinceReq := by unfold setP; split <;> rfl
@[simp] theorem setP_stopped (w : Warp) (m : LaneMask) (r : Nat) (f : Nat → Bool) : (setP w m r f).stopped = w.stopped := by unfold setP; split <;> rfl
@[simp] theorem setP_peers (w : Warp) (m : LaneMask) (r : Nat) (f : Nat → Bool) : (setP w m r f).peers = w.peers := by unfold setP; split <;> rfl

end Sys2Proof.Machine
end

