-- ==== Sys2Proof/Laws/Issue.lean ====
section
/-! SUPPORT. What the shared operations of every meaning do: the frame of a word and of an event, register reads after
register writes, kills, traps, faults. -/

namespace Sys2Proof.Machine

/-! ### The frames of words and events -/

theorem issue_ready {i : Instr} {s : State} (f : State → State) (hk : killOf i s = none) (hs : stallOf i s = false) :
    issue i s f = .next (f s) := by simp [issue, hk, hs]

theorem issue_kill {i : Instr} {s : State} (f : State → State) {k : KillClass} (hk : killOf i s = some k) :
    issue i s f = .next (kill k s) := by simp [issue, hk]

theorem issue_stall {i : Instr} {s : State} (f : State → State) (hk : killOf i s = none) (hs : stallOf i s = true) :
    issue i s f = .next { s with iss := { s.iss with stall := true } } := by simp [issue, hk, hs]

theorem issue_total (i : Instr) (s : State) (f : State → State) : ∃ t, issue i s f = .next t := by
  unfold issue
  split
  · exact ⟨_, rfl⟩
  · split <;> exact ⟨_, rfl⟩

theorem live_on {s : State} (f : State → State) (h : s.halted = false) : live s f = .next (f s) := by simp [live, h]

theorem live_halted {s : State} (f : State → State) (h : s.halted = true) : live s f = .next s := by simp [live, h]

theorem live_total (s : State) (f : State → State) : ∃ t, live s f = .next t := ⟨_, rfl⟩

/-! ### Lanes -/

theorem lane_mapLanes (w : Warp) (m : LaneMask) (f : Nat → Lane → Lane) (l : Nat) (hl : l < w.lanes.length) :
    (mapLanes w m f).lane l = if m.getLsbD l then f l (w.lane l) else w.lane l := by
  simp [mapLanes, Warp.lane, List.getD_eq_getElem?_getD, hl]

theorem lanes_length_mapLanes (w : Warp) (m : LaneMask) (f : Nat → Lane → Lane) :
    (mapLanes w m f).lanes.length = w.lanes.length := by simp [mapLanes]

theorem lane_beyond (w : Warp) (l : Nat) (hl : w.lanes.length ≤ l) : w.lane l = {} := by
  simp [Warp.lane, List.getD_eq_getElem?_getD, hl]

/-! ### Registers: `s0` and `p0` are hard-wired (R7) -/

@[simp] theorem rdS_zero (w : Warp) : rdS w 0 = 0 := rfl
@[simp] theorem rdP_zero (w : Warp) (l : Nat) : rdP w 0 l = true := rfl

theorem setS_zero (w : Warp) (x : Word) : setS w 0 x = w := rfl
theorem setP_zero (w : Warp) (m : LaneMask) (f : Nat → Bool) : setP w m 0 f = w := rfl

theorem rdS_setS_same (w : Warp) (r : Nat) (x : Word) (h0 : r ≠ 0) (hr : r < w.s.length) : rdS (setS w r x) r = x := by
  simp [rdS, setS, h0, List.getD_eq_getElem?_getD, hr]

theorem rdS_setS_other (w : Warp) (r j : Nat) (x : Word) (h : j ≠ r) : rdS (setS w r x) j = rdS w j := by
  by_cases hr : r = 0
  · simp [setS, hr]
  · by_cases hj : j = 0
    · simp [rdS, hj]
    · simp [rdS, setS, hr, hj, List.getD_eq_getElem?_getD, List.getElem?_set_ne (Ne.symm h)]

theorem rdV_setV_same (w : Warp) (m : LaneMask) (r l : Nat) (f : Nat → Word) (hl : l < w.lanes.length)
    (hm : m.getLsbD l = true) (hr : r < (w.lane l).v.length) : rdV (setV w m r f) r l = f l := by
  simp [rdV, setV, lane_mapLanes, hl, hm, List.getD_eq_getElem?_getD, hr]

theorem rdV_setV_off (w : Warp) (m : LaneMask) (r j l : Nat) (f : Nat → Word) (hm : m.getLsbD l = false) :
    rdV (setV w m r f) j l = rdV w j l := by
  by_cases hl : l < w.lanes.length
  · simp [rdV, setV, lane_mapLanes, hl, hm]
  · simp [rdV, setV, lane_beyond, lanes_length_mapLanes, Nat.le_of_not_lt hl]

theorem rdV_setV_other (w : Warp) (m : LaneMask) (r j l : Nat) (f : Nat → Word) (h : j ≠ r) :
    rdV (setV w m r f) j l = rdV w j l := by
  by_cases hl : l < w.lanes.length
  · simp only [rdV, setV, lane_mapLanes _ _ _ _ hl]
    split <;> simp [List.getD_eq_getElem?_getD, List.getElem?_set_ne (Ne.symm h)]
  · simp [rdV, setV, lane_beyond, lanes_length_mapLanes, Nat.le_of_not_lt hl]

theorem rdP_setP_same (w : Warp) (m : LaneMask) (r l : Nat) (f : Nat → Bool) (h0 : r ≠ 0) (hr : r < 8)
    (hl : l < w.lanes.length) (hm : m.getLsbD l = true) : rdP (setP w m r f) r l = f l := by
  cases hf : f l <;> simp [rdP, setP, h0, lane_mapLanes, hl, hm, hf, hr]

theorem rdP_setP_off (w : Warp) (m : LaneMask) (r j l : Nat) (f : Nat → Bool) (hm : m.getLsbD l = false) :
    rdP (setP w m r f) j l = rdP w j l := by
  unfold setP
  split
  · rfl
  · by_cases hl : l < w.lanes.length
    · simp [rdP, lane_mapLanes, hl, hm]
    · simp [rdP, lane_beyond, lanes_length_mapLanes, Nat.le_of_not_lt hl]

theorem rdP_setP_other (w : Warp) (m : LaneMask) (r j l : Nat) (f : Nat → Bool) (h : j ≠ r) :
    rdP (setP w m r f) j l = rdP w j l := by
  unfold setP
  split
  · rfl
  · by_cases hl : l < w.lanes.length
    · by_cases hj : j < 8
      · cases hm : m.getLsbD l <;> cases hf : f l <;>
          simp [rdP, lane_mapLanes, hl, hm, hf, h, hj]
      · have e : ∀ x : BitVec 8, x.getLsbD j = false := fun x => BitVec.getLsbD_of_ge x j (by omega)
        cases hm : m.getLsbD l <;> cases hf : f l <;> simp only [rdP, lane_mapLanes _ _ _ _ hl, hm, hf, e]
    · simp [rdP, lane_beyond, lanes_length_mapLanes, Nat.le_of_not_lt hl]

/-! ### Kills and traps -/

/-- A kill leaves no live lane (R22). -/
theorem killedWarp_finished (w : Warp) : (killedWarp w).finished = true := by
  simp only [Warp.finished, killedWarp, List.all_map, List.all_eq_true]
  intro ln _
  simp only [Function.comp]
  split
  · simp [Lane.live]
  · rename_i h
    simpa using h

/-- `fault` of no lane changes nothing (R255). -/
theorem faultLanes_nil (s : State) : faultLanes s [] = s := rfl

theorem takeTrap_empty {n : Nat} {s : State} (h : liveMask s = 0) : takeTrap n s = s := by simp [takeTrap, h]

theorem takeTrap_frame (n : Nat) (s : State) : ∃ w iss, takeTrap n s = { s with w := w, iss := iss } := by
  by_cases h : liveMask s = 0
  · exact ⟨s.w, s.iss, takeTrap_empty h⟩
  · simp only [takeTrap, h, if_false]
    exact ⟨_, _, rfl⟩

theorem leaveTrap_frame (s : State) : ∃ w iss, leaveTrap s = { s with w := w, iss := iss } := ⟨_, _, rfl⟩

end Sys2Proof.Machine
end

