-- ==== Sys2Proof/Laws/Memory.lean ====
section
/-! SUPPORT. The laws of sparse memory: reading after writing, and that every operation keeps the canonical form. -/

namespace Sys2Proof.Machine

/-- Every address of a memory lies above `k`. -/
def Above (k : Nat) (m : List Host.Cell) : Prop := ∀ c ∈ m, k < c.1

theorem wf_cons (a : Nat) (b : Byte) (m : List Host.Cell) :
    Memory.wf ((a, b) :: m) = true ↔ b ≠ 0 ∧ Above a m ∧ Memory.wf m = true := by
  induction m generalizing a b with
  | nil => simp [Memory.wf, Above]
  | cons c m ih =>
    obtain ⟨a', b'⟩ := c
    rw [Memory.wf]
    simp only [Bool.and_eq_true, decide_eq_true_eq, bne_iff_ne, Above, List.forall_mem_cons]
    constructor
    · rintro ⟨⟨hb, hlt⟩, hw⟩
      refine ⟨hb, ⟨hlt, fun c hc => ?_⟩, hw⟩
      exact lt_trans hlt (((ih a' b').1 hw).2.1 c hc)
    · rintro ⟨hb, ⟨hlt, -⟩, hw⟩
      exact ⟨⟨hb, hlt⟩, hw⟩

theorem above_mono {j k : Nat} {m : List Host.Cell} (h : Above k m) (hj : j ≤ k) : Above j m :=
  fun c hc => lt_of_le_of_lt hj (h c hc)

theorem memGet_above {k : Nat} {m : List Host.Cell} (h : Above k m) : memGet m k = 0 := by
  induction m with
  | nil => rfl
  | cons c m ih =>
    obtain ⟨a, b⟩ := c
    have ha : k < a := h (a, b) (by simp)
    have hm : Above k m := fun c hc => h c (by simp [hc])
    simp [memGet, Nat.ne_of_lt ha, ih hm]

theorem memSet_above {j k : Nat} {m : List Host.Cell} (b : Byte) (h : Above j m) (hj : j < k) : Above j (memSet m k b) := by
  induction m with
  | nil => unfold memSet; split <;> simp [Above, hj]
  | cons c m ih =>
    obtain ⟨a, x⟩ := c
    have ha : j < a := h (a, x) (by simp)
    have hm : Above j m := fun c hc => h c (by simp [hc])
    unfold memSet
    split
    · split
      · exact h
      · intro c hc; simp only [List.mem_cons] at hc
        rcases hc with rfl | rfl | hc
        · exact hj
        · exact ha
        · exact hm c hc
    · split
      · split
        · exact hm
        · intro c hc; simp only [List.mem_cons] at hc
          rcases hc with rfl | hc
          · exact hj
          · exact hm c hc
      · intro c hc; simp only [List.mem_cons] at hc
        rcases hc with rfl | hc
        · exact ha
        · exact ih hm c hc

/-- A write of one byte keeps the canonical form. -/
theorem memSet_wf (m : List Host.Cell) (k : Nat) (b : Byte) (h : Memory.wf m = true) : Memory.wf (memSet m k b) = true := by
  induction m with
  | nil => unfold memSet; split <;> simp_all [Memory.wf]
  | cons c m ih =>
    obtain ⟨a, x⟩ := c
    obtain ⟨hx, ha, hm⟩ := (wf_cons a x m).1 h
    unfold memSet
    split
    · rename_i hk
      split
      · exact h
      · rename_i hb
        refine (wf_cons k b _).2 ⟨hb, ?_, h⟩
        intro c hc; simp only [List.mem_cons] at hc
        rcases hc with rfl | hc
        · exact hk
        · exact lt_trans hk (ha c hc)
    · rename_i hk
      split
      · rename_i hka
        split
        · exact hm
        · rename_i hb
          exact (wf_cons k b m).2 ⟨hb, hka ▸ ha, hm⟩
      · rename_i hka
        exact (wf_cons a x _).2 ⟨hx, memSet_above b ha (by omega), ih hm⟩

/-- A byte reads as it was last written. -/
theorem memGet_memSet_same (m : List Host.Cell) (k : Nat) (b : Byte) (h : Memory.wf m = true) :
    memGet (memSet m k b) k = b := by
  induction m with
  | nil => unfold memSet; split <;> simp_all [memGet]
  | cons c m ih =>
    obtain ⟨a, x⟩ := c
    obtain ⟨-, ha, hm⟩ := (wf_cons a x m).1 h
    unfold memSet
    split
    · rename_i hk
      split
      · rename_i hb
        subst hb
        exact memGet_above (m := (a, x) :: m) fun c hc => by
          simp only [List.mem_cons] at hc
          rcases hc with rfl | hc
          · exact hk
          · exact lt_trans hk (ha c hc)
      · simp [memGet]
    · split
      · rename_i hka
        split
        · rename_i hb
          subst hb hka
          exact memGet_above ha
        · simp [memGet]
      · rename_i hka
        simp [memGet, hka, ih hm]

/-- A write leaves every other byte alone. -/
theorem memGet_memSet_other (m : List Host.Cell) (j k : Nat) (b : Byte) (hj : j ≠ k) : memGet (memSet m k b) j = memGet m j := by
  induction m with
  | nil => unfold memSet; split <;> simp [memGet, hj]
  | cons c m ih =>
    obtain ⟨a, x⟩ := c
    unfold memSet
    split
    · split
      · rfl
      · simp [memGet, hj]
    · split
      · rename_i hka
        subst hka
        split <;> simp [memGet, hj]
      · by_cases h : j = a
        · simp [memGet, h]
        · simp [memGet, h, ih]

theorem memWrite_wf (m : List Host.Cell) (k : Nat) (bs : List Byte) (h : Memory.wf m = true) :
    Memory.wf (memWrite m k bs) = true := by
  induction bs generalizing m k with
  | nil => exact h
  | cons b bs ih => exact ih _ _ (memSet_wf m k b h)

theorem memGet_memWrite_below (m : List Host.Cell) (j k : Nat) (bs : List Byte) (hj : j < k) :
    memGet (memWrite m k bs) j = memGet m j := by
  induction bs generalizing m k with
  | nil => rfl
  | cons b bs ih =>
    rw [memWrite, ih _ _ (by omega), memGet_memSet_other _ _ _ _ (by omega)]

theorem memGet_memWrite_outside (m : List Host.Cell) (j k : Nat) (bs : List Byte) (hj : j < k ∨ k + bs.length ≤ j) :
    memGet (memWrite m k bs) j = memGet m j := by
  induction bs generalizing m k with
  | nil => rfl
  | cons b bs ih =>
    simp only [List.length_cons] at hj
    rw [memWrite, ih _ _ (by omega), memGet_memSet_other _ _ _ _ (by omega)]

/-- A span reads as it was last written. -/
theorem memRead_memWrite (m : List Host.Cell) (k : Nat) (bs : List Byte) (h : Memory.wf m = true) :
    memRead (memWrite m k bs) k bs.length = bs := by
  induction bs generalizing m k with
  | nil => rfl
  | cons b bs ih =>
    have hg : memGet (memWrite (memSet m k b) (k + 1) bs) k = b := by
      rw [memGet_memWrite_below _ _ _ _ (by omega), memGet_memSet_same m k b h]
    simp only [List.length_cons, memRead, memWrite, hg, ih _ _ (memSet_wf m k b h)]

/-- Leaving entries out keeps the canonical form. -/
theorem filter_wf (m : List Host.Cell) (p : Host.Cell → Bool) (h : Memory.wf m = true) : Memory.wf (m.filter p) = true := by
  induction m with
  | nil => rfl
  | cons c m ih =>
    obtain ⟨a, x⟩ := c
    obtain ⟨hx, ha, hm⟩ := (wf_cons a x m).1 h
    rw [List.filter_cons]
    split
    · exact (wf_cons a x _).2 ⟨hx, fun c hc => ha c (List.mem_filter.1 hc).1, ih hm⟩
    · exact ih hm

theorem memClear_wf (m : List Host.Cell) (lo n : Nat) (h : Memory.wf m = true) : Memory.wf (memClear m lo n) = true :=
  filter_wf m _ h

theorem memSlice_wf (m : List Host.Cell) (lo n : Nat) (h : Memory.wf m = true) : Memory.wf (memSlice m lo n) = true := by
  unfold memSlice
  have hf := filter_wf m (fun c => decide (lo ≤ c.1) && decide (c.1 < lo + n)) h
  have hlo : ∀ c ∈ m.filter (fun c => decide (lo ≤ c.1) && decide (c.1 < lo + n)), lo ≤ c.1 := fun c hc => by
    have := (List.mem_filter.1 hc).2; simp at this; exact this.1
  generalize m.filter (fun c => decide (lo ≤ c.1) && decide (c.1 < lo + n)) = l at hf hlo ⊢
  induction l with
  | nil => rfl
  | cons c l ih =>
    obtain ⟨a, x⟩ := c
    obtain ⟨hx, ha, hl⟩ := (wf_cons a x l).1 hf
    have hla : lo ≤ a := hlo (a, x) (by simp)
    rw [List.map_cons]
    refine (wf_cons _ _ _).2 ⟨hx, ?_, ih hl fun c hc => hlo c (by simp [hc])⟩
    intro c hc
    obtain ⟨c', hc', rfl⟩ := List.mem_map.1 hc
    have h1 := ha c' hc'
    have h2 := hlo c' (by simp [hc'])
    show a - lo < c'.1 - lo
    omega

theorem memPaste_wf (m : List Host.Cell) (base : Nat) (img : List Host.Cell) (h : Memory.wf m = true) :
    Memory.wf (memPaste m base img) = true := by
  unfold memPaste
  induction img generalizing m with
  | nil => exact h
  | cons c img ih => exact ih _ (memSet_wf m _ _ h)

theorem reset_mem_wf : Memory.wf State.reset.mem = true ∧ Memory.wf State.reset.hostMem = true := ⟨rfl, rfl⟩

end Sys2Proof.Machine
end

