-- ==== Sys2Proof/Laws/Words.lean ====
section
/-! SUPPORT. When a word issues: register fields in range (R8, R26), words without a check of their own, words that wait
for nothing, the result of a memory word. -/

namespace Sys2Proof.Machine

/-! ### Register fields -/

theorem bad_s (W r : Nat) (rd wr t : Bool) : Field.bad W ⟨.s, r, 1, rd, wr, t⟩ = decide (64 ≤ r) := by
  simp [Field.bad, Nat.mod_one]

theorem bad_v (W r : Nat) (rd wr t : Bool) : Field.bad W ⟨.v, r, 1, rd, wr, t⟩ = decide (W ≤ r) := by
  simp [Field.bad, Nat.mod_one]

theorem bad_p (W r : Nat) (rd wr t : Bool) : Field.bad W ⟨.p, r, 1, rd, wr, t⟩ = decide (8 ≤ r) := by
  simp [Field.bad, Nat.mod_one, Nat.succ_le_iff]

theorem bad_sn {W r n : Nat} (rd wr t : Bool) (ha : r % n = 0) (hr : r + n ≤ 64) : Field.bad W ⟨.s, r, n, rd, wr, t⟩ = false := by
  simp [Field.bad, ha]; omega

theorem bad_vn {W r n : Nat} (rd wr t : Bool) (ha : r % n = 0) (hr : r + n ≤ W) : Field.bad W ⟨.v, r, n, rd, wr, t⟩ = false := by
  simp [Field.bad, ha]; omega

/-- A word is in range when each of its register fields is. -/
theorem regrange_false {W : Nat} {i : Instr} (h : ∀ f ∈ fields i, Field.bad W f = false) : regrange W i = false := by
  simp only [regrange, List.any_eq_false]
  intro f hf
  simp [h f hf]

/-! ### The checks of a word -/

/-- Only BV, register division and the words of the system majors make a check beyond R8. -/
theorem killOf_plain (i : Instr) (s : State) (h : majorOf i ∉ [0x1D, 0x37, 0x3C, 0x3D, 0x3E]) :
    killOf i s = if regrange s.w.window i then some .regrange else none := by
  cases i <;> first | rfl | exact (h (by simp [majorOf])).elim

/-- A word of the register pipes or of control waits for nothing. -/
theorem memWord_plain (i : Instr) (h : majorOf i < 0x20) : memWord i = false := by
  cases i <;> first | rfl | exact absurd h (by simp [majorOf])
theorem afterPerformed_plain (i : Instr) (h : majorOf i < 0x20) : afterPerformed i = false := by
  cases i <;> first | rfl | exact absurd h (by simp [majorOf])
theorem stallOf_plain (i : Instr) (s : State) (h : majorOf i < 0x20) : stallOf i s = false := by
  simp only [stallOf, memWord_plain i h, afterPerformed_plain i h, Bool.false_and, Bool.false_or]
  cases i <;> first | rfl | exact absurd h (by simp [majorOf])

/-- A register word whose fields are in range takes effect. -/
theorem issue_plain {i : Instr} {s : State} (f : State → State) (h : majorOf i < 0x20) (hv : majorOf i ≠ 0x1D)
    (hr : regrange s.w.window i = false) : issue i s f = .next (f s) := by
  have hk : killOf i s = none := by
    rw [killOf_plain i s (by simp; omega), hr]; rfl
  exact issue_ready f hk (stallOf_plain i s h)

/-- A memory or engine word waits only for what its warp has not performed and for room in the miss queue. -/
theorem stallOf_memory (i : Instr) (s : State) (hq : s.w.memq = []) (hm : missFull s (dieOfCore s.c.core) = false)
    (h : majorOf i ≠ 0x37) : stallOf i s = false := by
  simp only [stallOf, hq, hm, List.isEmpty_nil, Bool.not_true, Bool.and_false, Bool.false_or]
  cases i <;> first | rfl | exact absurd rfl h

/-- A memory or engine word whose fields are in range takes effect once its warp has performed everything before it and the
miss queue has room. -/
theorem issue_memory {i : Instr} {s : State} (f : State → State) (h : majorOf i ∉ [0x1D, 0x37, 0x3C, 0x3D, 0x3E])
    (hq : s.w.memq = []) (hm : missFull s (dieOfCore s.c.core) = false) (hr : regrange s.w.window i = false) : issue i s f = .next (f s) := by
  have hk : killOf i s = none := by rw [killOf_plain i s h, hr]; rfl
  exact issue_ready f hk (stallOf_memory i s hq hm (by rintro e; simp [e] at h))

/-- The window a word opens for its target. -/
theorem addPend_some {s : State} {i : Instr} {t : Target} (h : targetOf i = some t) (ws : List RegWrite) (fl : BitVec 5)
    (fp : Bool) (n : Nat) (o : Bool) :
    addPend s i ws fl fp n o = { s with w := { s.w with
      nextId := s.w.nextId + 1,
      pend := s.w.pend ++ [{ id := s.w.nextId, target := t, left := laOf i + 1, need := n, open_ := o, writes := ws,
                             flags := fl, fp := fp }] } } := by
  simp [addPend, h]

/-- A word that opens a window changes nothing but the warp in issue. -/
theorem addPend_frame (s : State) (i : Instr) (ws : List RegWrite) (fl : BitVec 5) (fp : Bool) (n : Nat) (o : Bool) :
    ∃ w, addPend s i ws fl fp n o = { s with w := w } := by
  unfold addPend
  split
  · exact ⟨s.w, rfl⟩
  · exact ⟨_, rfl⟩

end Sys2Proof.Machine
end

