-- ==== Sys2Proof/Tests/Slice0.lean ====
section
/-! SUPPORT. Tests of single words and steps on a small device: every word's decoding and encoding, the words and results of the
spec's own examples, refused and ill-formed words, and for every obligation with hypotheses a state that meets them. -/

namespace Sys2Proof.Tests
open Sys2Proof Sys2Proof.Machine

/-- A lane at word 40 of its code whose register r holds r, with p1, p4 and p6 set. -/
def tLane : Lane := { pc := 40, v := (List.range 24).map (BitVec.ofNat 32), p := 0b1010010, resume := 44 }

/-- A warp of 64 such lanes: s[r] is 3r. -/
def tWarp : Warp := { window := 24, lanes := List.replicate 64 tLane, s := (List.range 64).map fun r => BitVec.ofNat 32 (3 * r), nextId := 7 }

/-- A crew of one warp on core 5, with a share of 8,192 bytes at 4,096 in quad 1. -/
def tCrew : Crew := {
  id := 3, vf := 0, launch := 1, core := 5, shareBase := 4096, shareSize := 8192, flat := 2 ^ 20, code := 0x1000, csize := 1200,
  pool := 16, warps := [tWarp] }

/-- A small device: 8 cores, 3 quads, 2 bays, 2 dies, 3 functions. -/
def tDevice : State := { State.reset with
  cores := List.replicate 8 {}, quads := List.replicate 3 { acc := List.replicate 8 [] }, bays := List.replicate 2 {},
  dies := List.replicate 2 {}, vfs := List.replicate 3 {}, cycle := 1000 }

/-- The crew's warp issues the lanes of a mask, its word the second of a bundle of two. -/
def tIssue (active : Nat) : State := { tDevice with
  crews := [tCrew], c := tCrew, w := tWarp, old := tWarp, iss := { active := BitVec.ofNat 64 active, pc := 40, pos := 1, words := 2 } }

/-- Why a word is no instruction. -/
def refusedAs (w : Nat) : Option KillClass := match decodeWord w with
  | .error k => some k
  | .ok _ => none

/-- The state a word leaves. -/
def after (i : Instr) (s : State) : State := match exec i s with
  | .next t => t
  | _ => s

/-- The issue with other uniform registers. -/
def withS (s : State) (xs : List (Nat × Nat)) : State :=
  let w := { s.w with s := xs.foldl (fun l x => l.set x.1 (BitVec.ofNat 32 x.2)) s.w.s }
  { s with w := w, old := w }
/-- The issue with one vector register the same in every lane. -/
def withV (s : State) (r x : Nat) : State :=
  let w := { s.w with lanes := s.w.lanes.map fun ln => { ln with v := ln.v.set r (BitVec.ofNat 32 x) } }
  { s with w := w, old := w }

theorem test_sadd_wraps : rdS (after (.sadd 5 6 7) (withS (tIssue 1) [(6, 0xFFFFFFFF), (7, 2)])).w 5 = 1 := by decide
theorem test_vadd_leaves_other_lanes : let t := after (.vadd false 5 6 7) (tIssue 2); rdV t.w 5 1 = 13 ∧ rdV t.w 5 0 = 5 := by decide
theorem test_fadd : let t := after (.vfadd false 5 6 7) (withV (withV (tIssue 1) 6 0x3F800000) 7 0x40000000); rdV t.w 5 0 = 0x40400000 := by decide
theorem test_exit : ((after .exit (tIssue 1)).w.lane 0).st = .exited := by decide

/-! ### Decoding: every word, written out bit by bit from its encoding -/

theorem test_decode_uniform_integer : ∀ p ∈ ([
    (0b0_000000_0000_0001100_0010100_0011000, .sadd 12 20 24),
    (0b0_000000_0001_0001100_0010100_0011000, .ssub 12 20 24),
    (0b0_000000_0010_0001100_0010100_0011000, .smul 12 20 24),
    (0b0_000000_0011_0001100_0010100_0011000, .smulh 12 20 24),
    (0b0_000000_0100_0001100_0010100_0011000, .smulhu 12 20 24),
    (0b0_000000_0101_0001100_0010100_0011000, .sand 12 20 24),
    (0b0_000000_0110_0001100_0010100_0011000, .sor 12 20 24),
    (0b0_000000_0111_0001100_0010100_0011000, .sxor 12 20 24),
    (0b0_000000_1000_0001100_0010100_0011000, .sshl 12 20 24),
    (0b0_000000_1001_0001100_0010100_0011000, .sshr 12 20 24),
    (0b0_000000_1010_0001100_0010100_0011000, .ssra 12 20 24),
    (0b0_000000_1011_0001100_0010100_0011000, .smin 12 20 24),
    (0b0_000000_1100_0001100_0010100_0011000, .smax 12 20 24),
    (0b0_000000_1101_0001100_0010100_0011000, .sminu 12 20 24),
    (0b0_000000_1110_0001100_0010100_0011000, .smaxu 12 20 24),
    (0b0_000000_1111_0001100_0010100_0011000, .smov 12 20 24),
    (0b0_000001_0000_0001100_0010100_0011000, .sclz 12 20 24),
    (0b0_000001_0001_0001100_0010100_0011000, .spopc 12 20 24),
    (0b0_000001_0010_0001100_0010100_0011000, .sbrev 12 20 24),
    (0b0_000001_0011_0001100_0010100_0011000, .sext 12 20 24),
    (0b0_000001_0100_0001100_0010100_0011000, .sins 12 20 24),
    (0b0_000001_0101_0001100_0010100_0011000, .ssel 12 20 24)] : List (Nat × Instr)),
    (decodeWord p.1).toOption = some p.2 ∧ encode p.2 = some p.1 ∧ wellFormed p.2 = true := by decide

theorem test_decode_uniform_compare_and_immediate : ∀ p ∈ ([
    (0b0_000010_1001_0000011_0010100_0011000, .scmp .geu 3 20 24),
    (0b0_000011_0001100_0010100_10110100101, .saddi 12 20 1445),
    (0b0_000100_0001100_0_1_1011111011101111, .sli true 12 48879),
    (0b0_000101_0001100_0_1_1000000000000001, .slik true 12 32769)] : List (Nat × Instr)),
    (decodeWord p.1).toOption = some p.2 ∧ encode p.2 = some p.1 ∧ wellFormed p.2 = true := by decide

theorem test_decode_vector_integer : ∀ p ∈ ([
    (0b0_001000_1_000_0001100_0010100_0011000, .vadd true 12 20 24),
    (0b0_001000_1_001_0001100_0010100_0011000, .vsub true 12 20 24),
    (0b0_001000_1_010_0001100_0010100_0011000, .vmul true 12 20 24),
    (0b0_001000_1_011_0001100_0010100_0011000, .vmulh true 12 20 24),
    (0b0_001000_1_100_0001100_0010100_0011000, .vmulhu true 12 20 24),
    (0b0_001000_1_101_0001100_0010100_0011000, .vand true 12 20 24),
    (0b0_001000_1_110_0001100_0010100_0011000, .vor true 12 20 24),
    (0b0_001000_1_111_0001100_0010100_0011000, .vxor true 12 20 24),
    (0b0_001001_1_000_0001100_0010100_0011000, .vshl true 12 20 24),
    (0b0_001001_1_001_0001100_0010100_0011000, .vshr true 12 20 24),
    (0b0_001001_1_010_0001100_0010100_0011000, .vsra true 12 20 24),
    (0b0_001001_1_011_0001100_0010100_0011000, .vmin true 12 20 24),
    (0b0_001001_1_100_0001100_0010100_0011000, .vmax true 12 20 24),
    (0b0_001001_1_101_0001100_0010100_0011000, .vminu true 12 20 24),
    (0b0_001001_1_110_0001100_0010100_0011000, .vmaxu true 12 20 24),
    (0b0_001001_1_111_0001100_0010100_0011000, .vaddmin true 12 20 24),
    (0b0_001010_1_000_0001100_0010100_0011000, .vmad true 12 20 24),
    (0b0_001010_1_001_0001100_0010100_0011000, .vaddsat true 12 20 24),
    (0b0_001010_1_010_0001100_0010100_0011000, .vsubsat true 12 20 24),
    (0b0_001010_1_011_0001100_0010100_0011000, .vabsdiff true 12 20 24),
    (0b0_001010_1_100_0001100_0010100_0011000, .vext true 12 20 24),
    (0b0_001010_1_101_0001100_0010100_0011000, .vins true 12 20 24),
    (0b0_001010_1_110_0001100_0010100_0011000, .vmorton true 12 20 24),
    (0b0_001010_1_111_0001100_0010100_0011000, .vcellh true 12 20 24)] : List (Nat × Instr)),
    (decodeWord p.1).toOption = some p.2 ∧ encode p.2 = some p.1 ∧ wellFormed p.2 = true := by decide

theorem test_decode_vector_unary_and_immediate : ∀ p ∈ ([
    (0b0_001011_0000_0001100_0010100_0000000, .vnot 12 20),
    (0b0_001011_0001_0001100_0010100_0000000, .vneg 12 20),
    (0b0_001011_0010_0001100_0010100_0000000, .vabs 12 20),
    (0b0_001011_0011_0001100_0010100_0000000, .vclz 12 20),
    (0b0_001011_0100_0001100_0010100_0000000, .vpopc 12 20),
    (0b0_001011_0101_0001100_0010100_0000000, .vbrev 12 20),
    (0b0_001011_0110_0001100_0010100_0000000, .vmov 12 20),
    (0b0_001011_0111_0001100_0010100_0000000, .vbcastS 12 20),
    (0b0_001100_1001_0000011_0010100_0011000, .vcmp .geu 3 20 24),
    (0b0_001101_0001100_0010100_10110100101, .vaddi 12 20 1445),
    (0b0_001110_0001100_0_1_0111111111111110, .vli true 12 32766),
    (0b0_001111_1_101_0001100_0010100_0011000, .vsel true 5 12 20 24)] : List (Nat × Instr)),
    (decodeWord p.1).toOption = some p.2 ∧ encode p.2 = some p.1 ∧ wellFormed p.2 = true := by decide

theorem test_decode_predicate : ∀ p ∈ ([
    (0b0_010000_0000_0000011_0000101_0000110, .pand 3 5 6),
    (0b0_010000_0001_0000011_0000101_0000110, .por 3 5 6),
    (0b0_010000_0010_0000011_0000101_0000110, .pxor 3 5 6),
    (0b0_010000_0011_0000011_0000101_0000110, .pandn 3 5 6),
    (0b0_010000_0100_0000011_0000101_0000000, .pnot 3 5),
    (0b0_010000_0101_0000011_0000101_0000000, .pmov 3 5)] : List (Nat × Instr)),
    (decodeWord p.1).toOption = some p.2 ∧ encode p.2 = some p.1 ∧ wellFormed p.2 = true := by decide

theorem test_decode_float : ∀ p ∈ ([
    (0b0_010001_1_000_0001100_0010100_0011000, .vfadd true 12 20 24),
    (0b0_010001_1_001_0001100_0010100_0011000, .vfsub true 12 20 24),
    (0b0_010001_1_010_0001100_0010100_0011000, .vfmul true 12 20 24),
    (0b0_010001_1_011_0001100_0010100_0011000, .vffma true 12 20 24),
    (0b0_010001_1_100_0001100_0010100_0011000, .vfmin true 12 20 24),
    (0b0_010001_1_101_0001100_0010100_0011000, .vfmax true 12 20 24),
    (0b0_010001_1_110_0001100_0010100_0011000, .vfcpys true 12 20 24),
    (0b0_010001_1_111_0001100_0010100_0011000, .vfabsd true 12 20 24),
    (0b0_010010_0000_0001100_0010100_0011000, .vdadd 12 20 24),
    (0b0_010010_0001_0001100_0010100_0011000, .vdsub 12 20 24),
    (0b0_010010_0010_0001100_0010100_0011000, .vdmul 12 20 24),
    (0b0_010010_0011_0001100_0010100_0011000, .vdfma 12 20 24),
    (0b0_010010_0100_0001100_0010100_0011000, .vdmin 12 20 24),
    (0b0_010010_0101_0001100_0010100_0011000, .vdmax 12 20 24),
    (0b0_010011_0_1_00_0001100_0010100_0011000, .vhadd2 true 12 20 24),
    (0b0_010011_0_1_01_0001100_0010100_0011000, .vhsub2 true 12 20 24),
    (0b0_010011_0_1_10_0001100_0010100_0011000, .vhmul2 true 12 20 24),
    (0b0_010011_0_1_11_0001100_0010100_0011000, .vhfma2 true 12 20 24),
    (0b0_010100_0_111_0000011_0010100_0011000, .vfcmp .ord 3 20 24),
    (0b0_010100_1_111_0000011_0010100_0011000, .vfcmpF64 .ord 3 20 24)] : List (Nat × Instr)),
    (decodeWord p.1).toOption = some p.2 ∧ encode p.2 = some p.1 ∧ wellFormed p.2 = true := by decide

theorem test_decode_conversion : ∀ p ∈ ([
    (0b0_010101_0000_0001100_0010100_0000_1_10, .vcvtF32F64 12 20 true 2),
    (0b0_010101_0000_0001100_0010100_0001000, .vcvtF64F32 12 20),
    (0b0_010101_0000_0001100_0010100_0010_1_10, .vcvtF32I32 12 20 true 2),
    (0b0_010101_0000_0001100_0010100_0011_1_10, .vcvtF32O32 12 20 true 2),
    (0b0_010101_0000_0001100_0010100_01001_10, .vcvtI32F32 12 20 2),
    (0b0_010101_0000_0001100_0010100_01011_10, .vcvtO32F32 12 20 2),
    (0b0_010101_0000_0001100_0010100_0110000, .vcvtF64I32 12 20),
    (0b0_010101_0000_0001100_0010100_01111_10, .vcvtI32F64 12 20 2),
    (0b0_010101_0000_0001100_0010100_1000_1_10, .vcvtF19F32 12 20 true 2),
    (0b0_010101_0000_0001100_0010100_1001_1_10, .vcvtBf16x2F32 12 20 true 2),
    (0b0_010101_0000_0001100_0010100_1010_1_10, .vcvtF16x2F32 12 20 true 2),
    (0b0_010101_0000_0001100_0010100_1011000, .vcvtF32x2F16x2 12 20),
    (0b0_010101_0000_0001100_0010100_1100_1_10, .vcvtE4m3x4F32 12 20 true 2),
    (0b0_010101_0000_0001100_0010100_1101_1_10, .vcvtE5m2x4F32 12 20 true 2),
    (0b0_010101_0000_0001100_0010100_11101_10, .vcvtI16x2F32 12 20 2),
    (0b0_010101_0000_0001100_0010100_11111_10, .vcvtO8x4F32 12 20 2)] : List (Nat × Instr)),
    (decodeWord p.1).toOption = some p.2 ∧ encode p.2 = some p.1 ∧ wellFormed p.2 = true := by decide

theorem test_decode_special_function : ∀ p ∈ ([
    (0b0_010110_0101_0001100_0010100_0000000, .vfrcp 5 12 20),
    (0b0_010110_0101_0001100_0010100_0001000, .vfrsq 5 12 20),
    (0b0_010110_0101_0001100_0010100_0010000, .vfsqrt 5 12 20),
    (0b0_010110_0101_0001100_0010100_0011000, .vfexp2 5 12 20),
    (0b0_010110_0101_0001100_0010100_0100000, .vflog2 5 12 20),
    (0b0_010110_0101_0001100_0010100_0101000, .vfsin 5 12 20),
    (0b0_010110_0101_0001100_0010100_0110000, .vfcos 5 12 20),
    (0b0_010110_0101_0001100_0010100_0111000, .vftanh 5 12 20),
    (0b0_010111_0101_0001100_100110_101100_00, .hrnd 5 12 38 44)] : List (Nat × Instr)),
    (decodeWord p.1).toOption = some p.2 ∧ encode p.2 = some p.1 ∧ wellFormed p.2 = true := by decide

theorem test_decode_cross_lane : ∀ p ∈ ([
    (0b0_011000_0101_0001100_100110_000000_10, .vshflUp 5 12 38 2),
    (0b0_011000_0101_0001100_100110_000001_10, .vshflDown 5 12 38 2),
    (0b0_011000_0101_0001100_100110_000010_10, .vshflXor 5 12 38 2),
    (0b0_011000_0101_0001100_000000000011_10, .vshflIdx 5 12 2),
    (0b0_011000_0101_0001100_100110_000100_10, .vbcast 5 12 38 2),
    (0b0_011000_0101_0000011_000_101_000101_10, .vvoteAny 5 3 5 2),
    (0b0_011000_0101_0000011_000_101_000110_10, .vvoteAll 5 3 5 2),
    (0b0_011000_0101_0001100_000_101_000111_10, .vballot 5 12 5 2),
    (0b0_011000_0101_0001100_100110_11_1000_10, .vredStep 5 12 38 .addF32 2),
    (0b0_011000_0101_0001100_100110_11_1001_10, .vscanStep 5 12 38 .addF32 2)] : List (Nat × Instr)),
    (decodeWord p.1).toOption = some p.2 ∧ encode p.2 = some p.1 ∧ wellFormed p.2 = true := by decide

theorem test_decode_control : ∀ p ∈ ([
    (0b0_011100_101_00_00101101010110100111, .br 5 185767),
    (0b0_011100_101_01_00101101010110100111, .call 5 185767),
    (0b0_011101_101_00_00101101010110100111, .bvSplit 5 185767),
    (0b0_011101_101_01_00101101010110100111, .bvAny 5 185767),
    (0b0_011101_101_10_00101101010110100111, .bvAll 5 185767),
    (0b0_011101_101_11_00101101010110100111, .bvUni 5 185767),
    (0b0_011110_00000000000_0010100_0000000, .ret 20),
    (0b0_011110_00010000000_0010100_0000000, .brx 20),
    (0b0_011110_0010000000000000000000000, .exit),
    (0b0_011110_0011000000000000000000000, .nop),
    (0b0_011110_0100000000000000000000000, .yieldL),
    (0b0_011110_010100000000000000000_1101, .bar 13),
    (0b0_011110_01100000000000000000000_10, .barq 2),
    (0b0_011111_000000000_1010010111000011, .safe 42435)] : List (Nat × Instr)),
    (decodeWord p.1).toOption = some p.2 ∧ encode p.2 = some p.1 ∧ wellFormed p.2 = true := by decide

theorem test_decode_memory : ∀ p ∈ ([
    (0b0_100000_0101_0001100_0010100_1_1_1_0001, .ld 5 12 20 true true true .h),
    (0b0_100001_0101_0001100_0010100_1_00_0011, .st 5 12 20 true .d),
    (0b0_100010_0101_0001100_0010100_1_10_1001, .ldt 5 12 20 true .w 9),
    (0b0_100011_0101_0001100_0010100_1_10_1001, .stt 5 12 20 true .w 9),
    (0b0_100100_0101_0001100_0010100_1_1_0_0001, .lds 5 12 20 true true .h),
    (0b0_100101_0101_0001100_0010100_1_00_0011, .sts 5 12 20 true .d),
    (0b0_100110_0101_0001100_0010100_1_1_0_0001, .ldw 5 12 20 true true .h)] : List (Nat × Instr)),
    (decodeWord p.1).toOption = some p.2 ∧ encode p.2 = some p.1 ∧ wellFormed p.2 = true := by decide

theorem test_decode_atomic_and_cache : ∀ p ∈ ([
    (0b0_100111_0101_0001100_0010100_1_0_1_1000, .atom 5 12 20 true true .exch),
    (0b0_101000_0101_0001100_0010100_1_00_0011, .atomf 5 12 20 true .fmaxF32),
    (0b0_101001_0101_0001100_0010100_1_0_1_0000, .cas 5 12 20 true true),
    (0b0_101010_0101_0001100_0010100_1_0_1_1000, .satom 5 12 20 true true .exch),
    (0b0_101010_0101_0001100_0010100_1_0_1_1001, .satomCas 5 12 20 true true),
    (0b0_101011_00000000000_0010100_1_000000, .prefetch 20 true),
    (0b0_101011_00000000000_0010100_1_000001, .discard 20 true),
    (0b0_101011_00000000000_0010100_1_000010, .writeback 20 true),
    (0b0_101011_0101_0001100_0010100_0000011, .tdesc 5 12 20)] : List (Nat × Instr)),
    (decodeWord p.1).toOption = some p.2 ∧ encode p.2 = some p.1 ∧ wellFormed p.2 = true := by decide

theorem test_decode_barrier_object : ∀ p ∈ ([
    (0b0_101100_0101_0001100_0010100_0_1_00000, .binit 5 12 20 true),
    (0b0_101100_0101_0001100_0010100_0_1_00001, .barrive 5 12 20 true),
    (0b0_101100_0101_0001100_0010100_0_1_00010, .bwait 5 12 20 true),
    (0b0_101100_0101_0001100_0010100_0_1_00011, .bquery 5 12 20 true)] : List (Nat × Instr)),
    (decodeWord p.1).toOption = some p.2 ∧ encode p.2 = some p.1 ∧ wellFormed p.2 = true := by decide

theorem test_decode_transfer_and_matrix : ∀ p ∈ ([
    (0b0_110000_0101_0001100_100110_101100_00, .xcopy 5 12 38 44),
    (0b0_110001_0101_0001100_100110_00000000, .cpoll 5 12 38),
    (0b0_110001_0101_0001100_100110_00000100, .csleep 5 12 38),
    (0b0_110001_0101_0001100_100110_00001000, .cpop 5 12 38),
    (0b0_110001_0101_0001100_100110_00001100, .xwp 5 12 38),
    (0b0_110010_00000000000_100110_00000000, .qfence 38),
    (0b0_110010_00000000000_000100_00000100, .drain 4),
    (0b0_110011_0101_0001100_100110_000000_10, .mmaAcc 5 12 38 2),
    (0b0_110011_0101_0001100_100110_000001_10, .mmaZero 5 12 38 2),
    (0b0_110011_0101_0001100_100110_000010_10, .mout 5 12 38 2),
    (0b0_110011_00000000000_100110_000011_10, .mclear 38 2),
    (0b0_110100_00000000000_100110_00000000, .mwait 38),
    (0b0_110100_0101_0001100_100110_00000100, .mtest 5 12 38),
    (0b0_110100_0101_0001100_100110_00001000, .mcancel 5 12 38)] : List (Nat × Instr)),
    (decodeWord p.1).toOption = some p.2 ∧ encode p.2 = some p.1 ∧ wellFormed p.2 = true := by decide

theorem test_decode_queue_and_message : ∀ p ∈ ([
    (0b0_110101_0101_0001100_100110_00000000, .qpush 5 12 38),
    (0b0_110101_00000000000_100110_00000100, .qpop 38),
    (0b0_110101_0000_0111110_100110_00001000, .qpopLanes 62 38),
    (0b0_110101_0101_0001100_100110_00001100, .qstat 5 12 38),
    (0b0_110101_00000000000_100110_00010000, .qclose 38),
    (0b0_110110_0101_0001100_100110_00000000, .launch 5 12 38),
    (0b0_110110_00000000000_100110_00000100, .lwait 38),
    (0b0_110111_0000000000000_1001_00000000, .rgive 9),
    (0b0_110111_0000000000000_0110_00000100, .rclaim 6),
    (0b0_111000_0101_0001100_100110_00000000, .wsend 5 12 38),
    (0b0_111000_0101_0001100_100110_00000100, .wpost 5 12 38),
    (0b0_111000_0101_0001100_100110_00001000, .wprobe 5 12 38),
    (0b0_111000_0101_0001100_100110_00001100, .wcancel 5 12 38),
    (0b0_111000_0101_0001100_100110_00010000, .wtest 5 12 38),
    (0b0_111001_0000000000000000000000000, .fencePodRel),
    (0b0_111001_0000000000000000000000100, .fencePodAcq),
    (0b0_111001_0000000000000000000001000, .fencePod)] : List (Nat × Instr)),
    (decodeWord p.1).toOption = some p.2 ∧ encode p.2 = some p.1 ∧ wellFormed p.2 = true := by decide

theorem test_decode_system : ∀ p ∈ ([
    (0b0_111100_00000000000_101010_00000000, .trap 42),
    (0b0_111100_0000000000000000000000100, .sret),
    (0b0_111100_0101_0001100_010100_0000100_1, .srd 5 12 20 true),
    (0b0_111100_0000_0001100_010100_0000110_1, .swr 12 20 true),
    (0b0_111100_00000000000_100110_00010000, .sleep 38),
    (0b0_111100_00000000000_100110_00010100, .wake 38),
    (0b0_111101_0101_0001100_100110_00000000, .fstat 5 12 38),
    (0b0_111101_00000000000_100110_00000100, .fresume 38),
    (0b0_111101_00000000000_100110_00001000, .fkill 38),
    (0b0_111110_00000000000_100110_00000000, .tlbinv 38),
    (0b0_111110_00000000000_100110_00000100, .lres 38),
    (0b0_111110_00000000000_100110_00001000, .wsopen 38),
    (0b0_111110_00000000000_100110_00001100, .wsclose 38),
    (0b0_111111_100101_111_01_10_11_0000000000, .rep 37 7 1 2 3)] : List (Nat × Instr)),
    (decodeWord p.1).toOption = some p.2 ∧ encode p.2 = some p.1 ∧ wellFormed p.2 = true := by decide

/-! ### Decoding: the words that the spec itself writes out -/

theorem test_spec_words_1 : ∀ p ∈ ([
    (0x08101234, .sli false 4 0x1234), (0x0A110001, .slik true 4 1), (0x1C040005, .vli false 1 5),
    (0x11008084, .vadd true 2 1 4), (0xC040C302, .ld 2 3 6 false false false .w), (0x8001C385, .sadd 7 7 5),
    (0x10008101, .vadd false 2 2 1), (0x7E260000, .rep 4 6 0 0 0), (0x7E1D4800, .rep 3 5 1 0 2),
    (0x48014242, .lds 0 5 4 true false .w), (0x3A800003, .bvSplit 2 3), (0x38000002, .br 0 2),
    (0x384FFFFC, .br 1 0xFFFFC), (0x4E024640, .atom 0 9 12 true false .add), (0x2C618390, .vfsqrt 3 6 7),
    (0x30014304, .vshflDown 0 5 3 0)] : List (Nat × Instr)), (decodeWord p.1).toOption = some p.2 := by decide

theorem test_spec_words_2 : ∀ p ∈ ([
    (0x6E000204, .rclaim 2), (0x3CA00001, .bar 1), (0x3C600000, .nop),
    (0x16E04480, .vbcastS 1 9), (0x38100002, .call 0 2), (0x15C08080, .vmorton true 2 1 0),
    (0x15E0C080, .vcellh true 3 1 0), (0x3C001F80, .ret 63), (0x3C400000, .exit),
    (0x00814307, .smulhu 5 6 7), (0x02614307, .sext 5 6 7), (0x06244FFF, .saddi 9 9 0x7FF),
    (0x1C258000, .vli true 9 0x8000), (0x12E3050B, .vaddmin false 12 10 11), (0x15C10109, .vmorton true 4 2 9),
    (0x1840C082, .vcmp .lt 3 1 2)] : List (Nat × Instr)), (decodeWord p.1).toOption = some p.2 := by decide

theorem test_spec_words_3 : ∀ p ∈ ([
    (0x1E418205, .vsel false 2 6 4 5), (0x38100014, .call 0 20), (0x4000C312, .ld 0 3 6 false false true .w),
    (0x4081C161, .ld 4 7 2 true true false .h), (0x42020A43, .st 0 8 20 true .d), (0x22008184, .vfadd false 2 3 4),
    (0x23628585, .vffma true 10 11 5), (0x24650B18, .vdfma 20 22 24), (0x26E14307, .vhfma2 true 5 6 7),
    (0x29408206, .vfcmpF64 .lt 2 4 6), (0x2A010300, .vcvtF32F64 4 6 false 0), (0x2A024664, .vcvtE4m3x4F32 9 12 true 0),
    (0x2CA18388, .vfrsq 5 6 7), (0x2E420A30, .hrnd 2 8 10 12), (0x2A010301, .vcvtF32F64 4 6 false 1),
    (0x3C800000, .yieldL)] : List (Nat × Instr)), (decodeWord p.1).toOption = some p.2 := by decide

theorem test_spec_words_4 : ∀ p ∈ ([
    (0x3CC00002, .barq 2), (0x30031409, .vshflXor 0 12 20 1), (0x3001800C, .vshflIdx 0 6 0),
    (0x3001C310, .vbcast 0 7 3 0), (0x30008515, .vvoteAny 0 2 5 1), (0x3002031C, .vballot 0 8 3 0),
    (0x304284E0, .vredStep 2 10 4 .addF32 0), (0x3000C526, .vscanStep 0 3 5 .addO32 2), (0x3A300001, .bvUni 0 1),
    (0x6E000400, .rgive 4), (0x6C851500, .launch 4 20 21), (0x6C001404, .lwait 20),
    (0x440285E2, .ldt 0 10 11 true .w 2), (0x46420273, .stt 2 8 4 true .d 3), (0x4A040384, .sts 0 16 7 false .q),
    (0x4CC0C4E1, .ldw 6 3 9 true true .h)] : List (Nat × Instr)), (decodeWord p.1).toOption = some p.2 := by decide

theorem test_spec_words_5 : ∀ p ∈ ([
    (0x4E218218, .atom 1 6 4 false true .exch), (0x50008F41, .atomf 0 2 30 true .faddBf16x2), (0x52630A40, .cas 3 12 20 true false),
    (0x54020299, .satomCas 0 8 5 false true), (0x56000301, .discard 6 false), (0x56850103, .tdesc 4 20 2),
    (0x5801C4A1, .barrive 0 7 9 true), (0x5801C4A2, .bwait 0 7 9 true), (0x5800C500, .binit 0 3 10 false),
    (0x5801C202, .bwait 0 7 4 false), (0x6025041C, .xcopy 1 20 4 7), (0x6202CC08, .cpop 0 11 12),
    (0x62028400, .cpoll 0 10 4), (0x6202450C, .xwp 0 9 5), (0x64000800, .qfence 8),
    (0x64000204, .drain 2)] : List (Nat × Instr)), (decodeWord p.1).toOption = some p.2 := by decide

theorem test_spec_words_6 : ∀ p ∈ ([
    (0x64000004, .drain 0), (0x66651502, .mmaAcc 3 20 21 2), (0x66059004, .mmaZero 0 22 16 0),
    (0x66059708, .mout 0 22 23 0), (0x6600050F, .mclear 5 3), (0x68001400, .mwait 20),
    (0x68061408, .mcancel 0 24 20), (0x6A041200, .qpush 0 16 18), (0x6A000204, .qpop 2),
    (0x6A078408, .qpopLanes 30 4), (0x6A00C40C, .qstat 0 3 4), (0x6A000410, .qclose 4),
    (0x78000009, .srd 0 0 0 true), (0x78010108, .srd 0 4 1 false), (0x7801540C, .swr 5 20 false),
    (0x78000710, .sleep 7)] : List (Nat × Instr)), (decodeWord p.1).toOption = some p.2 := by decide

theorem test_spec_words_7 : ∀ p ∈ ([
    (0x78000814, .wake 8), (0x7A028C00, .fstat 0 10 12), (0x7A000C04, .fresume 12),
    (0x7A000C08, .fkill 12), (0x7C000E00, .tlbinv 14), (0x7C001404, .lres 20),
    (0x7C000608, .wsopen 6), (0x7C00060C, .wsclose 6), (0x72000000, .fencePodRel),
    (0x72000004, .fencePodAcq), (0x72000008, .fencePod), (0x70250400, .wsend 1 20 4),
    (0x70054504, .wpost 0 21 5), (0x70058608, .wprobe 0 22 6), (0x7005D50C, .wcancel 0 23 21),
    (0x70061410, .wtest 0 24 20)] : List (Nat × Instr)), (decodeWord p.1).toOption = some p.2 := by decide

theorem test_spec_words_8 : ∀ p ∈ ([
    (0x13A1C384, .vminu true 7 7 4), (0x08517380, .sli true 20 0x7380), (0x01E4C280, .smov 19 5 0),
    (0x12210180, .vshr false 4 3 0)] : List (Nat × Instr)), (decodeWord p.1).toOption = some p.2 := by decide

/-- Words the spec refuses, with its class: the chapters' own tables. -/
theorem test_spec_refused_words : ∀ p ∈ ([
    (0x0C000000, .unassigned), (0x02C00000, .unassigned), (0x38200000, .unassigned), (0x6A000414, .unassigned),
    (0x3C600001, .reserved), (0x6E000000, .reserved), (0x4000C322, .reserved), (0x4000C362, .reserved), (0x42020A53, .reserved),
    (0x16E04481, .reserved), (0x2A010309, .reserved), (0x2A210300, .reserved), (0x30031449, .reserved), (0x3001C30C, .reserved),
    (0x3CA00010, .reserved), (0x6E200400, .reserved), (0x440285E0, .reserved), (0x5801C4E1, .reserved), (0x56004301, .reserved),
    (0x6620050F, .reserved), (0x64000604, .reserved), (0x62028440, .reserved)] : List (Nat × KillClass)),
    refusedAs p.1 = some p.2 := by decide

/-- Words whose registers are out of range decode, and kill with REGRANGE: p9, odd pairs. -/
theorem test_spec_regrange_words : ∀ w ∈ [0x04024082, 0x6A000304, 0x42024A43, 0x2E420B30, 0x52634A40, 0x6222CD08],
    ((decodeWord w).toOption.map fun i => regrange 64 i) = some true := by decide

/-! ### The spec's worked examples -/

/-- The result of `i` in lane 0 of a vector register and the flags it raised, with the registers from a on and the mode given. -/
def floats (i : Instr) (mode d a : Nat) (xs : List Nat) : Word × Word :=
  let s := (List.range xs.length).foldl (fun s j => withV s (a + j) (xs.getD j 0)) (tIssue 1)
  let w := { s.w with fpmode := BitVec.ofNat 32 mode, fpflags := 0 }
  let t := after i { s with w := w, old := w }
  (rdV t.w d 0, t.w.fpflags)

def uniform (i : Instr) (d x y : Nat) : Word := rdS (after i (withS (tIssue 1) [(6, x), (7, y)])).w d
def vector (i : Instr) (d x y : Nat) : Word := rdV (after i (withV (withV (tIssue 1) 6 x) 7 y)).w d 0

/-- R61: the shift count is not reduced. -/
theorem test_shifts_past_the_width : uniform (.sshl 5 6 7) 5 1 40 = 0 ∧ uniform (.ssra 5 6 7) 5 0x80000000 40 = 0xFFFFFFFF := by decide
/-- R62's three extractions from 0x0000F5A0. -/
theorem test_sext_examples : uniform (.sext 5 6 7) 5 0xF5A0 0x804 = 0x5A ∧ uniform (.sext 5 6 7) 5 0xF5A0 0x10808 = 0xFFFFFFF5 ∧
    uniform (.sext 5 6 7) 5 0xF5A0 0x3F1C = 0 := by decide
/-- R66: a sentinel of infinity stays put. -/
theorem test_vaddmin_examples : vector (.vaddmin false 5 6 7) 5 0x7FFFFFFF 0x7FFFFFFF = 0x7FFFFFFF ∧
    vector (.vaddmin false 5 6 7) 5 0x80000000 0 = 0x80000001 := by decide
/-- R67. -/
theorem test_vabsdiff_example : vector (.vabsdiff false 5 6 7) 5 0x7FFFFFFF 0x80000000 = 0xFFFFFFFF := by decide
/-- R68, R69: cell (5, 3, 1). -/
theorem test_cell_examples : vector (.vmorton false 5 6 7) 5 0x00100C05 0 = 0x57 ∧
    vector (.vmorton false 5 6 7) 5 0x00100C05 0x001003FF = 0x72 ∧ vector (.vcellh false 5 6 7) 5 0x00100C05 0 = 0x446419E4 := by decide
/-- R88's table: RNE, RUP, RDN, subnormals without and with FTZ, overflow towards zero. -/
theorem test_vfadd_examples : floats (.vfadd false 5 6 7) 0 5 6 [0x3F800000, 0x33800000] = (0x3F800000, 1) ∧
    floats (.vfadd false 5 6 7) 2 5 6 [0x3F800000, 0x33800000] = (0x3F800001, 1) ∧
    floats (.vfadd false 5 6 7) 0 5 6 [1, 0] = (1, 0) ∧ floats (.vfadd false 5 6 7) 4 5 6 [1, 0] = (0, 0) ∧
    floats (.vfadd false 5 6 7) 1 5 6 [0x7F7FFFFF, 0x7F7FFFFF] = (0x7F7FFFFF, 5) := by decide
/-- R89: a quiet NaN loses against a number and raises nothing, a signalling one raises NV. -/
theorem test_vfmin_examples : floats (.vfmin false 5 6 7) 0 5 6 [0x7FC00000, 0x40400000] = (0x40400000, 0) ∧
    floats (.vfmin false 5 6 7) 0 5 6 [0x7F800001, 0x40400000] = (0x40400000, 16) ∧
    floats (.vfmin false 5 6 7) 0 5 6 [0x80000000, 0] = (0x80000000, 0) := by decide
/-- R94: a pair to BF16, a quad to E4M3. -/
theorem test_vcvt_packed_examples : floats (.vcvtBf16x2F32 4 6 false 0) 0 4 6 [0x3F808000, 0x40400000] = (0x40403F80, 1) ∧
    floats (.vcvtBf16x2F32 4 6 false 2) 0 4 6 [0x3F808000, 0x40400000] = (0x40403F81, 1) ∧
    floats (.vcvtE4m3x4F32 5 8 true 0) 0 5 8 [0x43FA0000, 0x80000000, 0x3F800000, 0x7FC00000] = (0x7F38807E, 5) ∧
    floats (.vcvtE4m3x4F32 5 8 false 0) 0 5 8 [0x43FA0000, 0x80000000, 0x3F800000, 0x7FC00000] = (0x7F38807F, 5) := by decide
/-- R55, R94: 300.7 to bytes and to halves, 16,777,217 to FP32. -/
theorem test_vcvt_integer_examples : floats (.vcvtO8x4F32 5 8 0) 0 5 8 [0x4396599A, 0, 0, 0] = (255, 16) ∧
    floats (.vcvtI16x2F32 5 6 0) 0 5 6 [0x4396599A, 0] = (301, 1) ∧
    floats (.vcvtF32I32 5 6 false 0) 0 5 6 [16777217] = (0x4B800000, 1) := by decide
/-- R23: two kills of a crew, by warp 3 with class BUNDLE and by warp 5. -/
theorem test_err_examples : errAfter 0 KillClass.bundle.code 3 0x151 = 0xA0C00151 ∧
    errAfter 0xA0C00151 KillClass.bundle.code 5 0x40 = 0xA0E00151 := by decide
/-- R259: GEN 3 of entry 17 of core 2 in quad 5 of die 1. -/
theorem test_fid_example : fidOf (128 + 4 * 5 + 2) 17 3 = 0x03012C11 := by decide
/-- R121: the fields of SHAPE and CTRL. -/
theorem test_launch_words : let d := parseLaunch (List.replicate 40 0 ++ bytesOfNat 4 0x1B808000 ++ bytesOfNat 4 0xA4001000 ++ List.replicate 80 0)
    d.warps = 4 ∧ d.regs = 64 ∧ d.scratch = 32 * 256 ∧ d.prio = 5 ∧ d.pers = false ∧ d.repl = 1 ∧ d.npred = 1 := by decide
/-- R131: the word at 0x10 of a reach record. -/
theorem test_reach_word : let r := parseReach (List.replicate 16 0 ++ bytesOfNat 8 0x000C40FC00000000 ++ List.replicate 8 0)
    r.tensor = 12 ∧ r.st = 1 ∧ r.hdie = 0 ∧ r.hbay = 0 ∧ r.count = 64 ∧ r.gen = 0 := by decide
/-- The steps 1, 2 and 4 of `rep 3, d+2, b+4` before `vadd v10, v10, v40`: K = 2 names v14, v10 and v48. -/
theorem test_repeat_steps : (repWord ((encode (.vadd false 10 10 40)).getD 0) 5 1 0 2 2).bind (fun w => (decodeWord w).toOption) =
    some (.vadd false 14 10 48) := by decide

/-! ### Witnesses: states and operands that meet the hypotheses of each statement -/

theorem wit_DecodingAnEncodedWordGivesTheInstruction :
    wellFormed (.vsel true 7 127 127 63) = true ∧ encode (.vsel true 7 127 127 63) = some 0x1FFFFFBF ∧
    wellFormed (.rep 63 7 3 3 3) = true ∧ encode (.rep 63 7 3 3 3) = some 0x7FFFFC00 := by decide

theorem wit_EncodingADecodedWordGivesTheWord :
    0x80014385 < 2 ^ 32 ∧ (decodeWord 0x80014385).toOption = some (.sadd 5 7 5) := by decide

theorem wit_UnlistedWordsAreUnassigned :
    fld 0x0C000000 25 6 = 0x06 ∧ fld 0x76000000 25 6 = 0x3B ∧
    (fld 0x02C00000 25 6 = 0x01 ∧ fld 0x02C00000 21 4 ∉ List.range 6) ∧
    (fld 0x3CE00000 25 6 = 0x1E ∧ fld 0x3CE00000 21 4 ∉ List.range 7) ∧
    refusedAs 0x7E000001 = some .reserved ∧ refusedAs 0x0C000000 = some .unassigned ∧
    (∀ w ∈ [0x16 * 2 ^ 25 + 8 * 2 ^ 3, 0x1C * 2 ^ 25 + 2 * 2 ^ 20, 0x2A * 2 ^ 25 + 10, 0x29 * 2 ^ 25 + 1, 0x18 * 2 ^ 25 + 10 * 2 ^ 2,
      0x3E * 2 ^ 25 + 4 * 2 ^ 2], refusedAs w = some .unassigned) := by decide

theorem wit_UniformIntegerWordsComputeTheirResults :
    (Instr.sshl 63 0 63, 8, shlW 0 (rdS (tIssue 1).old 63)).1 = .sshl 63 0 63 ∧ 63 < 64 := by decide

theorem wit_ComparesWriteTheirCondition : 7 < 8 ∧ 63 < 64 ∧ 23 < (tIssue 1).w.window := by decide

theorem wit_VectorIntegerWordsComputeTheirResults :
    23 < (tIssue 1).w.window ∧ BInRange (tIssue 1) true 63 ∧ BInRange (tIssue 1) false 23 := by
  unfold BInRange; decide

theorem wit_UnaryAndSelectWordsComputeTheirResults :
    23 < (tIssue 1).w.window ∧ BInRange (tIssue 1) true 63 ∧ BInRange (tIssue 1) false 0 ∧ 7 < 8 := by
  unfold BInRange; decide

theorem wit_RoundingFollowsItsMode :
    3 < 4 ∧ (0 : Int) - (-1) = (1 : Nat) ∧
    5 % 2 ^ 1 ≠ 0 ∧ (roundAt 0 false 5 (-1) 0).1 = 2 ∧ (roundAt 0 false 7 (-1) 0).1 = 4 ∧ (roundAt 1 false 7 (-1) 0).1 = 3 ∧
    (roundAt 2 false 5 (-1) 0).1 = 3 ∧ (roundAt 3 false 5 (-1) 0).1 = 2 ∧ (roundAt 3 true 5 (-1) 0).1 = 3 ∧
    4 % 2 ^ 1 = 0 ∧ (roundAt 0 false 4 (-1) 0) = (2, false) := by decide

/-- One, minus one and an infinity: finite numbers, a sum that is not 0 and one that is, a product that is not 0 and one that is. -/
theorem wit_Rounding_operands :
    expField fp32 0x3F800000 < 2 ^ 8 - 1 ∧ expField fp32 0xBF800000 < 2 ^ 8 - 1 ∧
    readAs fp32 false 0x3F800000 = 1 ∧ readAs fp32 false 0xBF800000 = -1 ∧ readAs fp32 false 0 = 0 ∧
    0x7F800000 % 2 ^ 31 = (2 ^ 8 - 1) * 2 ^ 23 := by decide +kernel

/-- Numbers and NaNs of both kinds, for the minimum and the maximum. -/
theorem wit_SinglePrecision_minmax :
    ¬ (2 ^ 8 - 1) * 2 ^ 23 < 0x3F800000 % 2 ^ 31 ∧ (2 ^ 8 - 1) * 2 ^ 23 < 0x7F800001 % 2 ^ 31 ∧ 0x7F800001 % 2 ^ 23 < 2 ^ 22 ∧
    (2 ^ 8 - 1) * 2 ^ 23 < 0x7FC00000 % 2 ^ 31 ∧ ¬ 0x7FC00000 % 2 ^ 23 < 2 ^ 22 ∧ fp32.minmax false false 0x80000000 0 = (0x80000000, 0) ∧
    fp32.minmax true false 0x80000000 0 = (0, 0) ∧ fp32.minmax true false 0x7F800001 5 = (5, flNV) := by decide

/-- Arguments of the special functions with a finite result, and a value with a bound of its ulp. -/
theorem wit_SpecialFunctions_bounds :
    expField fp32 0x40000000 < 255 ∧ readAs fp32 false 0x40000000 = 2 ∧ expField fp32 (sfu 2 0 false 0x40800000).1 < 255 ∧
    (2 ^ fxBits : Int).natAbs < 2 ^ (127 + fxBits) ∧ fxUlp (2 ^ fxBits) ≤ 2 * fxUlp (2 ^ fxBits) := by decide +kernel

theorem wit_NaNResultsAreCanonical :
    (fp16, 0x7E00) ∈ [(fp64, 0x7FF8000000000000), (fp32, 0x7FC00000), (bf16, 0x7FC0), (fp16, 0x7E00)] ∧
    0x7C01 / 2 ^ fp16.fb % 2 ^ fp16.eb = 2 ^ fp16.eb - 1 ∧ 0x7C01 % 2 ^ fp16.fb ≠ 0 ∧ 0x7C01 % 2 ^ fp16.fb < 2 ^ (fp16.fb - 1) ∧
    ¬ 0x7E00 % 2 ^ fp16.fb < 2 ^ (fp16.fb - 1) := by decide

theorem wit_DoublePrecisionWordsComputeTheirResults :
    InWindow (tIssue 1) 22 2 ∧ InWindow (tIssue 1) 0 2 ∧ ¬ InWindow (tIssue 1) 23 2 := by unfold InWindow; decide

theorem wit_ConversionsWriteEveryElement :
    23 < (tIssue 1).w.window ∧ InWindow (tIssue 1) 23 1 ∧ InWindow (tIssue 1) 22 2 ∧ InWindow (tIssue 1) 20 4 := by
  unfold InWindow; decide

theorem wit_SpecialFunctionsAndHashesArriveLater : InWindow (tIssue 1) 22 2 ∧ 62 % 2 = 0 ∧ 62 + 2 ≤ 64 ∧ 63 < 64 := by
  unfold InWindow; decide

theorem wit_ShufflesTakeTheirSourceLane :
    (tIssue 1).old.lanes.length = 64 ∧ 3 < 4 ∧ 23 < (tIssue 1).w.window ∧ InWindow (tIssue 1) 22 2 ∧ 63 < 64 := by
  unfold InWindow; decide

theorem wit_VotesAndBallotsCountActiveMembers : 7 < 8 ∧ 3 < 4 ∧ 62 % 2 = 0 ∧ 62 + 2 ≤ 64 := by decide

/-- One taking lane and one that does not take: p1 is set in both, p2 in neither. -/
theorem wit_BranchesSendEachLaneByItsPredicate :
    let s := tIssue 3
    (liveMask s).getLsbD 0 = true ∧ (s.w.lane 0).st = .run ∧ (s.w.lane 0).inRep = false ∧ s.iss.rep = false ∧ s.iss.abort = false ∧
    rdP s.old 1 0 = true ∧ rdP s.old 2 0 = false := by decide

/-- Lane 0 without p1, lane 1 with it: the vote over both is divergent. -/
def tDivergent : State :=
  let w := { tWarp with lanes := tWarp.lanes.modify 0 fun ln => { ln with p := 0 } }
  { tIssue 3 with w := w, old := w }

theorem wit_VoteBranchesFollowTheirPolicy :
    (∀ l < 64, (tIssue 3).iss.active.getLsbD l = true → rdP (tIssue 3).old 1 l = true) ∧
    (∀ l < 64, (tIssue 3).iss.active.getLsbD l = true → rdP (tIssue 3).old 2 l = false) ∧
    tDivergent.iss.active.getLsbD 0 = true ∧ rdP tDivergent.old 1 0 = false ∧ rdP tDivergent.old 1 1 = true := by decide

theorem wit_ControlWordsActOnTheirLanes :
    ({ tIssue 1 with c := { tCrew with persistent := true } } : State).c.persistent = true ∧ (tIssue 1).c.persistent = false ∧
    (tIssue 1).c.saveReq = none ∧
    ({ tIssue 1 with c := { tCrew with saveReq := some .drain } } : State).c.saveReq ≠ none ∧ (tIssue 1).w.stopped = none := by decide

/-- A crew of two warps: all lanes of the first wait at barrier 5; the second waits there too, or runs. -/
def tBarred (second : LaneState) : Crew :=
  let at5 (st : LaneState) : Warp := { tWarp with lanes := tWarp.lanes.map fun ln => { ln with st := st, wait := .bar 5 } }
  { tCrew with warps := [at5 .waiting, at5 second] }

theorem wit_CrewBarriersOpenWhenEveryWarpHasArrived :
    (∀ m < 16, m ≠ 5 → ∀ w ∈ (tBarred .waiting).warps, waitsOn (.bar m) w = false) ∧
    (∀ v ∈ (tBarred .waiting).warps, arrivedAt (.bar 5) v = true) ∧ (∃ v ∈ (tBarred .run).warps, arrivedAt (.bar 5) v = false) := by
  decide

theorem wit_RegisterWordsMoveTheWindow :
    8 * 2 + 8 ≤ (tIssue 1).w.window ∧ (∀ p ∈ (tIssue 1).w.pend, p.arrived = true) ∧ (tIssue 1).w.window < 8 * 3 + 8 ∧
    (tIssue 1).w.window + 8 * 2 ≤ 128 ∧ (tIssue 1).c.claims = [] ∧ 8 * 2 ≤ (tIssue 1).c.pool ∧ (tIssue 1).c.pool < 8 * 3 ∧
    (tIssue 1).w.window + 8 * 13 = 128 ∧ 128 < (tIssue 1).w.window + 8 * 14 := by decide

/-! ### Witnesses: memory -/

theorem answered_of {n : Nat} {r : Reach}
    (h : (match r with | .go ls => ls.length == n | .peer bs => bs.length == n | _ => false) = true) : Answered n r := by
  cases r with
  | go ls => exact .inl ⟨ls, rfl, by simpa using h⟩
  | peer bs => exact .inr ⟨bs, rfl, by simpa using h⟩
  | _ => cases h

/-- A descriptor of 2 planes of 32 rows and 60 columns of 32-bit elements, strided, at 2^20 + 0x4000, with one reach record at
0x1000. -/
def tDesc : List Byte :=
  bytesOfNat 8 (2 ^ 20 + 0x4000) ++ bytesOfNat 4 1 ++ bytesOfNat 4 1 ++ bytesOfNat 4 2 ++ bytesOfNat 4 32 ++ bytesOfNat 4 60 ++
    bytesOfNat 4 0x8001 ++ bytesOfNat 5 0 ++ bytesOfNat 5 0 ++ bytesOfNat 5 0x4000 ++ bytesOfNat 5 256 ++ bytesOfNat 4 0x100 ++
    bytesOfNat 8 0x1000

/-- A VALID reach record of that tensor: 16 tiles at bay 1 of die 0. -/
def tReach : List Byte := bytesOfNat 8 0 ++ bytesOfNat 8 0 ++ bytesOfNat 8 (5 * 2 ^ 48 + 2 ^ 46 + 2 ^ 40 + 15 * 2 ^ 34) ++ bytesOfNat 8 0

/-- The places of a span of the flat space below 2 MiB. -/
def tPlaces (va n : Nat) : List Loc := (List.range n).map fun i => .dev (va + i)

theorem unshared_of {s : State} {ls : List Loc} (h : (s.fabric.dir.isEmpty && s.fabric.invals.isEmpty) = true) : Unshared s ls := by
  obtain ⟨h1, h2⟩ := by simpa using h
  intro a _
  simp [holdersOf, h1, h2]

/-- Lanes in issue with an identity translation of the lowest 2 MiB in the core's TLB and in host tables, tensor 5 cached. -/
def tMem (active : Nat) : State :=
  let s := tIssue active
  { s with
    mem := memWrite [] 0x1000 tReach
    hostMem := memWrite (memWrite (memWrite [] 0x10000 (bytesOfNat 8 (2 ^ 51 + 0x11001))) 0x11000 (bytesOfNat 8 (2 ^ 51 + 0x12001)))
      0x12000 (bytesOfNat 8 0xF)
    cores := s.cores.set 5 { tlb := [{ vf := 0, base := 0, size := 2 ^ 21, gpa := 0, r := true, w := true }] }
    dies := s.dies.set 0 { descs := [(0, 5, some tDesc)] }
    vfs := s.vfs.set 0 { s1root := 2 ^ 51 + 0x10000, wssize := 1, fragq := 4, wharfq := 2 } }

theorem wit_LoadsReadTheBytesOfTheirAccess :
    let s := withS (withV (tMem 2) 11 (2 ^ 16 * 31 + 56)) [(3, 5)]
    MemoryReady s ∧ InWindow s 22 2 ∧ AddrInRange s true 23 ∧ AddrInRange s false 63 ∧ CopiesCurrent s ∧
    (∀ l < 64, s.iss.active.getLsbD l = true → offsetOf s true 23 l + 8 ≤ s.c.shareSize) ∧
    (∀ l < 64, s.iss.active.getLsbD l = true → offsetOf s true 23 l + 8 ≤ (vfAt s s.c.vf).wsLen) ∧
    (dieAt s (s.c.core / 128)).st = .active ∧
    (∀ l < 64, s.iss.active.getLsbD l = true → Answered 8 (reachVa s l true false false true (flatBytes s.c (offsetOf s true 23 l) 8))) ∧
    descOf s (s.c.core / 128) s.c.vf ((rdS s.old 3).toNat % 2 ^ 16) = some (parseDesc tDesc) ∧
    (∀ l < 64, s.iss.active.getLsbD l = true → Answered 16 (reachTensor s l false (rdS s.old 3) (BitVec.ofNat 32 (offsetOf s true 11 l)) 16)) := by
  refine ⟨⟨⟨rfl, rfl⟩, rfl, rfl⟩, by unfold InWindow; decide, by unfold AddrInRange; decide, by unfold AddrInRange; decide,
    by unfold CopiesCurrent; decide, by decide, by decide, by decide, fun l hl ha => answered_of ?_, by decide,
    fun l hl ha => answered_of ?_⟩ <;> revert l <;> decide

/-- A descriptor that its die holds, one that is read, one whose table cannot be translated, and one on a die out of service. -/
theorem wit_DescriptorForms :
    let s := withS (tMem 2) [(3, 5)]
    let away : State := { s with dies := s.dies.modify 0 fun d => { d with st := .drained } }
    let far : State := { s with vfs := s.vfs.modify 0 fun v => { v with ttbase := 2 ^ 40 } }
    (fillDesc s 0 0 5).bind (cachedDesc · 0 0 5) = some (some tDesc) ∧
    (fillDesc s 0 0 5).bind (descOf · 0 0 5) = some (parseDesc tDesc) ∧
    (fillDesc s 0 0 6).bind (cachedDesc · 0 0 6) = some (some (List.replicate 64 0)) ∧
    (fillDesc far 0 0 6).bind (cachedDesc · 0 0 6) = some none ∧
    fillDesc away 0 0 6 = none ∧ (rdS s.old 3).toNat % 2 ^ 16 ≠ 0 ∧ MemoryReady away := by
  refine ⟨by decide, by decide, by decide, by decide, by decide, by decide, ⟨rfl, rfl⟩, rfl, rfl⟩

theorem wit_StoresWaitToBePerformed :
    let s := withS (withV (tMem 2) 11 (2 ^ 16 * 31 + 56)) [(3, 5)]
    MemoryReady s ∧ InWindow s 20 4 ∧ AddrInRange s true 11 ∧
    (∀ l < 64, s.iss.active.getLsbD l = true → offsetOf s true 10 l + 16 ≤ s.c.shareSize ∧
      ∀ x ∈ (List.range 16).map fun i => Loc.sp (s.c.core / 4) (s.c.shareBase + offsetOf s true 10 l + i), armedAt s x = false) ∧
    (∀ l < 64, s.iss.active.getLsbD l = true → Answered 16 (reachVa s l false true true true (flatBytes s.c (offsetOf s true 10 l) 16))) ∧
    (∀ l < 64, s.iss.active.getLsbD l = true → Answered 16 (reachTensor s l true (rdS s.old 3) (BitVec.ofNat 32 (offsetOf s true 11 l)) 16)) := by
  refine ⟨⟨⟨rfl, rfl⟩, rfl, rfl⟩, by unfold InWindow; decide, by unfold AddrInRange; decide, by decide, fun l hl ha => answered_of ?_,
    fun l hl ha => answered_of ?_⟩ <;> revert l <;> decide

theorem wit_AtomicsWaitToBePerformed :
    let s := tMem 2
    MemoryReady s ∧ AddrInRange s true 16 ∧ InWindow s 20 4 ∧
    (∀ l < 64, s.iss.active.getLsbD l = true → offsetOf s true 16 l % 8 = 0 ∧
      Answered 8 (reachVa s l true true true true (flatBytes s.c (offsetOf s true 16 l) 8))) ∧
    (∀ l < 64, s.iss.active.getLsbD l = true → offsetOf s true 16 l + 8 ≤ s.c.shareSize ∧
      ∀ z ∈ (List.range 8).map fun i => Loc.sp (s.c.core / 4) (s.c.shareBase + offsetOf s true 16 l + i), armedAt s z = false) := by
  refine ⟨⟨⟨rfl, rfl⟩, rfl, rfl⟩, by unfold AddrInRange; decide, by unfold InWindow; decide, fun l hl ha => ⟨?_, answered_of ?_⟩, by decide⟩ <;>
    revert l <;> decide

/-- Between issues, with a store and an atomic to perform: the crew's warp holds them. -/
def tQueued (o : MemOp) : State :=
  { tMem 0 with c := {}, w := {}, old := {}, iss := {}, crews := [{ tCrew with warps := [{ tWarp with memq := [o] }] }] }

def tStore : MemOp := .store 0 1 [flatTag 0 0x1001] [(.dev 0x1001, 0xA5, 0xF0), (.sp 1 4096, 7, 0xFF)]
def tAtomic : MemOp := .rmw 7 1 2 (.int .add) 4 [.sp 1 4096, .sp 1 4097, .sp 1 4098, .sp 1 4099] [] 9 0
/-- A read of bank 9 of the weight store, and the same of bank 0, whose refresh window is open at reset. -/
def tRead (o : Nat) : MemOp := .wread 7 1 2 .h false [.ws 0 o, .ws 0 (o + 1)] (placeTags [.ws 0 o, .ws 0 (o + 1)])

theorem wit_PerformedAccessesChangeTheirBytes :
    ∀ o ∈ [tStore, tAtomic, tRead 9216], let s := tQueued o
      Idle s ∧ 3 ≠ 0 ∧ s.halted = false ∧ MemoriesOk s ∧ findCrew s 3 = some (s.crews.getD 0 {}) ∧
      (s.crews.getD 0 {}).warps[0]? = some { tWarp with memq := [o] } ∧ o.blocked s ((s.crews.getD 0 {}).core / 128) = false ∧ o.locs.Nodup ∧
      (∀ l ∈ o.locs, Placed s l) ∧ Unshared s o.locs := by
  intro o ho
  simp only [List.mem_cons, List.not_mem_nil, or_false] at ho
  rcases ho with rfl | rfl | rfl <;>
    refine ⟨by unfold Idle; decide, by decide, rfl, by unfold MemoriesOk; decide, by decide, by decide, by decide, by decide, ?_, unshared_of rfl⟩ <;>
    simp [tStore, tAtomic, tRead, MemOp.locs, Placed] <;> decide

/-- A read of the weight store waits while its bank is in its refresh window. -/
theorem wit_PerformedAccesses_waits : (tRead 0).blocked { tQueued (tRead 0) with cycle := 100 } 0 = true ∧
    (tRead 9216).blocked { tQueued (tRead 0) with cycle := 100 } 0 = false := by decide

theorem wit_CacheAndDescriptorWordsDoTheirPart :
    let s := withS (tMem 2) [(10, 64), (11, 5)]
    MemoryReady s ∧ 0 < s.w.window ∧ AddrInRange s false 10 ∧ liveLanes s = [1] ∧ s.c.core < s.cores.length ∧
    inPeerWindow ((s.c.flat + offsetOf s false 10 1) % 2 ^ 56 / 1024 * 1024) = false ∧
    linesOf s false 10 = [(1, 2 ^ 20)] ∧ threadXl s none 1 (2 ^ 20) = some (.ok (.dev (2 ^ 20)) true true 0) ∧
    (∀ x ∈ linesOf s false 10, threadXl s none x.1 x.2 ≠ none) ∧
    (∃ x ∈ linesOf (withS (tMem 2) [(10, 2 ^ 21)]) false 10, threadXl (withS (tMem 2) [(10, 2 ^ 21)]) none x.1 x.2 = none) ∧
    (∀ l < 64, s.iss.active.getLsbD l = true →
      ∃ ls, reachVa s l false true false false [(s.c.flat + offsetOf s false 10 l) % 2 ^ 56] = .go ls) ∧
    (rdS s.old 0).toNat % 2 ^ 16 = 0 ∧ cachedDesc s 0 0 ((rdS s.old 11).toNat % 2 ^ 16) = some (some tDesc) ∧
    (parseDesc tDesc).valid = true ∧ (parseDesc (List.replicate 64 0)).valid = false := by
  refine ⟨⟨⟨rfl, rfl⟩, rfl, rfl⟩, by decide, by unfold AddrInRange; decide, by decide, by decide, by decide, by decide, by decide,
    by decide, by decide, fun l hl ha => ?_, by decide, by decide, by decide, by decide⟩
  refine ⟨[.dev (2 ^ 20 + 64)], ?_⟩
  revert l
  decide

/-- An object of the share at offset 64: EXPECT, PENDING and PHASE, armed or not. -/
def tObject (expect pending phase : Nat) (armed : Bool) (input : Nat) : State :=
  let s := withS (withV (tMem 2) 2 input) [(10, 64)]
  { s with quads := s.quads.set 1 {
      acc := [], armed := if armed then [4096 + 64] else []
      sp := memWrite [] (4096 + 64) (bytesOfNat 4 expect ++ bytesOfNat 4 pending ++ bytesOfNat 4 phase ++
        bytesOfNat 4 (if armed then 2 ^ 31 else 0)) } }

def tObjectPlaces : List Loc := (List.range 16).map fun i => .sp 1 (4096 + 64 + i)
def tAtomicAt (o : Nat) : MemOp := .rmw 7 1 2 (.int .add) 4 ((List.range 4).map fun i => .sp 1 (4096 + o + i)) [] 9 0

theorem wit_BarrierObjectWordsActOnTheirObject :
    let o := objAt 0 ((flatBytes (tMem 2).c 64 16).headD 0) tObjectPlaces
    let held (s : State) : Obj := getObj (sawObj (objServes (checksOver s) o) (some s.c.core) o) s.c.vf o
    let busy : State := { tObject 0 0 7 false 3 with crews := [{ tCrew with id := 4, warps := [{ tWarp with memq := [tAtomicAt 64] }] }] }
    MemoryReady (tObject 5 3 7 true 3) ∧ reachObj (tObject 5 3 7 true 3) 10 true true 1 = .go tObjectPlaces ∧
    reachObj (tObject 5 3 7 true 3) 10 true false 1 = .go tObjectPlaces ∧
    ((held (tObject 5 3 7 true 3)).armed = true ∧ (held (tObject 5 3 7 true 3)).pending = 3 ∧
      (held (tObject 5 3 7 true 3)).phase = 7) ∧
    (held (tObject 0 0 7 false 0)).armed = false ∧ armRoom (tObject 0 0 7 false 5) o = true ∧
    objBusy (tObject 5 3 7 true 3) o = false ∧ objBusy busy o = true ∧
    (rdV (tObject 5 3 7 true 2).old 2 1).toNat < (held (tObject 5 3 7 true 2)).pending ∧
    (held (tObject 5 3 7 true 4)).pending < (rdV (tObject 5 3 7 true 4).old 2 1).toNat := by
  refine ⟨⟨⟨rfl, rfl⟩, rfl, rfl⟩, ?_⟩
  decide

theorem wit_BarrierObjectWords_unshared : Unshared (tObject 5 3 7 true 3) tObjectPlaces := unshared_of rfl

/-- Fragment 0x50303 of the crew: entry 3 of core 5, GEN 3. -/
def tFrag : Frag := {
  core := 5, entry := 3, gen := 3, whole := false, intrap := false, crew := 3, warp := 0, slot := 0, vf := 0, repk := none, cls := 4,
  code := 2, pc := 40, lanes := 2, launch := 1, addr := 8190 }

theorem wit_FailingLanesFormAFragment :
    let s := withV (tMem 3) 10 8190
    MemoryReady s ∧ s.iss.faulted = 0 ∧ InWindow s 4 1 ∧ AddrInRange s true 10 ∧
    lanesThat (fun l => s.iss.active.getLsbD l && decide (s.c.shareSize < offsetOf s true 10 l + 4)) ≠ [] ∧
    sharedHeld s s.c.core s.c.vf < (vfAt s s.c.vf).fragq ∧ entryTaken s s.c.core 0 = false ∧
    entryTaken { s with frags := [{ tFrag with entry := 128 + s.w.slot }] } s.c.core (128 + s.w.slot) = true := by
  refine ⟨⟨⟨rfl, rfl⟩, rfl, rfl⟩, rfl, by unfold InWindow; decide, by unfold AddrInRange; decide, by decide, by decide, by decide, by decide⟩

/-! ### Witnesses: engines, queues, messages -/

/-- Bytes of the issuing crew's share. -/
def withShare (s : State) (o : Nat) (bs : List Byte) : State :=
  { s with quads := s.quads.modify 1 fun (q : Quad) => { q with sp := memWrite q.sp (4096 + o) bs } }

/-- Ring 0 of the share, with HEAD and TAIL, in the scratchpad. -/
def tRing (head tail : Nat) : State :=
  withShare (withS (tMem 2) [(10, 0), (11, 64), (12, 3)]) 0
    (bytesOfNat 4 128 ++ bytesOfNat 4 (2 ^ 31 + 2) ++ bytesOfNat 4 head ++ bytesOfNat 4 tail)

/-- An operation of channel 3 that lacks the warp's slice. -/
def tCopy : ChanEntry := {
  kind := .copy, op := 77, crew := 3, vf := 0, core := 5, shareBase := 4096, shareSize := 8192, flat := 2 ^ 20, nth := 1,
  slices := [{ warp := 1, bytes := none }] }

theorem wit_TransferWords_share : let s := tRing 9 5
    shareAt s s.c.id s.c.shareSize = .pad (s.c.core / 4) s.c.shareBase s.c.shareSize := by rfl
theorem wit_TransferWordsSupplySlicesAndServeRings :
    let s := tRing 9 5
    let joined : State := { s with bays := s.bays.set 0 { ch := (List.replicate 16 {}).set 3 { entries := [tCopy] } } }
    s.w.memq = [] ∧ (rdS s.old 12).toNat % 16 = 3 ∧ suppliedBy s.c 3 s.w.idx = 0 ∧ xcopyStalls s 0 3 1 = false ∧ (joinOp s 0 3 1).isNone = true ∧
    (joinOp joined 0 3 1).map (·.op) = some tCopy.op := by decide
theorem wit_TransferWords_rings : let s := tRing 9 5
    ringOf s (ownShare s) 1 = some (0, false, 0, 0, 0) ∧ ringOf s (ownShare s) 2 = none ∧
    ringOf s (ownShare s) (rdS s.old 10).toNat = some (128, true, 2, 9, 5) ∧
    ringOf (tRing 5 5) (ownShare s) (rdS s.old 10).toNat = some (128, true, 2, 5, 5) := by
  exact ⟨rfl, rfl, rfl, rfl⟩
theorem wit_TransferWords_slots : let s := tRing 9 5
    ((rdS s.old 11).toNat % 32 = 0 ∧ (rdS s.old 11).toNat + 32 ≤ s.c.shareSize) ∧
    (slotBytes (syncCore s s.c.core) true (128 + 32 * (5 % 2 ^ 2))).toOption = some (List.replicate 32 0) ∧
    (match slotBytes (syncCore s s.c.core) true 8192 with
      | .error c => c == 2
      | .ok _ => false) = true ∧
    (∀ j < 32, shPinned s (ownShare s) (64 + j) = false) ∧ (∀ j < 4, shPinned s (ownShare s) (32 * 0 + 12 + j) = false) := by
  decide

/-- A multiply of 8-bit panels of 32 columns, and a `mout` of that format. -/
def tMmaRecord : List Byte :=
  bytesOfNat 4 2048 ++ bytesOfNat 4 4096 ++ bytesOfNat 4 (5 * 2 ^ 27 + 5 * 2 ^ 22 + 32) ++ bytesOfNat 4 (3 * 2 ^ 29) ++ List.replicate 16 0
def tMoutRecord : List Byte :=
  bytesOfNat 4 2048 ++ bytesOfNat 4 0 ++ bytesOfNat 4 (5 * 2 ^ 27) ++ bytesOfNat 4 (3 * 2 ^ 29) ++ List.replicate 16 0

/-- The quad's table holds ticket 7 of entry 0, posted, and ticket 8 of entry 1, granted. -/
def tEntry (seq e : Nat) (active : Bool) : QmeEntry := {
  entry := e, seq := seq, crew := 3, vf := 0, cls := 0, kind := 0, record := tMmaRecord, shareBase := 4096, slot := 3, fp64 := false,
  pins := [], posted := 5, active := active, op := e }
def tTable (s : State) : State :=
  { s with quads := s.quads.modify 1 fun (q : Quad) => { q with qme := [tEntry 7 0 false, tEntry 8 1 true], qmeSeq := 8 } }

theorem wit_MatrixWordsPostAndFollowTickets :
    let s := withShare (withS (tMem 2) [(10, 64)]) 64 tMmaRecord
    (rdS s.old 10).toNat % 32 = 0 ∧ mmaCheck s.c.shareSize (shareBytes s 64 32) = none ∧
    moutCheck s.c.shareSize tMoutRecord = none ∧ freeEntry (quadAt s 1) = some 0 ∧
    mmaCheck s.c.shareSize (List.replicate 32 0) = some 3 ∧ (rdS s.old 0).toNat < 8 ∧
    ticketEntry (quadAt s 1) 64 = none ∧ ticketEntry (quadAt (tTable s) 1) (7 * 32) = some (tEntry 7 0 false) ∧
    ticketEntry (quadAt (tTable s) 1) (8 * 32 + 1) = some (tEntry 8 1 true) := by decide

def tLaunch (st : LaunchState) : Launch := { seq := 6, vf := 0, st := st, status := 0, desc := List.replicate 128 0 }

set_option maxRecDepth 20000 in
theorem wit_QueueAndLaunchWordsHandOverRequests :
    let s := withS (tMem 2) [(10, 2 ^ 30 + 2), (11, 64), (12, 6)]
    s.w.memq = [] ∧ 62 % 2 = 0 ∧ (rdS s.old 10).toNat / 2 ^ 30 = 1 ∧
    (∀ c < 16, bitB ((rdS s.old 11).toNat % 2 ^ 17) c = true → (chanAt s (s.c.core / 16) c).entries.length < Config.chanEntries) ∧
    bitB ((rdS s.old 11).toNat % 2 ^ 17) 16 = false ∧ launchOf s 6 = none ∧
    launchOf { s with launches := [tLaunch .done], nextLaunch := 7 } 6 = some (tLaunch .done) ∧ (tLaunch .done).st.final = true ∧
    (tLaunch .walking).st.final = false := by decide

def tSend (dst : Nat) : List Byte :=
  bytesOfNat 4 9 ++ bytesOfNat 4 (dst + 3 * 256) ++ bytesOfNat 4 64 ++ bytesOfNat 4 0 ++ bytesOfNat 8 (2 ^ 20) ++ bytesOfNat 8 0
def tRecv (len : Nat) : List Byte :=
  bytesOfNat 4 9 ++ bytesOfNat 4 0xFFFFFFFF ++ bytesOfNat 4 2 ++ bytesOfNat 4 len ++ bytesOfNat 8 0 ++ bytesOfNat 8 (2 ^ 20) ++
    List.replicate 32 0
/-- Tensor 5 in tiles of one line. -/
def tTiled : List Byte := tDesc.set 0x1C 0x21
/-- A receive into tile 0 of tensor 5. -/
def tRecvTile : List Byte :=
  bytesOfNat 4 9 ++ bytesOfNat 4 0xFFFFFFFF ++ bytesOfNat 4 2 ++ bytesOfNat 4 64 ++ bytesOfNat 8 5 ++ bytesOfNat 8 128 ++
    List.replicate 32 0
def tMessage : Msg := { vf := 0, src := 2, tag := 9, len := 64, msgid := 5, xid := 1, eager := true, payload := List.replicate 64 7 }
def tPosted : Posted := { index := 0, gen := 3, vf := 0, desc := tRecv 64, base := 2 ^ 20 }
def tSending (started : Bool) : Send := {
  index := 1, gen := 4, vf := 0, crew := 3, warp := 0, launch := 1, bay := 0, desc := tSend 2, op := 0, started := started }

set_option maxRecDepth 20000 in
theorem wit_MessageWordsTakeSlotsAndAnswer :
    let s := withS (tMem 2) [(10, 64), (11, 63)]
    let full : State := { s with wharf := { sends := [tSending false, { tSending false with index := 0 }],
                                            posted := [tPosted, { tPosted with index := 1 }] } }
    ((rdS s.old 10).toNat % 64 = 0 ∧ (rdS s.old 10).toNat + 64 ≤ s.c.shareSize) ∧ (rdS s.old 11).toNat % 32 ≠ 0 ∧
    sendCheck s (tSend 0) = some 4 ∧ sendCheck s (tSend 2) = none ∧ freeSend s 0 = some 0 ∧ freeSend full 0 = none ∧
    (chanAt s 0 3).entries.length < Config.chanEntries ∧ (parseRecv (tRecv 64)).tensor = 0 ∧ recvCheck (tRecv 0) none = some 3 ∧
    recvCheck (tRecv 64) none = none ∧ freePost s 0 = some 0 ∧ freePost full 0 = none ∧ recvResv (tRecv 64) = false ∧
    [{ tMessage with tag := 3 }].find? (matches_ (parseRecv (tRecv 64)) 0) = none ∧
    [tMessage].find? (matches_ (parseRecv (tRecv 64)) 0) = some tMessage ∧
    nameOf full 0 tPosted.handle = .posted tPosted ∧ nameOf full 0 (tSending false).handle = .queued (tSending false) ∧
    nameOf { s with wharf := { sends := [tSending true] } } 0 (tSending true).handle = .moving ∧
    nameOf { s with wharf := { landings := [{ post := tPosted, msg := tMessage }] } } 0 tPosted.handle = .landing ∧
    nameOf s 0 5 = .stale ∧ s.w.peers = [] ∧ recvResv (List.replicate 64 1) = true ∧ (parseRecv tRecvTile).tensor = 5 ∧
    recvCheck tRecvTile (descOf (updDie s 0 fun d => { d with descs := [(0, 5, some tTiled)] }) 0 0 5) = none ∧
    recvCheck tRecvTile none = some 4 := by decide

/-- A landing of 64 bytes as far as its payload has come: how far it got, and how it ended. -/
def tLanded (s : State) (desc tdesc : List Byte) (base n : Nat) : List Nat :=
  let l : Landing := { post := { tPosted with desc := desc, tdesc := tdesc, base := base }, msg := { tMessage with payload := List.replicate n 7 } }
  (landOn { s with wharf := { landings := [l] } } 0).wharf.landings.flatMap fun l =>
    l.landed :: (l.ended.map fun e => [e.1, e.2.1, e.2.2.1, e.2.2.2]).getD []
/-- R169, R334: a tile's bytes land at its home; a tile without one ends the landing with NOHOME. -/
theorem test_landing_needs_the_home_of_its_tile :
    tLanded (tMem 2) tRecvTile tTiled (2 ^ 20 + 0x4080) 64 = [64, 0, 0, 0, 0] ∧
    tLanded { tMem 2 with mem := [] } tRecvTile tTiled (2 ^ 20 + 0x4080) 64 = [0, 2, 4, 9, 2 ^ 20 + 0x4080] := by decide
/-- R334: an aligned piece of 64 bytes lands as a whole. -/
theorem test_landing_takes_whole_pieces :
    tLanded (tMem 2) (tRecv 64) [] (2 ^ 20) 40 = [0] ∧
    tLanded (tMem 2) (tRecv 64) [] (2 ^ 20 + 32) 40 = [32] := by decide

/-! ### Witnesses: system words, repeats -/

/-- The issue at a level, with a trap code object of 36 bytes. -/
def tLevel (priv : Nat) : State :=
  let s := withS (tMem 2) [(10, 6), (11, 64), (12, 0x50303)]
  let w := { s.w with priv := priv, trapV := priv == 1, lanes := s.w.lanes.modify 1 fun ln => { ln with ts := priv == 1 } }
  { s with w := w, old := w, vfs := s.vfs.modify 0 fun v => { v with trapsize := 36 } }

set_option maxRecDepth 20000 in
theorem wit_TrapsEnterAndLeaveTheirHandler :
    ((tLevel 0).w.priv = 0 ∧ liveLanes (tLevel 0) = [1] ∧ 12 * (2 + 1) ≤ (vfAt (tLevel 0) 0).trapsize ∧
      (vfAt (tLevel 0) 0).trapsize < 12 * (3 + 1)) ∧ liveLanes (tIssue 0) = [] ∧
    ((tLevel 1).w.priv ≠ 0 ∧ (tLevel 1).w.trapV = true ∧ (tLevel 1).iss.active = trapSet (tLevel 1).w) := by decide

theorem wit_SpecialRegisterReadsGiveTheirValue :
    liveLanes (tLevel 0) = [1] ∧ liveLanes (tIssue 0) = [] ∧ (∀ p ∈ (tLevel 0).w.pend, p.fp = false) ∧
    (tLevel 0).old.fpflags = (tLevel 0).w.fpflags ∧ 1 ≤ (tLevel 1).w.priv ∧ (tLevel 0).w.priv = 0 ∧ 23 < (tLevel 0).w.window := by decide

theorem wit_SpecialRegisterWritesTakeTheirValue :
    (tLevel 0).w.priv = 0 ∧ 1 ≤ (tLevel 1).w.priv ∧ liveLanes (tLevel 0) = [1] ∧ liveLanes (tIssue 0) = [] ∧
    rdV (tLevel 0).old 23 1 = 23 := by decide

theorem wit_SystemWordsControlTheDevice :
    let s : State := { tLevel 1 with frags := [tFrag] }
    let inval : State := withShare (tLevel 1) 64 (List.replicate 32 0)
    (tLevel 0).w.priv = 0 ∧ (tLevel 1).w.priv = 1 ∧ (rdS s.old 0).toNat = 0 ∧ (rdS s.old 10).toNat ≠ 0 ∧ s.w.token = false ∧
    ((rdS s.old 11).toNat % 32 = 0 ∧ (rdS s.old 11).toNat + 32 ≤ s.c.shareSize) ∧
    findFrag s (some 0) 6 = none ∧ findFrag s (some 0) tFrag.fid = some tFrag ∧ tFrag.fid < 2 ^ 32 ∧
    (∀ j < 32, shPinned s (ownShare s) (64 + j) = false) ∧
    (∀ k ∈ merged s, ∀ w ∈ k.warps, w.memq = []) ∧ launchOf s 6 = none ∧
    (∀ x ∈ [(0, 0), (0x101, 1), (0x102, 1), (0x10001, 1)],
      (invalTarget false 0 (some (parseInval (shareBytes (withShare (tLevel 1) 64 (bytesOfNat 4 x.1)) 64 32)))).1 = x.2) ∧
    (∀ x ∈ [(0x200, 0), (0x201, 1), (0x202, 2), (0x203, 3), (0x204, 3), (0x10200, 3)],
      invalTarget true 0 (some (parseInval (shareBytes (withShare (tLevel 2) 64 (bytesOfNat 4 x.1)) 64 32))) = (x.2, 2, 0)) ∧
    invalTarget true 0 none = (3, 0, 0) ∧ shareBytes inval 64 32 = List.replicate 32 0 ∧
    launchOf { s with launches := [tLaunch .faulted] } 6 = some (tLaunch .faulted) ∧ (tLaunch .faulted).vf = s.c.vf ∧
    ({ tLaunch .faulted with vf := 1 } : Launch).vf ≠ s.c.vf := by decide

theorem wit_KillsEndTheirWarp :
    (tIssue 1).c.id ≠ 0 ∧ tDevice.c.id = 0 ∧ regrange (tIssue 1).w.window (.vadd false 24 0 0) = true ∧
    ((tIssue 1).w.lane 0).st ≠ .exited ∧ (tIssue 1).c.err.getLsbD 31 = false := by decide

/-- A repeat of five `vadd` of registers 2, 3 and 4, its index K; the warp stands at the word. -/
def tRepeat (k : Nat) (pend : List Pend) : State :=
  let s := tMem 2
  let w := { tWarp with
    rep := BitVec.ofNat 32 (2 ^ 31 + 5 * 2 ^ 19 + 7 * 2 ^ 16 + k), pend := pend
    lanes := tWarp.lanes.map fun ln => { ln with inRep := true } }
  let bs := bytesOfNat 4 ((encode (.rep 5 7 0 0 0)).getD 0) ++ bytesOfNat 4 ((encode (.vadd false 2 3 4)).getD 0)
  { s with w := w, old := w, mem := memWrite s.mem (0x1000 + 4 * 39) bs }

theorem wit_RepeatsIssueTheirSteppedWord :
    let s := tRepeat 1 []
    let word := (encode (.vadd false 2 3 4)).getD 0
    let code := (encode (.rep 5 7 0 0 0)).getD 0
    fetchWord s s.c s.w 40 = some word ∧ fetchWord s s.c s.w 4000 = none ∧
    prefixCheck s.w.window code word true ≠ none ∧ prefixCheck s.w.window code word false = none ∧
    s.c.id ≠ 0 ∧ repV s.w = true ∧ repK s.w < repCnt s.w ∧
    (repWord word 7 0 0 0 1).bind (fun w => (decodeWord w).toOption) = some (.vadd false 3 4 5) ∧
    regrange s.w.window (.vadd false 3 4 5) = false ∧ s.w.memq = [] ∧ breaches s.w (.vadd false 3 4 5) = false ∧
    breaches (tRepeat 1 [{ id := 1, target := ⟨.v, 4, 1⟩, left := 2 }]).w (.vadd false 3 4 5) = true ∧
    (after (.vadd false 3 4 5) s).iss.stall = false ∧ (after (.vadd false 3 4 5) s).w.finished = false ∧
    (∃ ln ∈ s.w.lanes, ln.inRep = true ∧ ln.repk = none ∧ ln.st = .run) ∧ repK s.w + 1 < repCnt s.w ∧
    repCnt (tRepeat 4 []).w ≤ repK (tRepeat 4 []).w + 1 := by decide

/-! ### Witnesses: events of cores, launches and crews -/

/-- A device between issues, with tables of the low 2 MiB, tensor 5, and the crew on core 5. -/
def tIdle : State :=
  let s := tMem 0
  { s with c := {}, w := {}, old := {}, iss := {}, crews := [tCrew], mem := memWrite s.mem 0x140 tDesc }

def tResult : Pend := { id := 3, target := ⟨.v, 2, 1⟩, left := 1, writes := [.v 1 2 9], flags := 1 }
def tLease : Copy := { tag := flatTag 0 5, wts := 3, rts := 2000, granted := 100, bytes := [(5, 6)] }

/-- Banks 0 and 7 of the weight store of a die, of which bank 0 is in its refresh window. -/
theorem wit_Loads_refresh :
    let s : State := { tMem 6 with cycle := 100 }
    let busy (o : Nat) : Prop := ∃ i < 4, ((vfAt s s.c.vf).wsbase * 2 ^ 20 + o + i) / 1024 % 64 = (s.cycle - (dieAt s 0).epoch) / 2000 % 64
    liveLanes s = [1] ++ 2 :: [] ∧ ¬ busy 7168 ∧ busy 0 ∧ s.c.core < s.cores.length := by decide

/-- A warp whose reads of the weight store wait, one whose next word is known to wait, and one that has waited 256 cycles. -/
theorem wit_CoreEvents_waiting :
    let s : State := { tIdle with crews := [{ tCrew with warps := [{ tWarp with memq := [tRead 0] }] }] }
    let r (held promoted : Bool) : Sys2Proof.Machine.Ready := ⟨tCrew, { tWarp with held := held, promoted := promoted }, .bundle 0 0⟩
    findWarp s 3 0 = some { tWarp with memq := [tRead 0] } ∧ findWarp tIdle 3 0 = some tWarp ∧ tWarp.memq = [] ∧
    freeFirst [r true false, r false false] = [r false false] ∧ freeFirst [r true false] = [r true false] ∧
    ([r false false].filter fun r => r.warp.promoted) = [] ∧ oldest [r false true] = some (r false true) := by decide

theorem wit_CoreEventsTakeEffect :
    let s : State := { tIdle with
      cores := tIdle.cores.set 5 { copies := [tLease] }, crews := [{ tCrew with warps := [{ tWarp with sleepUntil := some 1500 }] }] }
    let w := { tWarp with pend := [tResult] }
    let gone := { tWarp with lanes := List.replicate 64 { tLane with st := .exited } }
    s.halted = false ∧ w.pend.find? (·.id == tResult.id) = some tResult ∧ tResult.need = 0 ∧ tResult.open_ = false ∧
    tResult.arrived = false ∧ (w.lane 1).live = true ∧ 1 < gone.lanes.length ∧ (gone.lane 1).live = false ∧ w.finished = false ∧
    gone.finished = true ∧ (coreAt s 5).copies[0]? = some tLease ∧ (dieAt s 0).st ≠ .fenced ∧
    findWarp s 3 0 = some { tWarp with sleepUntil := some 1500 } := by decide +kernel

/-- A launch of one crew over tensor 5: code of 24 bytes at 0x8000, a status record at 0x7000. -/
def tLaunchDesc (pers : Bool) : List Byte :=
  bytesOfNat 8 0x8000 ++ bytesOfNat 4 0 ++ bytesOfNat 4 24 ++ bytesOfNat 8 0 ++ bytesOfNat 8 77 ++ bytesOfNat 8 0 ++ bytesOfNat 4 0 ++
    bytesOfNat 4 (if pers then 2 ^ 28 else 0) ++ bytesOfNat 16 0 ++ bytesOfNat 4 (if pers then 2 * 4096 + 1 else 0) ++ bytesOfNat 4 5 ++
    bytesOfNat 8 (if pers then 1 else 0) ++ bytesOfNat 8 0x7000 ++ bytesOfNat 40 0

/-- Launch queue 0 of the physical function holds that descriptor in its entry 1; its work queue 1 has 32 entries at 0x20000. -/
def tQueueOf : State := { tIdle with
  mem := memWrite (memWrite tIdle.mem (0x6000 + 128) (tLaunchDesc false)) 0x20 (bytesOfNat 8 0x20000 ++ bytesOfNat 16 0x105)
  vfs := tIdle.vfs.modify 0 fun v => { v with
    en := true, lqn := 2, qcount := 2, lq := v.lq.set 0 { base := 0x6000, log2n := 2, head := 1, tail := 2 } } }

def tWalking (pers : Bool) (st : LaunchState) (aborting : Bool) (walks : List DieWalk) : State := { tQueueOf with
  crews := [], nextLaunch := 7
  launches := [{ seq := 6, vf := 0, st := st, status := 0, desc := tLaunchDesc pers, walks := walks, grid := [2, 4, 2, 1],
                 place := 0x1000, aborting := aborting }] }
/-- The same with reach 0 stamped by a launch, in a state. -/
def tReachAt (s : State) (stamp st : Nat) : State := { s with
  mem := memWrite s.mem 0x1000 (bytesOfNat 8 stamp ++ bytesOfNat 8 0 ++ bytesOfNat 8 (5 * 2 ^ 48 + st * 2 ^ 46 + 15 * 2 ^ 34) ++ bytesOfNat 8 0) }
def tWalkOf (todo : List Nat) : DieWalk := { die := 0, todo := todo }
def tReachRec (s : State) (i : Nat) : Option (Except Nat ReachRec) := readReach s (s.launches.headD (tLaunch .walking)) i

def isOk {α : Type} : Except (Nat × Nat × Nat) α → Bool
  | .ok _ => true
  | .error _ => false

theorem wit_LaunchEvents_queues :
    let s := tQueueOf
    s.halted = false ∧ 0 < (vfAt s 0).lqn ∧ 0 < s.vfs.length ∧ 0 < (vfAt s 0).lq.length ∧
    ¬ 2 ^ 2 < (3 % 2 ^ 32 + 2 ^ 32 - 1) % 2 ^ 32 ∧ 2 ^ 2 < (9 % 2 ^ 32 + 2 ^ 32 - 1) % 2 ^ 32 ∧
    nextVf s = some 0 ∧ nextQueue s 0 = some 0 ∧ (readVa s 0 (0x6000 + 128 * 1) 128).toOption = some (tLaunchDesc false) ∧
    (acceptDesc s 0 (some (tLaunchDesc false))).isSome = true ∧ (tableDesc s 0 5).toOption = some (parseDesc tDesc) ∧
    checkLaunch s 0 (s.nextLaunch % 2 ^ 32) (parseLaunch (tLaunchDesc false)) true = 0 := by decide +kernel

theorem wit_LaunchEvents_walks :
    let s := tWalking false .pending false []
    let l := s.launches.headD (tLaunch .walking)
    let walks := tWalking false .walking false [tWalkOf [0, 6]]
    let k := walks.launches.headD (tLaunch .walking)
    findLaunch s 6 = some l ∧ l.st = .pending ∧ l.aborting = false ∧ (∀ p ∈ (parseLaunch l.desc).predIds, predDone s p = true) ∧
    (vfAt s l.vf).windows = [] ∧ (tableDesc s l.vf (parseLaunch l.desc).tensor).toOption = some (parseDesc tDesc) ∧
    findLaunch walks 6 = some k ∧ k.st = .walking ∧ (dieAt walks 0).st = .active ∧
    k.walks.find? (·.die == 0) = some (tWalkOf [0, 6]) ∧ (tWalkOf [0, 6]).stop = none ∧ (tWalkOf [0, 6]).cur = none ∧
    (tWalkOf [0, 6]).second = false ∧
    (match readReach (tReachAt walks 6 2) k 0 with
      | some (.ok r) => r.hdie == 0 && r.st == 2
      | _ => false) = true ∧
    (match readReach (tReachAt walks 6 1) k 0 with
      | some (.ok r) => r.hdie == 0 && r.st == 1 && r.stamp == k.seq
      | _ => false) = true ∧
    (match readReach (tReachAt walks 0 1) k 0 with
      | some (.ok r) => r.hdie == 0 && r.st == 1 && r.stamp != k.seq
      | _ => false) = true ∧
    (parseLaunch k.desc).pers = false ∧ (writeVa (tReachAt walks 0 1) k.vf k.place (bytesOfNat 8 k.seq)).toOption.isSome = true ∧
    (match readReach walks k 6 with
      | some (.error c) => c == 3
      | _ => false) = true := by decide +kernel

theorem wit_LaunchEvents_ends :
    let w : DieWalk := { die := 0, todo := [1], cur := some (0, 0, 0, [0, 6]) }
    let s := tWalking true .walking false [w]
    let k := s.launches.headD (tLaunch .walking)
    let busy : State := { tWalking false .draining false [] with crews := [{ tCrew with launch := 6 }] }
    (parseLaunch k.desc).pers = true ∧ k.aborting = false ∧ k.walks.find? (·.die == 0) = some w ∧
    (tillerPushEntry s k.vf (parseLaunch k.desc).queue (workEntry 5 0 6 0 (tileOfIndex k.grid 0))).isSome = true ∧
    launchClear (tWalking false .draining false []) 6 = true ∧ launchClear (tWalking false .draining true []) 6 = true ∧
    launchClear busy 6 = false ∧ (launchOf s 6).map (·.vf) = some 0 ∧ (∀ l, launchOf s 7 = some l → l.vf ≠ 1) := by
  refine ⟨by decide, by decide, by decide, by decide +kernel, by decide +kernel, by decide +kernel, by decide +kernel, by decide, ?_⟩
  have h : launchOf (tWalking true .walking false [{ die := 0, todo := [1], cur := some (0, 0, 0, [0, 6]) }]) 7 = none := by decide
  intro l hl
  simp [h] at hl

def tOffer (saved : Option Crew) : QCrew := { launch := 6, vf := 0, crewIdx := 0, tile := [0, 0, 0, 0], saved := saved }
def tBayOf (q : QCrew) : State :=
  let s := tWalking false .draining false []
  { s with bays := s.bays.set 0 { queue := [q] } }

theorem wit_CrewEventsTakeEffect :
    let s := tBayOf (tOffer none)
    let r := tBayOf (tOffer (some { tCrew with shareSize := 256 }))
    let shut : State := { s with vfs := s.vfs.modify 1 fun v => { v with en := true, quads := 2 ^ 256 - 1 } }
    let asked : Crew := { tCrew with saveReq := some .drain, warps := [{ tWarp with sinceReq := 5000 }] }
    let asks : State := { s with crews := [asked] }
    let gone : Crew := { asked with warps := [{ tWarp with stopped := some .full }] }
    let room : State := { asks with vfs := asks.vfs.modify 0 fun v => { v with ctxsize := 2 ^ 20 } }
    (bayAt s 0).service = [] ∧ headCrew s 0 = some (0, tOffer none) ∧ headCrew r 0 = some (0, tOffer (some { tCrew with shareSize := 256 })) ∧
    (offerOrder s 0).find? (fun x => fits s x (needOf s (tOffer none))) = some 0 ∧
    ((offerOrder r 0).find? fun x => fits r x (needOf r (tOffer (some { tCrew with shareSize := 256 })))) = some 0 ∧ 0 = 0 / 16 ∧
    (offerOrder shut 0).find? (fun x => fits shut x (needOf shut (tOffer none))) = none ∧ (tOffer none).launch ≠ 0 ∧
    headCrew shut 0 = some (0, tOffer none) ∧ saveReady asks asked = false ∧ saveReady room gone = true ∧
    ctxRoom room gone = true ∧ ctxHeld room gone.vf gone.core (ctxPages room gone.vf (ctxNeed gone)) = false ∧
    ctxHeld { room with dies := room.dies.map fun d => { d with st := .drained } } gone.vf gone.core (ctxPages room gone.vf (ctxNeed gone)) = true ∧
    findCrew asks 3 = some asked ∧ findWarp asks 3 0 = some { tWarp with sinceReq := 5000 } ∧ asked.saveReq ≠ none ∧
    ({ tWarp with sinceReq := 5000 } : Warp).stopped = none ∧ s.slice = none ∧ ({ s with slice := some (0, 100) } : State).slice ≠ none := by decide +kernel

/-! ### Witnesses: events of engines, the host, the package, the fabric, the Towpath -/

/-- A formed copy of 64 bytes inside the share, from offset 128 to 1,024. -/
def tCopying : ChanEntry := { tCopy with
  formed := true
  slices := [{ warp := 0, bytes := some (bytesOfNat 4 0x51 ++ bytesOfNat 4 64 ++ bytesOfNat 4 128 ++ bytesOfNat 4 1024 ++ bytesOfNat 16 0) }] }
def tRequest (k : WqKind) : WqReq := {
  kind := k, word := 1, vf := 0, crew := 3, warp := 0, quad := 1, shareBase := 4096, shareSize := 8192, op := 9 }
def tRecord : FrRecord := { kind := 1, bytes := List.replicate 128 0, frag := none }
def tWalk (page : Nat) : Walk := { want := { vf := 0, st2 := false, page := page, core := 5, bay := 0 }, waiting := [(3, 0, 1)] }
def tBinding : Binding := { crew := 3, vf := 0, qid := 1, block := 64, base := 4096, pending := true }
def tEngines : State :=
  let s := tQueueOf
  { s with
    bays := s.bays.set 0 { ch := (List.replicate 16 {}).set 3 { entries := [tCopying] } }
    quads := (s.quads.set 0 { acc := List.replicate 8 [], qme := [tEntry 7 0 false] }).set 1 {
      acc := List.replicate 8 [], qme := [tEntry 8 1 true], bindings := [tBinding] }
    dies := s.dies.modify 0 fun d => { d with wq := [tRequest (.stat 6), tRequest .close], walks := [tWalk 128, tWalk (2 ^ 40)] }
    vfs := s.vfs.modify 0 fun v => { v with frPend := [tRecord], frbase := 0x40000 } }

theorem wit_EngineEvents_copies :
    let s := tEngines
    let d := parseSlice (bytesOfNat 4 0x51 ++ bytesOfNat 4 64 ++ bytesOfNat 4 128 ++ bytesOfNat 4 1024 ++ bytesOfNat 16 0)
    let ended : State := { s with bays := s.bays.set 0 { ch := (List.replicate 16 {}).set 3 { entries := [{ tCopying with
      started := true, done := 64, ended := some (0, 0, 0, 0) }] } } }
    s.halted = false ∧ (∃ ch < 16, (chunkSize (beginHeads s 0) 0 ch).isSome = true) ∧
    (∀ ch < 16, chunkSize (beginHeads tIdle 0) 0 ch = none) ∧ d.ssp = 1 ∧ d.dsp = 1 ∧ d.src + 63 < 8192 ∧ d.dst + 63 < 8192 ∧
    (tCopying.crew, tCopying.core / 4, tCopying.shareBase, tCopying.shareSize) = (tCrew.id, 1, 4096, 8192) ∧
    armedAt s (.sp 1 (4096 + (d.dst + 63))) = false ∧ pinned s (.sp 1 (4096 + (d.dst + 63))) = false ∧
    ((chanAt (beginHeads s 0) 0 3).entries.head?.map fun e => (e.kind == .copy, copyOver (beginHeads s 0) e)) = some (true, false) ∧
    ((chanAt (beginHeads ended 0) 0 3).entries.head?.map fun e => (e.kind == .copy, copyOver (beginHeads ended 0) e)) = some (true, true) := by
  decide +kernel

/-- The share of a crew in its quad is that place of the scratchpad. -/
theorem wit_EngineEvents_share : tCopying.share tEngines = .pad 1 4096 8192 := by rfl

theorem wit_EngineEvents_tickets :
    let s := tEngines
    0 < s.quads.length ∧ pickEntry (max s.cycle (quadAt s 0).arrayFree) (quadAt s 0) = some (tEntry 7 0 false) ∧
    pickEntry (max s.cycle (quadAt s 1).arrayFree) (quadAt s 1) = none ∧
    (quadAt s 1).qme.find? (fun x => x.entry == 1 && x.active) = some (tEntry 8 1 true) ∧
    (quadAt s 0).qme.find? (fun x => x.entry == 0 && !x.active && x.kind != 4) = some (tEntry 7 0 false) := by decide +kernel

theorem wit_EngineEvents_queues :
    let s := tEngines
    let steals : State := { s with
      pod := { pelq := 2 ^ 31 + 1 * 2 ^ 23 + 1 }, vfs := s.vfs.modify 1 fun v => { v with qcount := 2 } }
    (dieAt s 0).wq[0]? = some (tRequest (.stat 6)) ∧ (dieAt s 0).st = .active ∧
    (∀ x ∈ (dieAt s 0).wq.take 0, x.waiting = true ∨ x.vf ≠ 0 ∨ x.qid ≠ 1) ∧ (serveReq s 0 (tRequest (.stat 6))).isSome = true ∧
    refillDue s 0 1 = false ∧ (quadAt s 1).bindings[0]? = some tBinding ∧ tBinding.pending = true ∧ tBinding.due = 0 ∧
    0 < ({ tBinding with due := 2 } : Binding).due ∧ queueBusy tQueueOf 0 1 = false ∧ refillDue tQueueOf 0 1 = false ∧
    stealQueue s = none ∧ stealQueue steals = some (1, 1) := by decide +kernel

/-- With no line held by another device nothing waits for INVACKs. -/
theorem wit_EngineEvents_clear :
    queueClear tEngines false 0 1 = (true, tEngines) ∧ spanClear tEngines 0 0x40000 128 = (true, tEngines) ∧
    recordClear tEngines 0 = (true, tEngines) := ⟨rfl, rfl, rfl⟩

theorem wit_EngineEvents_faults :
    let s := tEngines
    let v := vfAt s 0
    v.frBlocked = false ∧ v.frPend = [tRecord] ∧ v.frbase ≠ 0 ∧ v.frlog2n ≤ 12 ∧ v.fobj = 0 ∧
    (v.frhead + 2 ^ 32 - v.frtail) % 2 ^ 32 ≠ 2 ^ v.frlog2n ∧
    (vfAt { s with vfs := s.vfs.modify 0 fun v => { v with frbase := 0 } } 0).frbase = 0 ∧
    (dieAt s 0).walks[0]? = some (tWalk 128) ∧ (dieAt s 0).walks[1]? = some (tWalk (2 ^ 40)) ∧
    (match walk1 s 0 (128 * 8192) with
      | .ok _ => true
      | _ => false) = true ∧
    (match walk1 s 0 (2 ^ 40 * 8192) with
      | .error (.code _) => true
      | _ => false) = true := by decide +kernel

/-- The record is stamped with the engine's time, a number of 64 bits, and written whatever it is. -/
theorem wit_EngineEvents_record : ∀ t, (stampRecord tRecord.bytes t).length = 128 := by
  intro t
  have h : (bytesOfNat 8 t).length = 8 := rfl
  simp [stampRecord, tRecord, h]

theorem wit_HostEventsTakeEffect :
    let s : State := { tIdle with frags := [{ tFrag with vf := 1 }] }
    let svc : State := { s with
      mem := memWrite s.mem 0x6000 (tLaunchDesc false), vfs := s.vfs.modify 1 fun v => { v with en := true, quads := 2 ^ 256 - 2 } }
    let many : State := { svc with crews := List.replicate 4 { tCrew with service := true } }
    let d := parseLaunch (tLaunchDesc false)
    s.halted = false ∧ 2 ^ 51 ≤ 2 ^ 51 + 64 ∧ 2 ^ 20 < 2 ^ 51 ∧ (hostLocs s 0 (2 ^ 20) true 3).isSome = true ∧
    (hostLocs s 0 (2 ^ 20) false 3).isSome = true ∧ 1 ≠ 0 ∧ findFrag s (some 1) 6 = none ∧
    findFrag s (some 1) tFrag.fid = some { tFrag with vf := 1 } ∧
    (readVa svc 0 0x6000 128).toOption = some (tLaunchDesc false) ∧
    ((List.range Config.bays).filter fun b => (List.range 4).any fun i => holdsQuad svc 0 (4 * b + i)) = [0] ∧
    (∃ d ∈ s.dies, d.st ≠ .fenced) ∧ (∀ d ∈ ({ s with dies := List.replicate 8 { st := .fenced } } : State).dies, d.st = .fenced) ∧
    serviceCrews svc 0 < 4 ∧ 4 ≤ serviceCrews many 0 ∧ d.badCode = false ∧ d.badShape = false ∧ d.shapeResv = 0 ∧ d.badAddr = false ∧
    (vfAt s 1).en = false ∧ queuesFree s 1 = true ∧
    (vfAt { s with vfs := s.vfs.modify 1 fun v => { v with en := true } } 1).en = true ∧ s.c.id = 0 := by decide +kernel

/-- The places of a host write, free of other holders, or held by device 3, which is asked to give its line up. -/
theorem wit_HostEvents_clear : homeClear tIdle 0 (tPlaces (2 ^ 20) 3) = (true, tIdle) ∧
    (homeClear { tIdle with fabric := { tIdle.fabric with dir := [(2 ^ 20, [3])] } } 0 (tPlaces (2 ^ 20) 3)).1 = false := by
  exact ⟨rfl, by decide +kernel⟩

/-- A service crew whose descriptor lies on a die out of service waits; so does a host write. -/
theorem wit_HostEvents_waits :
    let s : State := { tIdle with dies := tIdle.dies.map fun d => { d with st := .drained } }
    (match readVa s 0 0x6000 128 with
      | .error (0, _) => true
      | _ => false) = true ∧ hostLocs s 0 (2 ^ 20) true 3 = none := by decide +kernel

theorem wit_PackageEventsTakeEffect :
    let s : State := { tIdle with crews := [] }
    let at_ (x : DieState) (auth : Bool) : State := { s with dies := s.dies.modify 0 fun d => { d with st := x, auth := auth } }
    let bare : State := { at_ .draining false with mem := [], owners := [], hostMem := [] }
    s.halted = false ∧ (dieAt s 0).st = .active ∧ (dieAt (at_ .draining false) 0).st = .draining ∧
    drainOver bare 0 = true ∧ (dieAt bare 0).moving = none ∧ (dieAt bare 0).st = .draining ∧ reachesMoved bare 0 = true ∧
    reachesMoved (at_ .draining false) 0 = false ∧ drainOver (at_ .draining false) 0 = false ∧ (∀ d ∈ s.dies, d.st ≠ .draining ∧ d.moving = none) ∧ (dieAt (at_ .drained false) 0).st = .drained ∧ 0 < (at_ .drained false).dies.length ∧
    (dieAt (at_ .resetting false) 0).st = .resetting ∧ (dieAt (at_ .drained true) 0).auth = true ∧
    (readVa s 0 0x1000 32).toOption = some tReach ∧ (parseReach tReach).st = 1 ∧ (parseReach (List.replicate 32 0)).st ≠ 1 ∧
    (dieAt s (parseReach tReach).hdie).st = .active := by
  decide +kernel

theorem wit_PackageEvents_clear : spanClear tIdle 0 (0x1000 + 0x10) 8 = (true, tIdle) := rfl

def tFlit (kind dst vf : Nat) : Flit := {
  port := 0, via := false, relay := 0, vf := vf, dst := dst, src := 1, kind := kind, xid := 7, lseq := 3, body := List.replicate 16 0, aux := 5 }
def tData : DataFlit := { port := 0, lseq := 3, vf := 0, src := 1, xid := 7, payload := [1, 2] }
def tAsked : PeerReq := { xid := 7, dev := 7, vf := 0, who := .lane 3 0 1, kind := 0, since := 100, aux := 0, body := [], data := [] }
def tToken : Token := { vf := 0, loads := List.replicate 16 0, reqs := List.replicate 16 false }
def tSent (lseq : Nat) : OutFlit := .ctl { tFlit 1 1 0 with lseq := lseq }

theorem wit_FabricEventsTakeEffect :
    let s : State := { tIdle with
      fabric := { reqs := [tAsked], ports := (List.replicate 15 {}).set 0 { replay := [tSent 4, tSent 5, tSent 6] } } }
    let full : State := { s with fabric := { s.fabric with
      held := List.replicate 200 { flit := tFlit 8 0 0, pool := false } ++ List.replicate 2000 { flit := tFlit 8 0 0, pool := true }
      heldData := List.replicate 100 { flit := tData, pool := false } ++ List.replicate 1000 { flit := tData, pool := true } } }
    let alone : State := { tIdle with fabric := { reqs := [tAsked], ports := List.replicate 15 { up := false } } }
    let busy : State := { tIdle with
      wharf := { landings := [{ post := tPosted, msg := tMessage }], sends := [tSending true] }, pod := { token := some tToken } }
    s.halted = false ∧ portTakes s 0 0 3 = true ∧ ctlSlot s 0 0 = some false ∧ ctlSlot full 0 0 = none ∧ dataSlot s 0 0 = some false ∧
    dataSlot full 0 0 = none ∧ (tFlit 1 0 0).dst = s.fabric.dev ∧ (tFlit 1 2 0).dst ≠ s.fabric.dev ∧ (tFlit 1 2 0).kind ≠ 6 ∧
    (s.fabric.ports.getD 0 {}).up = true ∧ (s.fabric.ports.getD 0 {}).replay = [tSent 4] ++ tSent 5 :: [tSent 6] ∧
    (tSent 5).lseq = (tFlit 12 0 0).aux ∧ (∀ x ∈ [tSent 4], x.lseq ≠ (tFlit 12 0 0).aux) ∧ (∀ x ∈ ([] : List OutFlit), x.lseq ≠ 5) ∧
    portUp s 0 = true ∧ portUp alone 0 = false ∧ (portAt s 0).await = none ∧
    portTakes { s with fabric := { s.fabric with ports := s.fabric.ports.set 0 { await := some 2 } } } 0 0 3 = false ∧ laterSeq 3 2 ≠ 2 ∧ laterSeq 1 2 = 2 ∧ 0 < 15 ∧ hopTo alone 7 = none ∧ tAsked ∈ alone.fabric.reqs ∧ tAsked.dev = 7 ∧ tAsked.answer = none ∧
    (∀ x ∈ alone.fabric.reqs, x.dev = 7 → x.answer = none → x = tAsked) ∧ alone.wharf.sends = [] ∧ alone.wharf.landings = [] ∧
    busy.wharf.landings[0]? = some { post := tPosted, msg := tMessage } ∧ busy.wharf.sends[0]? = some (tSending true) ∧
    busy.pod.token = some tToken ∧ s.pod.token = none ∧ s.fabric.dev = 0 := by decide +kernel

/-- A command of the mailbox, its buffer in host memory. -/
def tMail (op arg : Nat) (level2 restarting : Bool) (fw : FwSlot) : State := { tIdle with towpath := {
  go := true, op := op, arg := arg, level2 := level2, restarting := restarting, len := 64, buf := 2 ^ 51 + 0x100000,
  log := [(3, 1, 2), (2, 1, 0)], fw := List.replicate 9 fw } }

theorem wit_TowpathCommandsAndAlarmsTakeEffect :
    let staged : FwSlot := { staged := true, active := true, verA := 5, verB := 7 }
    let fenced : State := { tMail 1 3 false false {} with dies := List.replicate 8 { st := .fenced } }
    let drained : State := { tMail 4 17 false false staged with dies := List.replicate 8 { st := .drained } }
    (∀ s ∈ [tMail 1 1 false false {}, tMail 2 0 false false {}, tMail 3 0 false false {}, tMail 4 0 false false staged,
        tMail 5 0 false false {}, tMail 6 0 false false {}, tMail 6 0 true false {}, tMail 3 0 true false {}, tMail 4 0 true false {},
        tMail 5 0 true false {}], s.towpath.go = true ∧ s.towpath.restarting = false) ∧
    fenced.towpath.arg < 8 ∧ (dieAt fenced 3).st = .fenced ∧ (dieAt (tMail 1 1 false false {}) 1).st ≠ .fenced ∧ 32 ≤ 33 ∧ 33 < 35 ∧
    (dieAt (tMail 1 17 false false {}) 1).st ≠ .fenced ∧ (tMail 1 17 false false {}).towpath.arg = 17 ∧
    (bufLocs (tMail 2 0 false false {}) 64).isSome = true ∧ (bufRead (tMail 3 0 false false {}) 64).isSome = true ∧
    imageVersion 0 64 (List.replicate 64 0) = none ∧
    bufRead { tMail 3 0 false false {} with
      dies := List.replicate 8 { st := .drained }, towpath := { (tMail 3 0 false false {}).towpath with buf := 0x100000 } } 64 = none ∧
    staged.staged = true ∧ (dieAt (tMail 4 17 false false staged) 1).st ≠ .drained ∧ (dieAt drained 1).st = .drained ∧
    (tMail 6 0 true false {}).towpath.level2 = true ∧ (tMail 3 0 false false {}).towpath.level2 = false ∧
    (tMail 4 0 false true staged).towpath.restarting = true := by decide +kernel

/-! ### An image that passes its checks: version 9 for a target, with no body -/

def tImage (target : Nat) : List Byte :=
  bytesOfNat 4 0x53574B46 ++ bytesOfNat 4 target ++ bytesOfNat 4 9 ++ bytesOfNat 4 0 ++ sha384 [] ++ List.replicate 1996 0
def tStaging (op arg target : Nat) (level2 : Bool) : State :=
  let s := tMail op arg level2 false {}
  { s with hostMem := memWrite [] 0x100000 (tImage target), towpath := { s.towpath with len := 2060 } }

theorem bytes_length (n w : Nat) : (bytesOfNat n w).length = n := by
  induction n generalizing w with
  | zero => rfl
  | succ n ih => simp [bytesOfNat, ih]

theorem sha384_length (bs : List Byte) : (sha384 bs).length = 48 := by
  simp [sha384, bytesBE, bytes_length]

/-- SHA-384 of the three bytes "abc", as the standard that R358 names prints it. -/
theorem test_sha384 : sha384 [0x61, 0x62, 0x63] = bytesBE 48
    0xcb00753f45a35e8bb5a03d699ac65007272c32ab0eded1631a8b605a43ff5bed8086072ba1e7cc2358baeca134c825a7 := by decide +kernel

theorem tImage_length (target : Nat) : (tImage target).length = 2060 := by
  simp only [tImage, List.length_append, List.length_replicate, sha384_length, bytes_length]

theorem mapM_some {α β : Type} (f : α → Option β) (g : α → β) (l : List α) (h : ∀ x ∈ l, f x = some (g x)) : l.mapM f = some (l.map g) := by
  induction l with
  | nil => rfl
  | cons x l ih => simp [List.mapM_cons, h x, ih fun y hy => h y (List.mem_cons_of_mem _ hy)]

theorem memRead_range (m : Memory) (k n : Nat) : memRead m k n = (List.range n).map fun i => memGet m (k + i) := by
  induction n generalizing k with
  | zero => rfl
  | succ n ih =>
    rw [memRead, ih, List.range_succ_eq_map, List.map_cons, List.map_map]
    refine congrArg _ (List.map_congr_left fun i _ => ?_)
    simp [Nat.add_comm, Nat.add_left_comm]

theorem bufRead_host (s : State) (a n : Nat) (hb : s.towpath.buf = 2 ^ 51 + a) (ha : a + n ≤ 2 ^ 51) :
    bufRead s n = some (memRead s.hostMem a n) := by
  have h : bufLocs s n = some ((List.range n).map fun i => Loc.host (a + i)) := by
    refine mapM_some _ _ _ fun i hi => ?_
    have hi : i < n := by simpa using hi
    have h1 : (2 ^ 51 + a + i) % 2 ^ 52 = 2 ^ 51 + (a + i) := by omega
    have h2 : (2 ^ 51 + (a + i)) % 2 ^ 51 = a + i := by omega
    simp only [hb, h1, locate, h2, if_pos (Nat.le_add_right (2 ^ 51) _)]
  rw [bufRead, h, memRead_range, Option.map_some, List.map_map]
  rfl

theorem tStaging_buffer (op arg target : Nat) (level2 : Bool) : bufRead (tStaging op arg target level2) 2060 = some (tImage target) := by
  have hm : (tStaging op arg target level2).hostMem = memWrite [] 0x100000 (tImage target) := by dsimp only [tStaging]
  have hr := memRead_memWrite [] 0x100000 (tImage target) rfl
  rw [tImage_length] at hr
  rw [bufRead_host _ 0x100000 2060 (by dsimp only [tStaging, tMail]) (by decide), hm, hr]

theorem image_digest (a b c d r : List Byte) (ha : a.length = 4) (hb : b.length = 4) (hc : c.length = 4) (hd : d.length = 4)
    (x : List Byte) (hx : x.length = 48) : ((a ++ b ++ c ++ d ++ x ++ r).drop 16).take 48 = x := by
  rw [List.append_assoc, List.drop_left' (by simp [ha, hb, hc, hd]), List.take_left' hx]

theorem tImage_eq (target : Nat) : tImage target = bytesOfNat 4 0x53574B46 ++ bytesOfNat 4 target ++ bytesOfNat 4 9 ++ bytesOfNat 4 0 ++
    sha384 [] ++ List.replicate 1996 0 := by rw [tImage]

theorem tImage_digest (target : Nat) : ((tImage target).drop 16).take 48 = sha384 [] := by
  rw [tImage_eq, image_digest _ _ _ _ _ (bytes_length ..) (bytes_length ..) (bytes_length ..) (bytes_length ..) _ (sha384_length _)]

theorem tImage_words (t : Nat) (h : t < 256) (x r : List Byte) :
    let img := bytesOfNat 4 0x53574B46 ++ bytesOfNat 4 t ++ bytesOfNat 4 9 ++ bytesOfNat 4 0 ++ x ++ r
    leAt img 0 4 = 0x53574B46 ∧ leAt img 4 1 = t ∧ leAt img 8 4 = 9 ∧ leAt img 12 4 = 0 := by
  have h0 : wordOfBytes (bytesOfNat 4 0x53574B46) = 0x53574B46 := by decide
  refine ⟨h0, ?_, rfl, rfl⟩
  have : (BitVec.ofNat 8 t).toNat + 256 * 0 = t := by simp [Nat.mod_eq_of_lt h]
  exact this

theorem tImage_version (t : Nat) (h : t < 256) : imageVersion t 2060 (tImage t) = some 9 := by
  obtain ⟨h0, h1, h2, h3⟩ := tImage_words t h (sha384 []) (List.replicate 1996 0)
  have h3 : leAt (tImage t) 12 4 = 0 := h3
  have h4 : 512 + 0 + 96 + lmsBytes = 2060 := by decide
  rw [imageVersion, h3, h4, if_neg (by rw [tImage, h0, h1]; simp), List.take_zero, tImage_digest]
  simp only [ne_eq, not_true_eq_false, if_false]
  exact congrArg some h2

theorem wit_TowpathCommands_images :
    bufRead (tStaging 3 0 0 false) (tStaging 3 0 0 false).towpath.len = some (tImage 0) ∧ imageVersion 0 (tImage 0).length (tImage 0) = some 9 ∧
    ((tStaging 3 0 0 false).towpath.fw.getD 0 {}).minVer ≤ 9 ∧ 9 < ({ minVer := 10 } : FwSlot).minVer ∧
    bufRead (tStaging 6 0 0xFF true) (tStaging 6 0 0xFF true).towpath.len = some (tImage 0xFF) ∧
    imageVersion 0xFF (tImage 0xFF).length (tImage 0xFF) = some 9 ∧ (tStaging 3 0 0 false).towpath.go = true ∧
    (tStaging 3 0 0 false).towpath.op = 3 ∧ (tStaging 6 0 0xFF true).towpath.level2 = true := by
  rw [tImage_length, tImage_length]
  exact ⟨tStaging_buffer .., tImage_version 0 (by decide), by decide, by decide, tStaging_buffer .., tImage_version 0xFF (by decide), rfl, rfl, rfl⟩

/-! ### Witnesses: the machine -/

def tStopped : State := { tIdle with crews := [], halted := true, towpath := { level2 := true } }

theorem wit_EveryStepKeepsMemoryCanonical :
    MemoriesOk tIdle ∧ ∃ t, step { tIdle with moves := [.event .tokenPass] } = .next t :=
  ⟨by unfold MemoriesOk; decide, _, rfl⟩

theorem wit_AStoppedModuleStaysStopped :
    Stopped tStopped ∧ Idle tStopped ∧ ∀ ok, nextMove tStopped ≠ .event (.reprovision ok) := by
  have h : nextMove tStopped = .issue 0 := by decide
  exact ⟨by unfold Stopped; decide, by unfold Idle; decide, fun ok => by simp [h]⟩

theorem wit_EveryInstructionAnswersANextState :
    nextMove { tStopped with moves := [.issue 0] } = .issue 0 ∧ ({ tStopped with moves := [.issue 0] } : State).halted = true := by decide

theorem wit_MemoryWritesKeepTheCanonicalForm :
    MemoriesOk tIdle ∧ tIdle.halted = false ∧ Memory.wf tIdle.mem = true ∧
    (writeVa tIdle 0 0x6000 [1, 2, 3]).toOption.isSome = true := by
  refine ⟨by unfold MemoriesOk; decide, by decide, by decide, by decide⟩

theorem wit_UniformBitWordsComputeTheirResults : 0 < 64 ∧ 63 < 64 ∧ 7 < 64 := by decide
theorem wit_ImmediateWordsComputeTheirResults : 63 < 64 ∧ 0 < 64 ∧ 23 < (tIssue 1).w.window := by decide
theorem wit_ThirdGroupAndCellWordsComputeTheirResults :
    23 < (tIssue 1).w.window ∧ BInRange (tIssue 1) true 63 ∧ BInRange (tIssue 1) false 23 ∧ ¬ BInRange (tIssue 1) false 24 := by
  unfold BInRange; decide
theorem wit_PredicateWordsComputeTheirBits : 0 < 8 ∧ 7 < 8 := by decide
theorem wit_WritesToHardWiredRegistersAreDiscarded : 0 < 64 ∧ 63 < 64 ∧ 7 < 8 := by decide
theorem wit_SinglePrecisionWordsComputeTheirResults :
    23 < (tIssue 1).w.window ∧ BInRange (tIssue 1) true 63 ∧ BInRange (tIssue 1) false 23 := by unfold BInRange; decide
theorem wit_PackedHalfWordsComputeBothElements : 23 < (tIssue 1).w.window := by decide
theorem wit_FloatComparesWriteTheirCondition : 7 < 8 ∧ 23 < (tIssue 1).w.window ∧ InWindow (tIssue 1) 22 2 := by
  unfold InWindow; decide
theorem wit_ReductionAndScanStepsCombineTwoLanes :
    (tIssue 1).old.lanes.length = 64 ∧ 3 < 4 ∧ 23 < (tIssue 1).w.window ∧ 63 < 64 := by decide
theorem wit_AtomicOperationsLeaveTheirValue : (32 = 32 ∨ 32 = 64) ∧ (fp32.decode 0x7F800001).isNan = true := by decide

/-- Core 5's crew at word 40, which is a `vadd`; its next move is the issue of that core. -/
def tRunning : State := { tIdle with
  moves := [.issue 5], mem := memWrite tIdle.mem (0x1000 + 4 * 40) (bytesOfNat 4 ((encode (.vadd false 5 6 7)).getD 0)) }

theorem wit_AStepRunsTheDecodedInstruction :
    nextMove tRunning = .issue 5 ∧ tRunning.halted = false ∧
    (match chooseWarp { tRunning with moves := [] } 5 with
      | none => false
      | some r => match r.pick with
        | .bundle _ pc =>
          let b := beginIssue { tRunning with moves := [] } r
          match fetchWord b b.c b.w pc.toNat with
          | some w => !chained w && (decodeWord w).toOption == some (.vadd false 5 6 7) && fld w 25 6 != 0x3F &&
              (classesOf b (fetchWord b b.c b.w) [w] false).isEmpty
          | none => false
        | _ => false) = true ∧
    nextMove { tRunning with moves := [.event .timeSliceEnd] } = .event .timeSliceEnd ∧ encode .timeSliceEnd = none := by decide +kernel

/-- A step of that state adds in every lane, and the lanes go on to word 41. -/
theorem test_step_runs_the_word :
    (match step tRunning with
      | .next t => match findWarp t 3 0 with
        | some w => rdV w 5 63 == 13 && (w.lane 63).pc == 41
        | none => false
      | _ => false) = true := by decide +kernel

/-- R20: the second issue of a repeated `vadd` adds registers 4 and 5 into 3, and K counts on. -/
theorem test_repeat_issue :
    (match exec .repeatIssue (tRepeat 1 []) with
      | .next t => rdV t.w 3 1 == 9 && repK t.w == 2
      | _ => false) = true := by decide +kernel

/-- The hypotheses of the completion of a repeated `saddi`: destination and source step by one. -/
theorem wit_RepeatsIssue_uniform :
    let word := (encode (.saddi 2 3 5)).getD 0
    (repWord word 6 0 0 0 1).bind (fun w => (decodeWord w).toOption) = some (.saddi 3 4 5) ∧
    breaches (tRepeat 1 []).w (.saddi 3 4 5) = false ∧ (tRepeat 1 []).w.finished = false ∧ (tRepeat 1 []).iss.stall = false ∧
    3 < (tRepeat 1 []).w.window ∧ BInRange (tRepeat 1 []) false 5 ∧
    fetchHeld (tRepeat 1 []) (tRepeat 1 []).c (tRepeat 1 []).w 4000 = false := by unfold BInRange; decide

/-- A die out of service holds a fetch, which does not fail (R315). -/
theorem wit_RepeatsIssue_held : let s : State := { tRepeat 1 [] with dies := (tRepeat 1 []).dies.map fun d => { d with st := .drained } }
    fetchWord s s.c s.w 40 = none ∧ fetchHeld s s.c s.w 40 = true := by decide

/-! ### Flits and registers -/

/-- The check value of CRC-32 over the digits 1 to 9, as that code's catalogues give it. -/
theorem test_crc32 : crc32 ((List.range 9).map fun i => BitVec.ofNat 8 (0x31 + i)) = 0xCBF43926 := by decide +kernel

/-- R321: 32 bytes; TYPE at 0x00, LSEQ at 0x04, BODY from 0x08, AUX at 0x18. -/
theorem test_flit_layout :
    let bs := flitBytes { tFlit 8 9 3 with body := 0xAB :: List.replicate 15 0 }
    bs.length = 32 ∧ leAt bs 0 4 = 3 * 2 ^ 16 + 9 * 2 ^ 12 + 1 * 2 ^ 8 + 8 ∧ leAt bs 4 4 = 7 * 2 ^ 16 + 3 ∧ leAt bs 8 1 = 0xAB ∧
    leAt bs 0x18 4 = 5 ∧ leAt bs 0x1C 4 = crc32 (bs.take 28) := by decide +kernel

/-- R322: 512 bytes; LSEQ, XID, NB, and the payload from byte 8. -/
theorem test_data_flit_layout :
    let bs := dataFlitBytes tData
    bs.length = 512 ∧ leAt bs 0 2 = 3 ∧ leAt bs 2 2 = 7 ∧ leAt bs 4 2 = 2 ∧ leAt bs 8 2 = 0x0201 := by decide +kernel

/-- R310, R313: a register keeps what was written; the state of a die reads as its code. -/
theorem test_register_reads :
    let s : State := { tIdle with
      vfs := tIdle.vfs.modify 0 fun v => { v with frtail := 0x1234 }, dies := tIdle.dies.modify 1 fun d => { d with st := .fenced } }
    (match exec (.hostRead 0 (2 ^ 52 + 0x34) 2) s with
      | .next t => t.hostReadback == [0x34, 0x12]
      | _ => false) = true ∧
    (match exec (.hostRead 0 (2 ^ 52 + 0x8000) 2) s with
      | .next t => t.hostReadback == [0, 4]
      | _ => false) = true := by decide +kernel

/-! ### Ill-formed instructions, one for each check -/

theorem test_ill_formed_words : ∀ i ∈ ([
    .sadd 128 0 0, .vadd true 0 128 0, .vfcmp .eq 0 0 128, .vsel false 8 0 0 0, .saddi 0 0 2048, .sli false 0 65536, .vnot 0 128,
    .vcvtF32I32 0 0 false 4, .vfrcp 16 0 0, .vfrcp 0 128 0, .vshflUp 0 0 64 0, .vshflUp 0 0 0 4, .vshflIdx 0 0 4, .vballot 0 0 8 0,
    .br 8 0, .br 0 (2 ^ 20), .ret 128, .bar 16, .barq 4, .safe 65536, .ld 0 0 0 false true false .w, .lds 0 0 0 false true .d,
    .ldt 0 0 0 false .w 0, .ldt 0 0 0 false .q 1, .stt 0 0 0 false .w 16, .prefetch 128 false, .hrnd 0 0 0 64, .qpush 0 0 64, .trap 64,
    .drain 6, .mclear 0 4, .qpopLanes 128 0, .rgive 0, .rclaim 16, .rep 64 7 0 0 0, .rep 0 8 0 0 0,
    .rep 0 3 1 0 0, .rep 0 5 0 1 0, .rep 0 6 0 0 1] : List Instr), wellFormed i = false := by decide

theorem test_ill_formed_special_register : sregListed 0x7F = false ∧ wellFormed (.srd 0 0 0x7F false) = false := by decide

theorem test_ill_formed_events : ∀ i ∈ ([
    .resultArrives 0 0 0, .crewRestore 1 1024, .leaseExpiry 1024 0, .reset 8, .lqTailWrite 193 0 0, .lqTailWrite 0 16 0,
    .launchAccept 0 17, .launchDone 0, .tillerPush 1 8, .labortWrite 0 (2 ^ 32), .bteChunk 64, .bteCompletion 0 16, .qmeGrant 256,
    .qmeCompletion 0 32, .refillArrival 256 0, .stealEntriesArrive 16 [], .stealEntriesArrive 0 [[1]], .faultRecordWrite 193,
    .hostWrite 0 (2 ^ 52) [1], .hostRead 0 (2 ^ 52 + 2 ^ 20 + 2 ^ 16) 1, .s1rootWrite 0 (2 ^ 64), .registerWrite 0 (2 ^ 20 + 2 ^ 16) 0, .vfEnableWrite 0 true,
    .vfQuadsChange 0 0, .deviceReset [], .linkStateChange 15 true, .peerPathTimeout 16, .rdreq { tFlit 1 0 0 with port := 15 },
    .rdreq { tFlit 1 0 0 with body := [] }, .dataFlit { tData with payload := List.replicate 497 0 }, .invalidFlit 15 0 0,
    .migrationServiceMove 0 0 8 0] : List Instr), wellFormed i = false := by decide +kernel

end Sys2Proof.Tests
end

section
/-! SUPPORT. The decoder and the encoder: every field of a word, and what each format's decoder answers, against the encoding of
the same fields (R25, R29 to R35). Every decoder is shown to answer only instructions whose word is the format of its arguments,
and every format puts the word together again from its own fields. -/

namespace Sys2Proof

/-- Whatever instruction an outcome of the decoder names is well formed, and `w` is its word. -/
def Gives (x : Decoded) (w : Nat) : Prop := ∀ i, x = .ok i → wellFormed i = true ∧ encode i = some w

/-- An instruction whose word is `x`, where `x` is the word `w`. -/
theorem gives_ok {i : Instr} {x w : Nat} (hf : wellFormed i = true) (he : encode i = some x) (hx : x = w) :
    Gives (.ok i) w := by
  rintro j h
  cases h
  exact ⟨hf, he.trans (congrArg some hx)⟩

theorem gives_error (k : KillClass) (w : Nat) : Gives (.error k) w := by simp [Gives]

theorem gives_unas (w : Nat) : Gives unas w := gives_error _ w

/-- What the reserved values let through need be right only where they do not occur. -/
theorem gives_req {ok : Bool} {i : Instr} {x w : Nat} (hf : ok = true → wellFormed i = true) (he : encode i = some x)
    (hx : ok = true → x = w) : Gives (req ok i) w := by
  cases ok with
  | false => exact gives_error _ w
  | true => exact gives_ok (hf rfl) he (hx rfl)

/-- Two checks that both pass. -/
theorem both {a b : Bool} (ha : a = true) (hb : b = true) : (a && b) = true := Bool.and_eq_true_iff.2 ⟨ha, hb⟩

/-! ### Fields of a word -/

theorem fld_lt (w lo n : Nat) : fld w lo n < 2 ^ n := Nat.mod_lt _ (by positivity)

theorem b1_bitB (w lo : Nat) : b1 (bitB w lo) = fld w lo 1 := by
  have := fld_lt w lo 1
  simp only [b1, bitB, beq_iff_eq]
  split <;> omega

theorem b1_beq_one {n : Nat} (h : n < 2) : b1 (n == 1) = n := by
  simp only [b1, beq_iff_eq]
  split <;> omega

/-- A bit that is clear has the value 0. -/
theorem b1_not {b : Bool} (h : (!b) = true) : b1 b = 0 := by
  cases b <;> simp_all [b1]

theorem mod8_add_b1 {mn : Nat} (h : mn < 16) : mn % 8 + 8 * b1 (mn / 8 == 1) = mn := by
  rw [b1_beq_one (by omega)]; omega

theorem condCode_condOf {n : Nat} {c : Cond} (h : condOf n = some c) : condCode c = n := by
  unfold condOf at h
  split at h <;> cases h <;> rfl

theorem sizeCode_sizeOf' {n : Nat} {z : Size} (h : sizeOf' n = some z) : sizeCode z = n := by
  unfold sizeOf' at h
  split at h <;> cases h <;> rfl

theorem atomCode_atomOf {n : Nat} {o : AtomOp} (h : atomOf n = some o) : atomCode o = n := by
  unfold atomOf at h
  split at h <;> cases h <;> rfl

theorem atomfCode_atomfOf {n : Nat} {o : AtomFOp} (h : atomfOf n = some o) : atomfCode o = n := by
  unfold atomfOf at h
  split at h <;> cases h <;> rfl

theorem fcondCode_fcondOf {n : Nat} (h : n < 8) : fcondCode (fcondOf n) = n := by
  interval_cases n <;> rfl

theorem stepCode_stepOf {n : Nat} (h : n < 4) : stepCode (stepOf n) = n := by
  interval_cases n <;> rfl

/-! ### A word as the sum of its fields (R25) -/

/-- The low bits of a word, cut at bit `n`. -/
theorem fld_cut (w n m : Nat) : fld w 0 (n + m) = fld w n m * 2 ^ n + fld w 0 n := by
  simp only [fld, Nat.pow_zero, Nat.div_one, Nat.pow_add, Nat.mod_mul, Nat.mul_comm, Nat.add_comm]

theorem fld_low (w : Nat) : fld w 0 31 = w % 2 ^ 31 := by simp only [fld, Nat.pow_zero, Nat.div_one]

theorem fmtA_fld (w : Nat) : fmtA (fld w 25 6) (fld w 21 4) (fld w 14 7) (fld w 7 7) (fld w 0 7) = w % 2 ^ 31 := by
  rw [← fld_low, fld_cut w 25 6, fld_cut w 21 4, fld_cut w 14 7, fld_cut w 7 7, fmtA]
  simp only [Nat.add_assoc]

theorem fmtI_fld (w : Nat) : fmtI (fld w 25 6) (fld w 18 7) (fld w 11 7) (fld w 0 11) = w % 2 ^ 31 := by
  rw [← fld_low, fld_cut w 25 6, fld_cut w 18 7, fld_cut w 11 7, fmtI]
  simp only [Nat.add_assoc]

theorem fmtL_fld (w : Nat) : fmtL (fld w 25 6) (fld w 18 7) (fld w 16 2) (fld w 0 16) = w % 2 ^ 31 := by
  rw [← fld_low, fld_cut w 25 6, fld_cut w 18 7, fld_cut w 16 2, fmtL]
  simp only [Nat.add_assoc]

theorem fmtU_fld (w : Nat) :
    fmtU (fld w 25 6) (fld w 21 4) (fld w 14 7) (fld w 7 7) (fld w 3 4) (fld w 0 3) = w % 2 ^ 31 := by
  rw [← fld_low, fld_cut w 25 6, fld_cut w 21 4, fld_cut w 14 7, fld_cut w 7 7, fld_cut w 3 4, fmtU]
  simp only [Nat.add_assoc]

theorem fmtM_fld (w : Nat) : fmtM (fld w 25 6) (fld w 21 4) (fld w 14 7) (fld w 7 7) (fld w 6 1) (fld w 5 1) (fld w 4 1)
    (fld w 0 4) = w % 2 ^ 31 := by
  rw [← fld_low, fld_cut w 25 6, fld_cut w 21 4, fld_cut w 14 7, fld_cut w 7 7, fld_cut w 6 1, fld_cut w 5 1, fld_cut w 4 1,
    fmtM]
  simp only [Nat.add_assoc]

theorem fmtX_fld (w : Nat) : fmtX (fld w 25 6) (fld w 21 4) (fld w 14 7) (fld w 8 6) (fld w 6 2) (fld w 2 4) (fld w 0 2) =
    w % 2 ^ 31 := by
  rw [← fld_low, fld_cut w 25 6, fld_cut w 21 4, fld_cut w 14 7, fld_cut w 8 6, fld_cut w 6 2, fld_cut w 2 4, fmtX]
  simp only [Nat.add_assoc]

/-- The words of HRND and XCOPY have UB in the place of XOP and XMIN (R35). -/
theorem fmtX_ub_fld (w : Nat) : fmtX (fld w 25 6) (fld w 21 4) (fld w 14 7) (fld w 8 6) 0 0 (fld w 0 2) + fld w 2 6 * 2 ^ 2 =
    w % 2 ^ 31 := by
  rw [← fld_low, fld_cut w 25 6, fld_cut w 21 4, fld_cut w 14 7, fld_cut w 8 6, fld_cut w 2 6, fmtX]
  omega

theorem fmtB_fld (w : Nat) : fmtB (fld w 25 6) (fld w 22 3) (fld w 20 2) (fld w 0 20) = w % 2 ^ 31 := by
  rw [← fld_low, fld_cut w 25 6, fld_cut w 22 3, fld_cut w 20 2, fmtB]
  simp only [Nat.add_assoc]

theorem fmtRep_fld (w : Nat) (h : fld w 0 10 = 0) : fld w 25 6 * 2 ^ 25 + fld w 19 6 * 2 ^ 19 + fld w 16 3 * 2 ^ 16 +
    fld w 14 2 * 2 ^ 14 + fld w 12 2 * 2 ^ 12 + fld w 10 2 * 2 ^ 10 = w % 2 ^ 31 := by
  rw [← fld_low, fld_cut w 25 6, fld_cut w 19 6, fld_cut w 16 3, fld_cut w 14 2, fld_cut w 12 2, fld_cut w 10 2, h]
  simp only [Nat.add_assoc, Nat.add_zero]

/-! ### Format A -/

section FormatA
variable {mn d a b : Nat} (hr : regs3 d a b = true)
include hr

theorem decSint_gives : Gives (decSint mn d a b) (fmtA 0x00 mn d a b) := by
  unfold decSint
  split
  all_goals first | exact gives_unas _ | exact gives_ok hr rfl rfl

theorem decSint2_gives : Gives (decSint2 mn d a b) (fmtA 0x01 mn d a b) := by
  unfold decSint2
  split
  all_goals first | exact gives_unas _ | exact gives_ok hr rfl rfl

theorem decVfd_gives : Gives (decVfd mn d a b) (fmtA 0x12 mn d a b) := by
  unfold decVfd
  split
  all_goals first | exact gives_unas _ | exact gives_ok hr rfl rfl

theorem decVfh_gives : Gives (decVfh mn d a b) (fmtA 0x13 mn d a b) := by
  unfold decVfh
  split
  all_goals first | exact gives_unas _ | exact gives_ok hr rfl rfl

/-! The majors marked A+u have their minor in MN[2:0] and u in MN[3] (R60). -/

theorem decVint_gives : Gives (decVint mn d a b) (fmtA 0x08 (mn % 8 + 8 * b1 (mn / 8 == 1)) d a b) := by
  unfold decVint
  generalize mn % 8 = m
  dsimp only
  split
  all_goals first | exact gives_unas _ | exact gives_ok hr rfl rfl

theorem decVint2_gives : Gives (decVint2 mn d a b) (fmtA 0x09 (mn % 8 + 8 * b1 (mn / 8 == 1)) d a b) := by
  unfold decVint2
  generalize mn % 8 = m
  dsimp only
  split
  all_goals first | exact gives_unas _ | exact gives_ok hr rfl rfl

theorem decVint3_gives : Gives (decVint3 mn d a b) (fmtA 0x0A (mn % 8 + 8 * b1 (mn / 8 == 1)) d a b) := by
  unfold decVint3
  generalize mn % 8 = m
  dsimp only
  split
  all_goals first | exact gives_unas _ | exact gives_ok hr rfl rfl

theorem decVf_gives : Gives (decVf mn d a b) (fmtA 0x11 (mn % 8 + 8 * b1 (mn / 8 == 1)) d a b) := by
  unfold decVf
  generalize mn % 8 = m
  dsimp only
  split
  all_goals first | exact gives_unas _ | exact gives_ok hr rfl rfl

theorem vfcmp_gives (hm : mn < 16) : Gives (if mn / 8 == 1 then .ok (.vfcmpF64 (fcondOf (mn % 8)) d a b)
    else .ok (.vfcmp (fcondOf (mn % 8)) d a b)) (fmtA 0x14 mn d a b) := by
  have hc := fcondCode_fcondOf (Nat.mod_lt mn (show 0 < 8 by omega))
  split <;> rename_i h <;> rw [beq_iff_eq] at h
  · exact gives_ok hr rfl (by rw [hc, show mn % 8 + 8 = mn by omega])
  · exact gives_ok hr rfl (by rw [hc, show mn % 8 = mn by omega])

omit hr
variable (h2 : (reg7 d && reg7 a) = true)
include h2

/-- VUN reads no B (R70). -/
theorem decVun_gives : Gives (decVun mn d a b) (fmtA 0x0B mn d a b) := by
  unfold decVun
  split
  all_goals first | exact gives_unas _ | exact gives_req (fun _ => h2) rfl fun h => by rw [eq_of_beq h]

include hr in
theorem decPlog_gives : Gives (decPlog mn d a b) (fmtA 0x10 mn d a b) := by
  unfold decPlog
  split
  all_goals first
    | exact gives_unas _
    | exact gives_ok hr rfl rfl
    | exact gives_req (fun _ => h2) rfl fun h => by rw [eq_of_beq h]

omit h2 in
theorem decCtl_gives (ha : reg7 a = true) : Gives (decCtl mn d a b) (fmtA 0x1E mn d a b) := by
  unfold decCtl
  split
  case h_8 => exact gives_unas _
  case h_3 | h_4 | h_5 =>
    refine gives_req (fun _ => rfl) rfl fun h => ?_
    simp only [Bool.and_eq_true, beq_iff_eq] at h
    simp only [h]
  case h_1 | h_2 =>
    refine gives_req (fun _ => ha) rfl fun h => ?_
    simp only [Bool.and_eq_true, beq_iff_eq] at h
    simp only [h]
  all_goals
    refine gives_req (fun h => ?_) rfl fun h => ?_
    all_goals simp only [Bool.and_eq_true, beq_iff_eq, decide_eq_true_eq] at h
    · exact decide_eq_true (Nat.lt_succ_of_le h.2)
    · simp only [h]

end FormatA

/-- The majors of format A (R30). -/
theorem decA_gives (maj w : Nat) :
    Gives (decA maj w) (fmtA maj (fld w 21 4) (fld w 14 7) (fld w 7 7) (fld w 0 7)) := by
  have hm : fld w 21 4 < 16 := fld_lt w 21 4
  have hd : reg7 (fld w 14 7) = true := decide_eq_true (fld_lt w 14 7)
  have ha : reg7 (fld w 7 7) = true := decide_eq_true (fld_lt w 7 7)
  have hr : regs3 (fld w 14 7) (fld w 7 7) (fld w 0 7) = true := both (both hd ha) (decide_eq_true (fld_lt w 0 7))
  have hu := mod8_add_b1 hm
  unfold decA
  generalize fld w 21 4 = mn at *
  dsimp only
  split
  · exact decSint_gives hr
  · exact decSint2_gives hr
  · split
    · rename_i c hc
      exact gives_ok hr rfl (by rw [condCode_condOf hc])
    · exact gives_unas _
  · have h := decVint_gives (mn := mn) hr
    rwa [hu] at h
  · have h := decVint2_gives (mn := mn) hr
    rwa [hu] at h
  · have h := decVint3_gives (mn := mn) hr
    rwa [hu] at h
  · exact decVun_gives (both hd ha)
  · split
    · rename_i c hc
      exact gives_ok hr rfl (by rw [condCode_condOf hc])
    · exact gives_unas _
  · exact gives_ok (both (decide_eq_true (Nat.mod_lt _ (by omega))) hr) rfl (by rw [hu])
  · exact decPlog_gives hr (both hd ha)
  · have h := decVf_gives (mn := mn) hr
    rwa [hu] at h
  · exact decVfd_gives hr
  · exact decVfh_gives hr
  · exact vfcmp_gives hr hm
  · exact decCtl_gives ha
  · exact gives_unas _

/-- The majors of formats I and L (R31). -/
theorem decIL_gives (w : Nat) : Gives (decIL (fld w 25 6) w) (w % 2 ^ 31) := by
  have hd : reg7 (fld w 18 7) = true := decide_eq_true (fld_lt w 18 7)
  have ha : reg7 (fld w 11 7) = true := decide_eq_true (fld_lt w 11 7)
  have hi : decide (fld w 0 11 < 2 ^ 11) = true := decide_eq_true (fld_lt w 0 11)
  have hn : decide (fld w 0 16 < 2 ^ 16) = true := decide_eq_true (fld_lt w 0 16)
  have hI := fmtI_fld w
  have hL := fmtL_fld w
  generalize w % 2 ^ 31 = x at hI hL ⊢
  generalize fld w 25 6 = maj at hI hL ⊢
  unfold decIL
  dsimp only
  split
  case h_6 =>
    refine gives_req (fun _ => hn) rfl fun h => ?_
    simp only [Bool.and_eq_true, beq_iff_eq] at h
    rw [← hL, h.1, h.2]
  case h_7 => exact gives_unas _
  case h_1 | h_2 => exact gives_ok (both (both hd ha) hi) rfl hI
  all_goals
    refine gives_req (fun _ => both hd hn) rfl fun h => ?_
    rw [b1_beq_one (of_decide_eq_true h), hL]

/-! ### Format U -/

theorem mode_sat {m : Nat} (h : m < 8) : 4 * b1 (m / 4 == 1) + m % 4 = m := by
  rw [b1_beq_one (by omega)]; omega

section FormatU
variable {la mn d a mode : Nat} (h2 : (reg7 d && reg7 a) = true)

include h2 in
/-- MODE holds SAT and the rounding mode, or SAT alone must be set, or MODE is zero (R94). -/
theorem decVcvt_gives (hm : mode < 8) : Gives (decVcvt la d a mn mode) (fmtU 0x15 la d a mn mode) := by
  have h3 : (reg7 d && reg7 a && decide (mode % 4 < 4)) = true := both h2 (decide_eq_true (Nat.mod_lt _ (by omega)))
  have hany (n : Nat) (h : (la == 0) = true) :
      fmtU 0x15 0 d a n (4 * b1 (mode / 4 == 1) + mode % 4) = fmtU 0x15 la d a n mode := by
    rw [eq_of_beq h, mode_sat hm]
  have hzero (n : Nat) (h : (la == 0 && mode == 0) = true) : fmtU 0x15 0 d a n 0 = fmtU 0x15 la d a n mode := by
    simp only [Bool.and_eq_true, beq_iff_eq] at h
    simp only [h]
  have hint (n : Nat) (h : (la == 0 && mode / 4 == 1) = true) : fmtU 0x15 0 d a n (4 + mode % 4) = fmtU 0x15 la d a n mode := by
    simp only [Bool.and_eq_true, beq_iff_eq] at h
    rw [h.1, show 4 + mode % 4 = mode by omega]
  unfold decVcvt
  dsimp only
  split
  all_goals first
    | exact gives_unas _
    | exact gives_req (fun _ => h3) rfl (hany _)
    | exact gives_req (fun _ => h2) rfl (hzero _)
    | exact gives_req (fun _ => h3) rfl (hint _)

theorem decSfu_gives (hr : laRegs la d a = true) : Gives (decSfu la d a mn mode) (fmtU 0x16 la d a mn mode) := by
  unfold decSfu
  split
  all_goals first | exact gives_unas _ | exact gives_req (fun _ => hr) rfl fun h => by rw [eq_of_beq h]

end FormatU

/-- The registers and the lookahead field of a word of format U or M are in range. -/
theorem laRegs_fld (w : Nat) : laRegs (fld w 21 4) (fld w 14 7) (fld w 7 7) = true :=
  both (both (decide_eq_true (fld_lt w 21 4)) (decide_eq_true (fld_lt w 14 7))) (decide_eq_true (fld_lt w 7 7))

/-- The majors of format U (R33). -/
theorem decU_gives (w : Nat) (h : fld w 25 6 = 0x15 ∨ fld w 25 6 = 0x16) : Gives (decU (fld w 25 6) w) (w % 2 ^ 31) := by
  rw [← fmtU_fld]
  rcases h with h | h <;> rw [h]
  · exact decVcvt_gives (both (decide_eq_true (fld_lt w 14 7)) (decide_eq_true (fld_lt w 7 7))) (fld_lt w 0 3)
  · exact decSfu_gives (laRegs_fld w)

/-! ### Format M -/

theorem sxOk_of {n : Nat} {z : Size} {m : Bool} (hz : sizeOf' n = some z) (h : (!(m && decide (n ≥ 2))) = true) :
    sxOk m z = true := by
  rw [← sizeCode_sizeOf' hz] at h
  cases m <;> cases z <;> simp_all [sxOk, sizeCode]

/-- LDT and STT have their size in MIN[1:0] (R34). -/
theorem sizeMin_gives {maj w : Nat} {f : Size → Instr} {z : Size}
    (hf : wellFormed (f z) = (laRegs (fld w 21 4) (fld w 14 7) (fld w 7 7) && tensorOk z (fld w 0 4)))
    (he : encode (f z) = some (fmtM maj (fld w 21 4) (fld w 14 7) (fld w 7 7) (fld w 6 1) (sizeCode z / 2)
      (sizeCode z % 2) (fld w 0 4))) (hz : z ≠ .q) (hc : sizeCode z = fld w 4 2) :
    Gives (req (fld w 0 4 != 0) (f z)) (fmtM maj (fld w 21 4) (fld w 14 7) (fld w 7 7) (fld w 6 1) (fld w 5 1) (fld w 4 1)
      (fld w 0 4)) := by
  have ho : fld w 0 4 < 16 := fld_lt w 0 4
  have h5 : sizeCode z / 2 = fld w 5 1 := by rw [hc]; simp only [fld]; omega
  have h4 : sizeCode z % 2 = fld w 4 1 := by rw [hc]; simp only [fld]; omega
  refine gives_req (fun h => ?_) he fun _ => by rw [h5, h4]
  have h0 : 1 ≤ fld w 0 4 := Nat.pos_of_ne_zero (bne_iff_ne.1 h)
  rw [hf]
  exact both (laRegs_fld w) (both (both (bne_iff_ne.2 hz) (decide_eq_true h0)) (decide_eq_true ho))

/-- The size that MIN[1:0] names. -/
theorem sizeMin (w : Nat) : let z : Size := match fld w 4 2 with | 0 => .b | 1 => .h | 2 => .w | _ => .d
    z ≠ .q ∧ sizeCode z = fld w 4 2 := by
  have := fld_lt w 4 2
  generalize fld w 4 2 = n at this
  interval_cases n <;> simp [sizeCode]

section FormatM
variable {la d a op : Nat} {v m1 m0 : Bool} (hR : laRegs la d a = true)
include hR

/-- The words under major 0x2B: PREFETCH, DISCARD and WRITEBACK have no destination, TDESC has one. -/
theorem memCtl_gives : Gives (match op with
    | 0 => req (!m1 && !m0 && d == 0 && la == 0) (.prefetch a v)
    | 1 => req (!m1 && !m0 && d == 0 && la == 0) (.discard a v)
    | 2 => req (!m1 && !m0 && d == 0 && la == 0) (.writeback a v)
    | 3 => req (!m1 && !m0 && !v) (.tdesc la d a)
    | _ => unas) (fmtM 0x2B la d a (b1 v) (b1 m1) (b1 m0) op) := by
  have ha : reg7 a = true := (Bool.and_eq_true_iff.1 hR).2
  have hx (n : Nat) (h : (!m1 && !m0 && d == 0 && la == 0) = true) :
      fmtM 0x2B 0 0 a (b1 v) 0 0 n = fmtM 0x2B la d a (b1 v) (b1 m1) (b1 m0) n := by
    simp only [Bool.and_eq_true, beq_iff_eq] at h
    obtain ⟨⟨⟨h1, h0⟩, rfl⟩, rfl⟩ := h
    rw [b1_not h1, b1_not h0]
  split
  case h_4 =>
    refine gives_req (fun _ => hR) rfl fun h => ?_
    simp only [Bool.and_eq_true] at h
    rw [b1_not h.1.1, b1_not h.1.2, b1_not h.2]
  case h_5 => exact gives_unas _
  all_goals exact gives_req (fun _ => ha) rfl (hx _)

/-- The words of the objects (R195): the scope stands in MIN[1]. -/
theorem memObj_gives : Gives (match op with
    | 0 => req (!v && !m0) (.binit la d a m1)
    | 1 => req (!v && !m0) (.barrive la d a m1)
    | 2 => req (!v && !m0) (.bwait la d a m1)
    | 3 => req (!v && !m0) (.bquery la d a m1)
    | _ => unas) (fmtM 0x2C la d a (b1 v) (b1 m1) (b1 m0) op) := by
  have hx (n : Nat) (h : (!v && !m0) = true) :
      fmtM 0x2C la d a 0 (b1 m1) 0 n = fmtM 0x2C la d a (b1 v) (b1 m1) (b1 m0) n := by
    obtain ⟨hv, h0⟩ := Bool.and_eq_true_iff.1 h
    rw [b1_not hv, b1_not h0]
  split
  all_goals first | exact gives_unas _ | exact gives_req (fun _ => hR) rfl (hx _)

end FormatM

/-- The majors of format M (R34). -/
theorem decM_gives (maj w : Nat) : Gives (decM maj w) (fmtM maj (fld w 21 4) (fld w 14 7) (fld w 7 7) (fld w 6 1) (fld w 5 1)
    (fld w 4 1) (fld w 0 4)) := by
  have hR := laRegs_fld w
  have h6 := b1_bitB w 6
  have h5 := b1_bitB w 5
  have h4 := b1_bitB w 4
  unfold decM
  dsimp only
  split
  case h_3 => exact sizeMin_gives (f := fun z => .ldt _ _ _ _ z _) rfl (by rw [← h6]; rfl) (sizeMin w).1 (sizeMin w).2
  case h_4 => exact sizeMin_gives (f := fun z => .stt _ _ _ _ z _) rfl (by rw [← h6]; rfl) (sizeMin w).1 (sizeMin w).2
  case h_14 => exact gives_unas _
  all_goals rw [← h6, ← h5, ← h4]
  case h_1 =>
    split
    · rename_i z hz
      exact gives_req (fun h => both hR (sxOk_of hz h)) rfl fun _ => by rw [sizeCode_sizeOf' hz]
    · exact gives_unas _
  case h_2 | h_6 =>
    split
    · rename_i z hz
      refine gives_req (fun _ => hR) rfl fun h => ?_
      obtain ⟨h1, h0⟩ := Bool.and_eq_true_iff.1 h
      rw [b1_not h1, b1_not h0, sizeCode_sizeOf' hz]
    · exact gives_unas _
  case h_5 | h_7 =>
    split
    · rename_i z hz
      refine gives_req (fun h => both hR (sxOk_of hz (Bool.and_eq_true_iff.1 h).1)) rfl fun h => ?_
      rw [b1_not (Bool.and_eq_true_iff.1 h).2, sizeCode_sizeOf' hz]
    · exact gives_unas _
  case h_8 =>
    split
    · rename_i o ho
      exact gives_req (fun _ => hR) rfl fun h => by rw [b1_not h, atomCode_atomOf ho]
    · exact gives_unas _
  case h_9 =>
    split
    · rename_i o ho
      refine gives_req (fun _ => hR) rfl fun h => ?_
      obtain ⟨h1, h0⟩ := Bool.and_eq_true_iff.1 h
      rw [b1_not h1, b1_not h0, atomfCode_atomfOf ho]
    · exact gives_unas _
  case h_10 =>
    split
    · rename_i h0
      exact gives_req (fun _ => hR) rfl fun h => by rw [b1_not h, h0]
    · exact gives_unas _
  case h_11 =>
    split
    · rename_i o ho
      exact gives_req (fun _ => hR) rfl fun h => by rw [b1_not h, atomCode_atomOf ho]
    · split
      · rename_i h9
        exact gives_req (fun _ => hR) rfl fun h => by rw [b1_not h, h9]
      · exact gives_unas _
  all_goals generalize fld w 0 4 = op
  case h_12 => exact memCtl_gives hR
  case h_13 => exact memObj_gives hR

/-! ### Format X -/

section FormatX
variable {maj la d ua xop xmin mode : Nat} (hl : la4 la = true) (hd : reg7 d = true) (hu : reg6 ua = true)

section Mode
variable (hm : decide (mode < 4) = true)
include hl hd hu hm

theorem decXlane_gives (hx : xop < 4) : Gives (decXlane la d ua xop xmin mode) (fmtX 0x18 la d ua xop xmin mode) := by
  have hU := both (both (both hl hd) hu) hm
  unfold decXlane
  split
  case h_11 => exact gives_unas _
  case h_9 | h_10 => exact gives_ok hU rfl (by rw [stepCode_stepOf hx])
  case h_4 =>
    refine gives_req (fun _ => both (both hl hd) hm) rfl fun h => ?_
    simp only [Bool.and_eq_true, beq_iff_eq] at h
    simp only [h]
  case h_6 | h_7 | h_8 =>
    refine gives_req (fun h => ?_) rfl fun h => ?_
    all_goals simp only [Bool.and_eq_true, beq_iff_eq, decide_eq_true_eq] at h
    · exact both (both (both hl hd) (decide_eq_true (Nat.lt_succ_of_le h.2))) hm
    · simp only [h]
  all_goals exact gives_req (fun _ => hU) rfl fun h => by rw [eq_of_beq h]

/-- The words of the engines answer by what they have beside UA: LA and D, D, or nothing, and the mode. -/
theorem decEngine_gives : Gives (decEngine maj la d ua xop xmin mode) (fmtX maj la d ua xop xmin mode) := by
  have hU : laUni la d ua = true := both (both hl hd) hu
  unfold decEngine
  dsimp only
  split
  case h_6 =>
    refine gives_req (fun h => ?_) rfl fun h => ?_
    all_goals simp only [Bool.and_eq_true, beq_iff_eq, decide_eq_true_eq] at h
    · exact decide_eq_true (Nat.lt_succ_of_le h.2)
    · simp only [h]
  all_goals first
    | exact gives_unas _
    | refine gives_req (fun _ => hU) rfl fun h => ?_
    | refine gives_req (fun _ => both hU hm) rfl fun h => ?_
    | refine gives_req (fun _ => hu) rfl fun h => ?_
    | refine gives_req (fun _ => both hu hm) rfl fun h => ?_
    | refine gives_req (fun _ => both hd hu) rfl fun h => ?_
  all_goals
    simp only [Bool.and_eq_true, beq_iff_eq] at h
    simp only [h]

end Mode

include hl hd hu

theorem decFabric_gives : Gives (decFabric maj la d ua xop xmin mode) (fmtX maj la d ua xop xmin mode) := by
  have hU : laUni la d ua = true := both (both hl hd) hu
  unfold decFabric
  dsimp only
  split
  case h_3 | h_4 =>
    refine gives_req (fun h => ?_) rfl fun h => ?_
    · simp only [Bool.and_eq_true] at h
      exact both h.1.2 h.2
    · simp only [Bool.and_eq_true, beq_iff_eq] at h
      simp only [h]
  all_goals first
    | exact gives_unas _
    | refine gives_req (fun _ => hU) rfl fun h => ?_
    | refine gives_req (fun _ => hu) rfl fun h => ?_
    | refine gives_req (fun _ => rfl) rfl fun h => ?_
  all_goals
    simp only [Bool.and_eq_true, beq_iff_eq] at h
    simp only [h]

theorem decSys_gives : Gives (decSys maj la d ua xop xmin mode) (fmtX maj la d ua xop xmin mode) := by
  have hU : laUni la d ua = true := both (both hl hd) hu
  unfold decSys
  dsimp only
  split
  case h_3 =>
    refine gives_req (fun h => both (both hl hd) (Bool.and_eq_true_iff.1 h).2) rfl fun h => ?_
    simp only [Bool.and_eq_true, beq_iff_eq, decide_eq_true_eq] at h
    rw [b1_beq_one h.1.2, h.1.1]
  case h_4 =>
    refine gives_req (fun h => both hd (Bool.and_eq_true_iff.1 h).2) rfl fun h => ?_
    simp only [Bool.and_eq_true, beq_iff_eq, decide_eq_true_eq] at h
    rw [b1_beq_one h.1.1.2, h.1.1.1, h.1.2]
  all_goals first
    | exact gives_unas _
    | refine gives_req (fun _ => hU) rfl fun h => ?_
    | refine gives_req (fun _ => hu) rfl fun h => ?_
    | refine gives_req (fun _ => rfl) rfl fun h => ?_
  all_goals
    simp only [Bool.and_eq_true, beq_iff_eq] at h
    simp only [h]

end FormatX

/-- The majors of format X (R35). -/
theorem decX_gives (w : Nat) : Gives (decX (fld w 25 6) w) (w % 2 ^ 31) := by
  have hl : la4 (fld w 21 4) = true := decide_eq_true (fld_lt w 21 4)
  have hd : reg7 (fld w 14 7) = true := decide_eq_true (fld_lt w 14 7)
  have hu : reg6 (fld w 8 6) = true := decide_eq_true (fld_lt w 8 6)
  have hb : reg6 (fld w 2 6) = true := decide_eq_true (fld_lt w 2 6)
  have hm : decide (fld w 0 2 < 4) = true := decide_eq_true (fld_lt w 0 2)
  have hX := fmtX_fld w
  have hU := fmtX_ub_fld w
  generalize fld w 25 6 = maj at hX hU
  unfold decX
  dsimp only
  split
  case h_1 | h_3 => exact gives_req (fun _ => both (both (both hl hd) hu) hb) rfl fun h => by rw [← hU, eq_of_beq h]
  all_goals rw [← hX]
  · exact decXlane_gives hl hd hu hm (fld_lt w 6 2)
  iterate 5 exact decEngine_gives hl hd hu hm
  iterate 4 exact decFabric_gives hl hd hu
  iterate 3 exact decSys_gives hl hd hu
  exact gives_unas _

/-! ### Format B and REP -/

/-- The majors of format B (R32). -/
theorem decB_gives (maj w : Nat) : Gives (decB maj w) (fmtB maj (fld w 22 3) (fld w 20 2) (fld w 0 20)) := by
  have hf : (decide (fld w 22 3 < 8) && decide (fld w 0 20 < 2 ^ 20)) = true :=
    both (decide_eq_true (fld_lt w 22 3)) (decide_eq_true (fld_lt w 0 20))
  unfold decB
  generalize fld w 20 2 = pol
  dsimp only
  split
  all_goals first | exact gives_unas _ | exact gives_ok hf rfl rfl

/-- REP (R18). -/
theorem decRep_gives (w : Nat) (h : fld w 25 6 = 0x3F) : Gives (decRep w) (w % 2 ^ 31) := by
  have hc : decide (fld w 19 6 < 64) = true := decide_eq_true (fld_lt w 19 6)
  have hm : decide (fld w 16 3 < 8) = true := decide_eq_true (fld_lt w 16 3)
  have hd : decide (fld w 14 2 < 4) = true := decide_eq_true (fld_lt w 14 2)
  have ha : decide (fld w 12 2 < 4) = true := decide_eq_true (fld_lt w 12 2)
  have hb : decide (fld w 10 2 < 4) = true := decide_eq_true (fld_lt w 10 2)
  refine gives_req (fun hr => ?_) rfl fun hr => ?_
  all_goals
    simp only [Bool.and_eq_true] at hr
    obtain ⟨⟨⟨h0, hsd⟩, hsa⟩, hsb⟩ := hr
  · exact both (both (both (both (both (both (both hc hm) hd) ha) hb) hsd) hsa) hsb
  · rw [← fmtRep_fld w (eq_of_beq h0), h]

/-- Whatever a word decodes to is well formed, and its word is the one that was decoded, but for the chain bit (R11, R25). -/
theorem decodeWord_gives (w : Nat) : Gives (decodeWord w) (w % 2 ^ 31) := by
  have hA := decA_gives (fld w 25 6) w
  have hU := decU_gives w
  have hM := decM_gives (fld w 25 6) w
  have hB := decB_gives (fld w 25 6) w
  rw [fmtA_fld] at hA
  rw [fmtM_fld] at hM
  rw [fmtB_fld] at hB
  unfold decodeWord
  dsimp only
  have hI := decIL_gives w
  have hX := decX_gives w
  have hR := decRep_gives w
  generalize fld w 25 6 = maj at *
  split
  all_goals first
    | exact gives_unas _
    | exact hA
    | exact hI
    | exact hM
    | exact hX
    | exact hB
    | exact hR rfl
    | exact hU (.inl rfl)
    | exact hU (.inr rfl)

/-- Settles O2: format by format, the fields of a word that decodes put the word together again. -/
theorem encodingADecodedWordGivesTheWord : Obligations.EncodingADecodedWordGivesTheWord :=
  fun w i _ h => decodeWord_gives w i h

end Sys2Proof
end

section
/-! SUPPORT. Kills and discarded writes (R7, R8, R22, R23, R37, R59). -/

namespace Sys2Proof.Machine

/-! ### Kills -/

/-- Freeing the entries of a warp changes the fragment table alone. -/
theorem dropFrags_frame (s : State) (c x : Nat) : ∃ fs, dropFrags s c x = { s with frags := fs } := by
  unfold dropFrags
  generalize s.frags.filter (fun f => f.crew == c && f.warp == x && !f.freed) = gs
  induction gs generalizing s with
  | nil => exact ⟨s.frags, rfl⟩
  | cons g gs ih => exact ih (freeFrag s g)

/-- A lane of a killed warp: KILLED, unless it has exited (R22). -/
def killedLane (ln : Lane) : Lane := if ln.live then { ln with st := .killed, wait := .none, inRep := false } else ln

theorem lane_killedWarp {w : Warp} {l : Nat} (h : l < w.lanes.length) : (killedWarp w).lane l = killedLane (w.lane l) := by
  simp [killedWarp, killedLane, Warp.lane, List.getD_eq_getElem?_getD, h]

/-- A killed lane keeps its registers and its PC, and one that has exited stays so. -/
theorem killedLane_fields (ln : Lane) : (killedLane ln).v = ln.v ∧ (killedLane ln).p = ln.p ∧ (killedLane ln).pc = ln.pc ∧
    (killedLane ln).st = if ln.st = .exited then .exited else .killed := by
  unfold killedLane
  split
  · rename_i h
    simp_all [Lane.live]
  · rename_i h
    simp [Lane.live] at h
    refine ⟨rfl, rfl, rfl, ?_⟩
    split <;> simp_all

/-- R8: a word outside its registers kills the warp before any other check. -/
theorem killOf_regrange {i : Instr} {s : State} (h : regrange s.w.window i = true) : killOf i s = some .regrange := by
  simp [killOf, h]

/-- What has register fields is a word, which issues through the checks of R22. -/
theorem exec_word (i : Instr) : fields i = [] ∨ ∃ f, ∀ s, exec i s = issue i s f := by
  cases i <;> first | exact .inl rfl | exact .inr ⟨_, fun _ => rfl⟩

theorem exec_regrange {i : Instr} {s : State} (h : regrange s.w.window i = true) : exec i s = .next (kill .regrange s) := by
  rcases exec_word i with hf | ⟨f, hf⟩
  · simp [regrange, hf] at h
  · rw [hf, issue_kill f (killOf_regrange h)]

/-- Settles O46: the frame of the dropped fragments, what a kill does to each lane, and the words that kill. -/
theorem killsEndTheirWarp : Obligations.KillsEndTheirWarp := by
  intro s k
  obtain ⟨fs, hfs⟩ := dropFrags_frame s s.c.id s.w.idx
  have hk : kill k s = { s with
      frags := fs
      c := { s.c with err := errAfter s.c.err k.code s.w.idx s.iss.pc, claims := s.c.claims.filter (·.1 != s.w.idx) }
      w := killedWarp s.w
      iss := { s.iss with abort := true } } := by
    unfold kill
    rw [hfs]
  refine ⟨?_, ?_, ?_, ?_, ?_, ?_, ?_, ?_, ?_, fun i => exec_regrange, fun hc => ?_, fun hc => ?_⟩
  case refine_1 => exact hk ▸ killedWarp_finished s.w
  case refine_5 =>
    intro l hl
    rw [hk]
    dsimp only
    rw [lane_killedWarp hl]
    exact killedLane_fields _
  case refine_11 => simp [execIllegalWord, execFetchFault, hc]
  case refine_10 => simp [execIllegalWord, execFetchFault, hc]
  all_goals rw [hk] <;> rfl

/-! ### Writes to `s0` and `p0` -/

/-- A register word whose effect is a write to a hard-wired register leaves the state as it was. -/
theorem issue_discarded {i : Instr} {s : State} {f : State → State} (hm : majorOf i < 0x1D)
    (hr : regrange s.w.window i = false) (hf : f s = s) : issue i s f = .next s := by
  rw [issue_plain f (by omega) (by omega) hr, hf]

/-- Settles O13: the writes to register 0 of each kind are no writes, and the fields of each word are in range. -/
theorem writesToHardWiredRegistersAreDiscarded : Obligations.WritesToHardWiredRegistersAreDiscarded := by
  intro s a b imm hi cc ha hb
  refine ⟨rdS_zero _, rdP_zero _, ?_, ?_⟩
  · simp only [List.forall_mem_cons]
    refine ⟨?_, ?_, ?_, ?_, ?_, ?_, ?_, ?_, ?_, ?_, by simp⟩
    all_goals
      dsimp only [exec]
      exact issue_discarded (by simp) (by simp [regrange, us, uw, pw, bad_s, bad_p, ha, hb]) rfl
  · intro p q hp hq
    simp only [List.forall_mem_cons]
    refine ⟨?_, ?_, by simp⟩
    all_goals
      dsimp only [exec]
      exact issue_discarded (by simp) (by simp [regrange, ps, pw, bad_p, hp, hq]) rfl

end Sys2Proof.Machine
end

section
/-! SUPPORT. What `swr` writes (R291, R293). -/

namespace Sys2Proof.Machine

/-- The lowest lane a word acts on is the first of its lanes. -/
theorem lowest_liveMask (s : State) : lowest (liveMask s) = (liveLanes s).head? := by
  simp [lowest, liveLanes, lanesThat]

/-- W1C of `%err`, bit by bit (R23). -/
theorem clearErr_eq (e x : Word) : clearErr e x =
    (if x.getLsbD 31 then e &&& 0x200000 else e) &&& ~~~(if x.getLsbD 21 then 0x200000 else 0) := by
  unfold clearErr
  cases x.getLsbD 21 <;> simp only [if_true, Bool.false_eq_true, if_false, BitVec.not_zero, BitVec.and_allOnes, BitVec.ofNat_eq_ofNat]

section Swr
variable {s : State} {d idx : Nat} {v : Bool} (hd : if v then d < s.w.window else d < 64)
include hd

theorem swr_regrange : regrange s.w.window (.swr d idx v) = false := by
  cases v <;> simp_all [regrange, us, vs, bad_s, bad_v]

/-- A register that no level may write, or not this one, kills the warp. -/
theorem execSwr_priv (h : ∀ l, writeLevel idx = some l → s.w.priv < l) : exec (.swr d idx v) s = .next (kill .priv s) := by
  rw [exec_swr]
  have hb : privBad (.swr d idx v) s = true := by
    cases hl : writeLevel idx with
    | none => simp [privBad, hl]
    | some l => simp [privBad, hl, h l hl]
  exact issue_kill _ (by simp [killOf, swr_regrange hd, hb])

theorem execSwr_write {l : Nat} (hl : writeLevel idx = some l) (hp : l ≤ s.w.priv) :
    exec (.swr d idx v) s = .next (writeSpecial s d idx v) := by
  rw [exec_swr]
  refine issue_ready _ ?_ rfl
  simp [killOf, swr_regrange hd, privBad, hl, Nat.not_lt.2 hp]

end Swr

/-- Settles O44: the level each index asks for, then the write of each register with the source that R293 names. -/
theorem specialRegisterWritesTakeTheirValue : Obligations.SpecialRegisterWritesTakeTheirValue := by
  intro s d v hd
  refine ⟨fun idx h => execSwr_priv hd ?_, fun h0 idx h => execSwr_priv hd ?_, fun hv hn idx h => ?_, fun x hx => ?_⟩
  · have hn : writeLevel idx = none := by
      simp at h
      rcases h with h | rfl | rfl | rfl | rfl | rfl | rfl
      · interval_cases idx <;> rfl
      all_goals rfl
    simp [hn]
  · simp at h
    rcases h with rfl | rfl | rfl | rfl <;> simp [writeLevel, h0]
  · have hs : swrSource s d v = none := by simp [swrSource, hv, lowest_liveMask, hn]
    have hl : writeLevel idx = some 0 := by
      simp at h
      rcases h with rfl | rfl | rfl <;> rfl
    rw [execSwr_write hd hl (Nat.zero_le _), writeSpecial, hs]
  · have hs : swrSource s d v = some x := by
      rcases hx with ⟨rfl, rfl⟩ | ⟨rfl, l, ls, hl, rfl⟩
      · rfl
      · simp [swrSource, lowest_liveMask, hl]
    refine ⟨?_, ?_, ?_, fun hp => ⟨?_, ?_, ?_, ?_⟩⟩
    · rw [execSwr_write hd (l := 0) rfl (Nat.zero_le _), writeSpecial, hs]; rfl
    · rw [execSwr_write hd (l := 0) rfl (Nat.zero_le _), writeSpecial, hs]; rfl
    · rw [execSwr_write hd (l := 0) rfl (Nat.zero_le _), writeSpecial, hs]
      rw [← clearErr_eq]
      rfl
    · rw [execSwr_write hd (l := 1) rfl hp, writeSpecial, hs]; rfl
    · rw [execSwr_write hd (l := 1) rfl hp, writeSpecial, hs]; rfl
    · rw [execSwr_write hd (l := 1) rfl hp, writeSpecial, hs]; rfl
    · rw [execSwr_write hd (l := 1) rfl hp, writeSpecial, hs]; rfl

end Sys2Proof.Machine
end

section
/-! SUPPORT. A step of the device: the issue of a bundle of one word, and an event (R10 to R15). -/

namespace Sys2Proof.Machine

/-- A word that does not chain is a bundle of its own (R11). -/
theorem takeWords_single {f : Nat → Option Nat} {x w n : Nat} (hf : f x = some w) (hc : chained w = false) :
    takeWords f x (n + 1) = ([w], false) := by
  simp [takeWords, hf, hc]

theorem decoded_single {w : Nat} {i : Instr} (h : decodeWord w = .ok i) : decoded [w] = [(0, i)] := by
  simp [decoded, h]

/-- A single word is first in the order of R289, whatever its pipe. -/
theorem issueOrder_single (x : Nat × Instr) : issueOrder [x] = [x] := by
  simp only [issueOrder, List.filter_cons, List.filter_nil]
  cases pipeOf x.2 <;> cases resizes x.2 <;> rfl

/-- The only word of a bundle has the last word. -/
theorem runWords_single (s : State) (p : Nat) (i : Instr) : runWords s [(p, i)] = exec i (atWord s p i) := by
  simp only [runWords]
  split <;> rename_i h <;> simp_all [runRest]

/-- A legal bundle of one word that is no REP runs the word. -/
theorem issueBundle_single {s : State} {w : Nat} {i : Instr} (hw : s.iss.words = 1)
    (hf : fetchWord s s.c s.w s.iss.pc.toNat = some w) (hc : chained w = false) (hd : decodeWord w = .ok i)
    (hp : fld w 25 6 ≠ 0x3F) (hk : classesOf s (fetchWord s s.c s.w) [w] false = []) :
    issueBundle s = exec i (atWord s 0 i) := by
  have hs : { s with iss := { s.iss with words := 1 } } = s := by rw [← hw]
  simp only [issueBundle, takeWords_single hf hc, hp, if_false, List.length_singleton, hs, hk, lowestClass, List.foldl_nil,
    decoded_single hd, issueOrder_single, runWords_single]

theorem beginIssue_pc (s : State) (r : Ready) : (beginIssue s r).iss.pc = r.pick.pc := rfl
theorem beginIssue_words (s : State) (r : Ready) : (beginIssue s r).iss.words = 1 := rfl

theorem issueOn_some {s : State} {core : Nat} {r : Ready} (h : chooseWarp s core = some r) :
    issueOn s core = match issuePick (beginIssue s r) r.pick with
      | .next t => .next (closeIssue t)
      | o => o := by
  unfold issueOn
  rw [h] <;> rfl

/-- Settles O56: the chosen warp's bundle is its one word, which runs at its place; an event runs as it is. -/
theorem aStepRunsTheDecodedInstruction : Obligations.AStepRunsTheDecodedInstruction := by
  intro s rest
  refine ⟨?_, ?_⟩
  · intro core a pc r w i hm hh hr hpick b hf hc hd hp hk
    have hpc : b.iss.pc = pc := by rw [beginIssue_pc, hpick]; rfl
    have hi : issuePick b r.pick = exec i (atWord b 0 i) := by
      rw [hpick]
      exact issueBundle_single (beginIssue_words _ r) (by rw [hpc]; exact hf) hc hd hp hk
    have hs : step s = stepDone (issueOn rest core) := by simp [step, hm, runMove, hh, rest]
    rw [hs, issueOn_some hr, hi]
    cases exec i (atWord b 0 i) <;> rfl
  · intro e hm he
    have hs : step s = stepDone (exec e rest) := by simp [step, hm, runMove, runEvent, he, rest]
    rw [hs]
    rfl

end Sys2Proof.Machine
end

section
/-! SUPPORT. The words that may be repeated, the word REP, and the issue of a repeat (R18 to R21, R107). -/

namespace Sys2Proof.Machine

/-! ### What a repeatable word decodes to -/

/-- Whatever instruction an outcome of the decoder names issues as itself, and its repeat does what the word does. -/
def Repeats (x : Decoded) : Prop :=
  ∀ i, x = .ok i → ∃ f, ∀ s, dispatchRepeatable i s = issue i s f ∧ exec i s = issue i s f

theorem repeats_ok {i : Instr} {f : State → State} (hd : ∀ s, dispatchRepeatable i s = issue i s f)
    (he : ∀ s, exec i s = issue i s f) : Repeats (.ok i) := by
  rintro j h
  cases h
  exact ⟨f, fun s => ⟨hd s, he s⟩⟩

theorem repeats_error (k : KillClass) : Repeats (.error k) := by simp [Repeats]

theorem repeats_unas : Repeats unas := repeats_error _

theorem repeats_req {ok : Bool} {i : Instr} {f : State → State} (hd : ∀ s, dispatchRepeatable i s = issue i s f)
    (he : ∀ s, exec i s = issue i s f) : Repeats (req ok i) := by
  cases ok with
  | false => exact repeats_error _
  | true => exact repeats_ok hd he

theorem repeats_decA (maj w : Nat) : Repeats (decA maj w) := by
  simp only [decA, decSint, decSint2, decVint, decVint2, decVint3, decVun, decPlog, decVf, decVfd, decVfh, decCtl]
  split
  case h_9 => exact repeats_ok (fun _ => rfl) fun _ => rfl
  all_goals first | exact repeats_unas | split
  all_goals first
    | exact repeats_unas
    | exact repeats_ok (fun _ => rfl) fun _ => rfl
    | exact repeats_req (fun _ => rfl) fun _ => rfl

/-- SAFE stands alone in its major (R31). -/
theorem repeats_decIL {maj : Nat} (w : Nat) (h : maj ≠ 0x1F) : Repeats (decIL maj w) := by
  simp only [decIL]
  split
  case h_6 => exact absurd rfl h
  all_goals first
    | exact repeats_unas
    | exact repeats_ok (fun _ => rfl) fun _ => rfl
    | exact repeats_req (fun _ => rfl) fun _ => rfl

theorem repeats_decU (maj w : Nat) : Repeats (decU maj w) := by
  simp only [decU, decVcvt, decSfu]
  split
  all_goals split
  all_goals first | exact repeats_unas | exact repeats_req (fun _ => rfl) fun _ => rfl

theorem repeats_decM (maj w : Nat) : Repeats (decM maj w) := by
  simp only [decM]
  split
  all_goals first | exact repeats_unas | exact repeats_req (fun _ => rfl) fun _ => rfl | split
  all_goals first | exact repeats_unas | exact repeats_req (fun _ => rfl) fun _ => rfl | split
  all_goals first | exact repeats_unas | exact repeats_req (fun _ => rfl) fun _ => rfl

/-- The majors that REP may repeat (R19): formats A, I, L, U and M but for CTL and SAFE. -/
def repeatableMajors : List Nat :=
  [0x00, 0x01, 0x02, 0x03, 0x04, 0x05, 0x08, 0x09, 0x0A, 0x0B, 0x0C, 0x0D, 0x0E, 0x0F, 0x10, 0x11, 0x12, 0x13, 0x14,
    0x15, 0x16, 0x20, 0x21, 0x22, 0x23, 0x24, 0x25, 0x26, 0x27, 0x28, 0x29, 0x2A, 0x2B, 0x2C]

/-- A repeat does what the word does, whatever its major. -/
theorem repeats_decodeWord {w : Nat} (hm : fld w 25 6 ∈ repeatableMajors) : Repeats (decodeWord w) := by
  have hI := repeats_decIL (maj := fld w 25 6) w
  unfold decodeWord
  dsimp only
  generalize fld w 25 6 = maj at hm hI ⊢
  fin_cases hm
  all_goals first
    | exact repeats_decA _ w
    | exact hI (by decide)
    | exact repeats_decU _ w
    | exact repeats_decM _ w

/-! ### The word REP (R18 to R20) -/

section Prefix
variable {s : State} {count mask sd sa sb : Nat}

theorem execRep_none (h : fetchWord s s.c s.w (s.iss.pc.toNat + 1) = none) :
    exec (.rep count mask sd sa sb) s = .next (noFetch s (s.iss.pc.toNat + 1)) := by
  rw [exec_rep]
  simp only [execRep, h]

theorem execRep_bad {w : Nat} {k : KillClass} (h : fetchWord s s.c s.w (s.iss.pc.toNat + 1) = some w)
    (hk : prefixCheck s.w.window ((encode (.rep count mask sd sa sb)).getD 0) w (decide (s.iss.words ≠ 1)) = some k) :
    exec (.rep count mask sd sa sb) s = .next (kill k s) := by
  rw [exec_rep]
  simp only [execRep, h, hk]

theorem execRep_begins {w : Nat} (h : fetchWord s s.c s.w (s.iss.pc.toNat + 1) = some w)
    (hk : prefixCheck s.w.window ((encode (.rep count mask sd sa sb)).getD 0) w (decide (s.iss.words ≠ 1)) = none) :
    exec (.rep count mask sd sa sb) s = .next (beginRepeat s (repWordOf count mask sd sa sb 0)) := by
  rw [exec_rep]
  simp only [execRep, h, hk]

end Prefix

/-! ### The issue of one repeat (R20, R107) -/

theorem settle_of_performed {s : State} (h : s.w.memq = []) : settle s = s := by simp [settle, h]

theorem countRepeat_next (u : State) :
    countRepeat (.next u) = .next (if u.iss.stall || u.w.finished then u else withWarp u (nextRepeat u.w)) := rfl

theorem all_mapIdx_of_eq {α β : Type} {p : β → Bool} {q : α → Bool} {f : Nat → α → β} (h : ∀ l a, p (f l a) = q a)
    (xs : List α) : (xs.mapIdx f).all p = xs.all q := by
  rw [Bool.eq_iff_iff, List.all_eq_true, List.all_eq_true, List.forall_mem_iff_forall_getElem,
    List.forall_mem_iff_forall_getElem]
  simp [h]

/-- Writing registers ends no warp. -/
theorem setV_finished (w : Warp) (m : LaneMask) (r : Nat) (f : Nat → Word) : (setV w m r f).finished = w.finished := by
  refine all_mapIdx_of_eq (fun l ln => ?_) w.lanes
  split <;> rfl

theorem setS_finished (w : Warp) (r : Nat) (x : Word) : (setS w r x).finished = w.finished := by
  unfold setS
  split <;> rfl

/-- The 11-bit immediate is sign-extended (R64). -/
theorem imm11_eq_signExtend (imm : Nat) : imm11 imm = (BitVec.ofNat 11 imm).signExtend 32 := by
  apply BitVec.eq_of_toNat_eq
  by_cases h : imm % 2048 < 1024
  · simp [imm11, w32, BitVec.toNat_signExtend, BitVec.msb_eq_decide, h, Nat.not_le.2 h]
  · simp [imm11, w32, BitVec.toNat_signExtend, BitVec.msb_eq_decide, h, Nat.not_lt.1 h]
    omega

/-! ### The lanes after a repeat -/

section NextRepeat
variable {w : Warp} (hr : ∃ ln ∈ w.lanes, ln.inRep = true ∧ ln.repk = none ∧ ln.st = .run)
include hr

/-- A lane still takes part in the repeat. -/
theorem joined_lane_left : (w.lanes.any fun ln => ln.joined && (ln.st == .run || ln.st == .waiting)) = true := by
  obtain ⟨ln, hm, hi, hk, hs⟩ := hr
  exact List.any_eq_true.2 ⟨ln, hm, by simp [Lane.joined, hi, hk, hs]⟩

theorem nextRepeat_counts (h : repK w + 1 < repCnt w) : nextRepeat w = bumpK w := by
  simp [nextRepeat, joined_lane_left hr, h]

/-- The last repeat ends the repeat where no lane of it waits (R107). -/
theorem nextRepeat_ends (h : repCnt w ≤ repK w + 1)
    (hw : ∀ ln ∈ w.lanes, ln.inRep = true → ln.repk = none → ln.st ≠ .waiting) : nextRepeat w = endRepeat (bumpK w) := by
  have hn : (w.lanes.any fun ln => ln.joined && ln.st == .waiting) = false := by
    simpa [Lane.joined] using hw
  simp [nextRepeat, joined_lane_left hr, Nat.not_lt.2 h, hn]

end NextRepeat

section Issue
variable {s : State} {w w' : Nat} {i : Instr} (hc : s.c.id ≠ 0) (hv : repV s.w = true) (hk : repK s.w < repCnt s.w)
  (hf : fetchWord s s.c s.w s.iss.pc.toNat = some w)
  (hw : repWord w (fld s.w.rep.toNat 16 3) (fld s.w.rep.toNat 14 2) (fld s.w.rep.toNat 12 2) (fld s.w.rep.toNat 10 2)
    (repK s.w) = some w') (hd : decodeWord w' = .ok i) (hr : regrange s.w.window i = false)
include hc hv hk hf hw hd hr

/-- A stepped word that decodes and is in range is checked against the open windows, then issues and counts. -/
theorem execRepeatIssue_word :
    exec .repeatIssue s = if breaches s.w i then .next (kill .lookahead s)
      else countRepeat (dispatchRepeatable i (if afterPerformed i then settle s else s)) := by
  rw [exec_repeatIssue]
  simp only [execRepeatIssue, hc, hv, Nat.not_le.2 hk, hf, hw, hd, hr, decide_false, Bool.not_true, Bool.or_self,
    Bool.false_eq_true, if_false]

/-- A repeatable word issues as itself, once what it waits for has been performed, and counts. -/
theorem execRepeatIssue_issues (hm : fld w' 25 6 ∈ repeatableMajors) (hq : s.w.memq = []) (hb : breaches s.w i = false) :
    ∃ u, exec i s = .next u ∧ exec .repeatIssue s = countRepeat (.next u) := by
  obtain ⟨f, hx⟩ := repeats_decodeWord hm i hd
  obtain ⟨u, hu⟩ := issue_total i s f
  refine ⟨u, (hx s).2.trans hu, ?_⟩
  rw [execRepeatIssue_word hc hv hk hf hw hd hr, hb, settle_of_performed hq, ite_self, (hx s).1, hu]
  rfl

/-- A register word that leaves its warp running acts and counts. -/
theorem execRepeatIssue_plain {f : State → State} (hi : ∀ s, dispatchRepeatable i s = issue i s f) (hm : majorOf i < 0x1D)
    (hb : breaches s.w i = false) (hst : (f s).iss.stall = false) (hfin : (f s).w.finished = false) :
    exec .repeatIssue s = .next (withWarp (f s) (nextRepeat (f s).w)) := by
  rw [execRepeatIssue_word hc hv hk hf hw hd hr, hb, afterPerformed_plain i (by omega), hi,
    if_neg Bool.false_ne_true, if_neg Bool.false_ne_true, issue_plain f (by omega) (by omega) hr, countRepeat_next, hst, hfin]
  rfl

end Issue

/-- Settles O47: the checks of REP, the issue of the stepped word through its own meaning, and the count of the repeats. -/
theorem repeatsIssueTheirSteppedWord : Obligations.RepeatsIssueTheirSteppedWord := by
  intro s count mask sd sa sb
  refine ⟨fun hn hh => ?_, fun hn hh => ?_, fun w hw => ⟨fun c => execRep_bad hw, fun hk => ?_⟩, ?_, ?_, fun w hr => ⟨?_, ?_⟩⟩
  · rw [execRep_none hn, noFetch, hh]
    rfl
  · rw [execRep_none hn, noFetch, hh]
    rfl
  · exact execRep_begins hw hk
  · intro hc hv hk w w' i hm hf hw hd hr hq
    refine ⟨fun hb => ?_, fun hb => ?_⟩
    · rw [execRepeatIssue_word hc hv hk hf hw hd hr, hb, if_pos rfl]
    · obtain ⟨u, hu, hx⟩ := execRepeatIssue_issues hc hv hk hf hw hd hr hm hq hb
      rw [countRepeat_next] at hx
      refine ⟨u, hu, fun hs hfin => ?_, fun h => ?_⟩
      · simpa [hs, hfin] using hx
      · rcases h with h | h <;> simpa [h] using hx
  · intro hc hv hk hfin hst w w' d a b imm u hf hw
    refine ⟨fun hd hdr har hb => ?_, fun hd hdr har hbr hb => ?_⟩
    · rw [← imm11_eq_signExtend]
      have hr : regrange s.w.window (.saddi d a imm) = false := by
        simp [regrange, us, uw, bad_s, hdr, har]
      exact execRepeatIssue_plain hc hv hk hf hw hd hr (f := fun s => wrS s d (rdS s.old a + imm11 imm)) (fun _ => rfl)
        (by simp) hb hst ((setS_finished ..).trans hfin)
    · have hr : regrange s.w.window (.vadd u d a b) = false := by
        cases u <;> simp_all [regrange, BInRange, bop, us, vs, vw, bad_s, bad_v]
      exact execRepeatIssue_plain hc hv hk hf hw hd hr (f := fun s => vop2 s u d a b (· + ·)) (fun _ => rfl)
        (by simp) hb hst ((setV_finished ..).trans hfin)
  · exact nextRepeat_counts hr
  · exact nextRepeat_ends hr

end Sys2Proof.Machine
end

section
/-! SUPPORT. The events that time brings to a core, and the choice of the warp that issues (R14, R16, R144, R170, R175, R297). -/

namespace Sys2Proof.Machine

/-! ### Results -/

/-- Reads of the weight store at the head of the queue are performed. -/
theorem performReads_wread {s : State} {c x : Nat} {w : Warp} {i l d sz sx ls ts rest} (hw : findWarp s c x = some w)
    (hq : w.memq = .wread i l d sz sx ls ts :: rest) : performReads s c x = performN s c x w.memq.length := by
  simp only [performReads, hw, hq]

theorem performReads_other {s : State} {c x : Nat}
    (h : ∀ w i l d sz sx ls ts rest, findWarp s c x = some w → w.memq ≠ .wread i l d sz sx ls ts :: rest) :
    performReads s c x = s := by
  unfold performReads
  split
  · rename_i w hw
    split
    · rename_i hq
      exact absurd hq (h w _ _ _ _ _ _ _ _ hw)
    · rfl
  · rfl

theorem modify_congr {α : Type} {f g : α → α} {xs : List α} {l : Nat} (h : ∀ a, xs[l]? = some a → f a = g a) :
    xs.modify l f = xs.modify l g := by
  apply List.ext_getElem?
  intro n
  rw [List.getElem?_modify, List.getElem?_modify]
  cases hn : xs[n]? with
  | none => rfl
  | some a =>
    by_cases e : l = n
    · simp [e, h a (e ▸ hn)]
    · simp [e]

theorem lane_of_getElem? {w : Warp} {l : Nat} {ln : Lane} (h : w.lanes[l]? = some ln) : w.lane l = ln := by
  simp [Warp.lane, List.getD_eq_getElem?_getD, h]

/-- A lane that runs takes the value. -/
theorem applyWrite_v_live {w : Warp} {l r : Nat} {x : Word} (h : (w.lane l).live = true) :
    applyWrite w (.v l r x) = { w with lanes := w.lanes.modify l fun ln => { ln with v := ln.v.set r x } } := by
  have hm : (w.lanes.modify l fun ln => if ln.live then { ln with v := ln.v.set r x } else ln) =
      w.lanes.modify l fun ln => { ln with v := ln.v.set r x } :=
    modify_congr fun ln hl => if_pos (lane_of_getElem? hl ▸ h)
  rw [applyWrite, hm]

/-- R77: a lane that has exited or was killed keeps its registers. -/
theorem applyWrite_v_dead {w : Warp} {l r : Nat} {x : Word} (h : (w.lane l).live = false) :
    applyWrite w (.v l r x) = w := by
  have hm : (w.lanes.modify l fun ln => if ln.live then { ln with v := ln.v.set r x } else ln) = w.lanes.modify l id :=
    modify_congr fun ln hl => if_neg (by simp [← lane_of_getElem? hl, h])
  rw [applyWrite, hm, List.modify_id]

/-- Writing registers moves no window. -/
theorem applyWrite_pend (w : Warp) (x : RegWrite) : (applyWrite w x).pend = w.pend := by
  cases x with
  | v l r x => rfl
  | p l r x => simp only [applyWrite, setP]; split <;> [split <;> rfl; rfl]
  | s r x => simp only [applyWrite, setS]; split <;> [rfl; split <;> rfl]

theorem foldl_applyWrite_pend (xs : List RegWrite) (w : Warp) : (xs.foldl applyWrite w).pend = w.pend := by
  induction xs generalizing w with
  | nil => rfl
  | cons x xs ih => rw [List.foldl_cons, ih, applyWrite_pend]

theorem deliver_ready {w : Warp} {p : Pend} (h : w.pend.find? (·.id == p.id) = some p) (hn : p.need = 0)
    (ho : p.open_ = false) (ha : p.arrived = false) :
    let u := p.writes.foldl applyWrite w
    deliver w p.id = { u with
      fpflags := u.fpflags ||| p.flags.setWidth 32
      pend := w.pend.map fun q => if q.id = p.id then { q with arrived := true, writes := [] } else q } := by
  simp only [deliver, h, Pend.ready, hn, ho, ha, arrive, foldl_applyWrite_pend]
  rfl

/-! ### Time -/

theorem updCore_updCore (s : State) (c : Nat) (f g : Core → Core) : updCore (updCore s c f) c g = updCore s c (g ∘ f) := by
  simp only [updCore, List.modify_modify_eq]

/-- Where no read of a weight store waits, a refresh window's start or end performs none. -/
theorem performReads_foldl {s : State}
    (h : ∀ c x w i l d sz sx ls ts rest, findWarp s c x = some w → w.memq ≠ .wread i l d sz sx ls ts :: rest) (n : Nat)
    (ks : List Crew) : (ks.foldl (fun t k => (List.range k.warps.length).foldl (fun t x => performReads t k.id x) t)
      { s with cycle := n }) = { s with cycle := n } :=
  List.foldl_fixed' (fun k : Crew => List.foldl_fixed' (fun x => performReads_other (s := { s with cycle := n }) (h k.id x)) _) ks

/-! ### The choice of a warp (R144) -/

/-- `a` is placed before `b`, or is no younger warp of what was placed with it. -/
def AsOld (a b : Ready) : Prop :=
  a.crew.placedAt < b.crew.placedAt ∨ a.crew.placedAt = b.crew.placedAt ∧ a.warp.idx ≤ b.warp.idx

theorem AsOld.trans {a b c : Ready} (h : AsOld a b) (h' : AsOld b c) : AsOld a c := by
  simp only [AsOld] at *; omega

theorem asOld_of_older {a b : Ready} (h : older a b = true) : AsOld a b := by
  simp only [older, Bool.or_eq_true, Bool.and_eq_true, decide_eq_true_eq, beq_iff_eq] at h
  simp only [AsOld]; omega

theorem asOld_of_not_older {a b : Ready} (h : ¬ older a b = true) : AsOld b a := by
  simp only [older, Bool.or_eq_true, Bool.and_eq_true, decide_eq_true_eq, beq_iff_eq] at h
  simp only [AsOld]; omega

/-- The older of the best so far and the next. -/
def olderOf (m : Option Ready) (r : Ready) : Option Ready :=
  match m with
  | some o => if older r o then some r else some o
  | none => some r

theorem oldest_eq (rs : List Ready) : oldest rs = rs.foldl olderOf none := rfl

/-- The older of two is one of them and as old as both. -/
theorem olderOf_some (o r : Ready) : ∃ m, olderOf (some o) r = some m ∧ (m = o ∨ m = r) ∧ AsOld m o ∧ AsOld m r := by
  by_cases h : older r o = true
  · exact ⟨r, by simp [olderOf, h], .inr rfl, asOld_of_older h, .inr ⟨rfl, le_rfl⟩⟩
  · exact ⟨o, by simp [olderOf, h], .inl rfl, .inr ⟨rfl, le_rfl⟩, asOld_of_not_older h⟩

theorem foldl_olderOf (rs : List Ready) (o : Ready) :
    ∃ m, rs.foldl olderOf (some o) = some m ∧ m ∈ o :: rs ∧ ∀ x ∈ o :: rs, AsOld m x := by
  induction rs generalizing o with
  | nil => exact ⟨o, rfl, by simp, by simp [AsOld]⟩
  | cons r rs ih =>
    obtain ⟨n, hn, hmem, ho, hr⟩ := olderOf_some o r
    obtain ⟨m, hm, hin, hold⟩ := ih n
    have hmn := hold n (by simp)
    refine ⟨m, by rw [List.foldl_cons, hn, hm], ?_, ?_⟩
    · rcases hmem with rfl | rfl <;> simp at hin ⊢ <;> tauto
    · simp only [List.forall_mem_cons] at hold ⊢
      exact ⟨hmn.trans ho, hmn.trans hr, hold.2⟩

/-- The oldest of some warps is one of them, and none of them is older. -/
theorem oldest_cons (r : Ready) (rs : List Ready) :
    ∃ m, oldest (r :: rs) = some m ∧ m ∈ r :: rs ∧ ∀ x ∈ r :: rs, AsOld m x := by
  rw [oldest_eq]
  exact foldl_olderOf rs r

theorem oldest_spec {rs : List Ready} {m : Ready} (h : oldest rs = some m) : m ∈ rs ∧ ∀ x ∈ rs, AsOld m x := by
  cases rs with
  | nil => cases h
  | cons r rs =>
    obtain ⟨n, hn, hmem, hold⟩ := oldest_cons r rs
    cases hn.symm.trans h
    exact ⟨hmem, hold⟩

/-- A warp whose next bundle is known to wait comes after the others. -/
theorem freeFirst_eq {rs xs : List Ready} (h : (∃ r ∈ xs, r.warp.held = false) ∧ rs = xs.filter (fun r => !r.warp.held) ∨
    (∀ r ∈ xs, r.warp.held = true) ∧ rs = xs) : freeFirst xs = rs := by
  unfold freeFirst
  rcases h with ⟨⟨r, hm, hr⟩, rfl⟩ | ⟨ha, rfl⟩
  · exact if_pos (List.any_eq_true.2 ⟨r, hm, by simp [hr]⟩)
  · exact if_neg (by simpa using ha)

section Choose
variable {s : State} {core : Nat} {rs : List Ready} (hf : freeFirst (readyWarps s core) = rs)
include hf

theorem chooseWarp_due (h : (rs.filter fun r => overdue s r.warp) ≠ []) :
    chooseWarp s core = oldest (rs.filter fun r => overdue s r.warp) := by
  obtain ⟨r, ts, hd⟩ := List.exists_cons_of_ne_nil h
  obtain ⟨m, hm, -⟩ := oldest_cons r ts
  simp only [chooseWarp, hf, hd, hm]

variable (h : (rs.filter fun r => overdue s r.warp) = [])
include h

theorem chooseWarp_last {r : Ready} (hl : (rs.find? fun r => (coreAt s core).last == some (r.crew.id, r.warp.idx)) = some r) :
    chooseWarp s core = some r := by
  simp only [chooseWarp, hf, h, hl, oldest, List.foldl_nil]

theorem chooseWarp_oldest (hl : (rs.find? fun r => (coreAt s core).last == some (r.crew.id, r.warp.idx)) = none) :
    chooseWarp s core = oldest rs := by
  simp only [chooseWarp, hf, h, hl, oldest, List.foldl_nil]

end Choose

/-- Settles O48: each event by its rule, and the choice of the warp that issues by the order of R144. -/
theorem coreEventsTakeEffect : Obligations.CoreEventsTakeEffect := by
  intro s hh
  refine ⟨fun c x id => ⟨fun w i l d sz sx ls ts rest hw hq => ?_, fun h => ?_⟩, fun w p => deliver_ready,
    fun w l r x => ⟨applyWrite_v_live, fun _ => applyWrite_v_dead, fun h => ?_, fun h => ?_⟩, fun core n cp h => ?_,
    fun die hd hst h => ?_, fun c x k r hk hr => ?_, fun core rs hrs => ?_, fun rs r => oldest_spec,
    fun c x w t hw ht => ?_⟩
  · rw [exec_resultArrives, execResultArrives, live_on _ hh, performReads_wread hw hq]
  · rw [exec_resultArrives, execResultArrives, live_on _ hh, performReads_other h]
  · simp [applyWrite, h]
  · simp [applyWrite, h]
  · rw [exec_leaseExpiry, execLeaseExpiry, live_on _ hh]
    simp only [h, raiseTime, updCore_updCore]
    rfl
  · have hn : ¬ ((dieAt s die).st = .fenced ∨ Config.dies ≤ die) := not_or.2 ⟨hst, Nat.not_le.2 hd⟩
    rw [exec_wsRefreshWindow, execWsRefreshWindow, live_on _ hh, if_neg hn]
    exact congrArg _ (performReads_foldl h _ _)
  · rw [exec_issueAgePromotion, execIssueAgePromotion, live_on _ hh, promoteWarp, hk]
    simp only [Option.bind_some, hr]
  · have hf := freeFirst_eq hrs
    refine ⟨chooseWarp_due hf, fun hn hl => ?_, chooseWarp_oldest hf⟩
    obtain ⟨r, hr⟩ := Option.isSome_iff_exists.1 hl
    rw [chooseWarp_last hf hn hr, hr]
  · rw [exec_sleepExpiry, execSleepExpiry, live_on _ hh, hw]
    simp only [Option.bind_some, ht]

end Sys2Proof.Machine
end

section
/-! SUPPORT. The Sluice's events: placement, saving, restoring and time slices (R121, R137, R138, R282, R283, R287, R312). -/

namespace Sys2Proof.Machine

/-! ### Placement and restoring -/

section Place
variable {s : State} {bay i core : Nat} {q : QCrew} (hsv : (bayAt s bay).service = []) (hq : headCrew s bay = some (i, q))

section Fits
variable (hc : (offerOrder s bay).find? (fun x => fits s x (needOf s q)) = some core)
include hsv hq hc

/-- A crew that was not saved starts on the first core that passes. -/
theorem placeCrew_starts (h : q.saved = none) : placeCrew s bay = startCrew
    (updBay s bay fun b => { b with queue := b.queue.eraseIdx i }) core
    (parseLaunch (((findLaunch s q.launch).map (·.desc)).getD [])) q.launch q.vf q.crewIdx q.tile false := by
  simp only [placeCrew, hsv, hq, hc, h, Option.isSome_none, Bool.false_eq_true, if_false]

theorem placeCrew_restores (h : q.saved ≠ none) : placeCrew s bay = restoreNow s bay i core := by
  simp only [placeCrew, hsv, hq, hc, Option.isSome_iff_ne_none.2 h, if_true]

theorem crewRestore_restores {k : Crew} (h : q.saved = some k) (hb : bay = bayOfCore core) :
    crewRestore s k.id core = restoreNow s bay i core := by
  subst hb
  simp [crewRestore, hsv, hq, hc, h]

end Fits

include hsv hq in
/-- Where no core passes, crews of lower priority are asked to leave (R140). -/
theorem placeCrew_preempts (hl : q.launch ≠ 0) (hc : (offerOrder s bay).find? (fun x => fits s x (needOf s q)) = none) :
    placeCrew s bay = preempt s bay (prioOf s q.launch) (needOf s q) := by
  simp only [placeCrew, hsv, hq, hc, hl, if_false]

end Place

/-! ### A warp as it starts -/

section NewWarp
variable (d : LDesc) (slot idx priv cycle : Nat)

/-- ARGS stand in s1 and s2, and every other uniform register is 0 (R121). -/
theorem rdS_newWarp (r : Nat) : rdS (newWarp d slot idx priv cycle) r =
    if r = 1 then w32 d.args else if r = 2 then w32 (d.args / 2 ^ 32) else 0 := by
  match r with
  | 0 | 1 | 2 => rfl
  | n + 3 =>
    show List.getD _ _ _ = _
    rw [if_neg (by omega), if_neg (by omega), newWarp, List.getD_eq_getElem?_getD, List.getElem?_set_ne (by omega),
      List.getElem?_set_ne (by omega), List.getElem?_getD_replicate_default_eq]

theorem lane_newWarp {l : Nat} (h : l < 64) :
    (newWarp d slot idx priv cycle).lane l = { pc := w32 d.entry, v := List.replicate d.regs 0 } :=
  List.getD_replicate _ h

theorem rdV_newWarp (r : Nat) {l : Nat} (h : l < 64) : rdV (newWarp d slot idx priv cycle) r l = 0 := by
  rw [rdV, lane_newWarp _ _ _ _ _ h, List.getD_eq_getElem?_getD, List.getElem?_getD_replicate_default_eq]

theorem rdP_newWarp {r : Nat} (hr : 1 ≤ r) {l : Nat} (h : l < 64) : rdP (newWarp d slot idx priv cycle) r l = false := by
  simp [rdP, lane_newWarp _ _ _ _ _ h, Nat.ne_of_gt hr]

end NewWarp

/-! ### Saving -/

section Save
variable {s : State} {c : Nat} {k : Crew} (hk : s.crews.find? (·.id == c) = some k)
include hk

/-- A crew whose warps have not all stopped stays. -/
theorem crewSave_notReady (h : saveReady s k = false) : crewSave s c = s := by
  simp only [crewSave, hk, h, Bool.not_false, if_true]

/-- R284: without room in the context area the crew runs on, and the save is asked for again later. -/
theorem crewSave_noRoom (h : saveReady s k = true) (hr : ctxRoom s k = false) :
    crewSave s c = updCrew s c fun k => { k with
      saveReq := none, saveDue := k.saveReq, warps := k.warps.map fun w => { w with stopped := none, sinceReq := 0 } } := by
  simp only [crewSave, hk, h, hr, Bool.not_true, Bool.false_eq_true, if_false]

theorem crewSave_room (h : saveReady s k = true) (hr : ctxRoom s k = true) : crewSave s c =
    if ctxHeld s k.vf k.core (ctxPages s k.vf (ctxNeed k)) then s else saveCrewNow s k := by
  simp only [crewSave, hk, h, hr, Bool.not_true, Bool.false_eq_true, if_false, if_true]

end Save

theorem saveLimit_stops {s : State} {c x : Nat} {k : Crew} {w : Warp} (hk : findCrew s c = some k)
    (hw : findWarp s c x = some w) (hr : k.saveReq ≠ none) (hs : w.stopped = none) (hn : 4096 ≤ w.sinceReq) :
    saveLimit s c x = updWarp s c x fun w => { w with stopped := some .full } := by
  simp [saveLimit, hk, hw, Option.isSome_iff_ne_none.2 hr, hs, hn]

/-- Settles O50: each event of the Sluice by its rule, and the registers of a new warp. -/
theorem crewEventsTakeEffect : Obligations.CrewEventsTakeEffect := by
  intro s hh
  refine ⟨fun bay i q core hsv hq hc => ⟨fun h => ?_, fun h => ?_, fun k h hb => ?_⟩, fun bay i q hsv hq hl hc => ?_,
    fun d slot idx cycle => ?_, fun c k hk => ?_, fun c x k w hk hw hr hs hn => ?_, fun h => ?_, fun v t h => ?_⟩
  · rw [exec_sluicePlaceCrew, execSluicePlaceCrew, live_on _ hh, placeCrew_starts hsv hq hc h]
  · rw [exec_sluicePlaceCrew, execSluicePlaceCrew, live_on _ hh, placeCrew_restores hsv hq hc h]
  · rw [exec_crewRestore, execCrewRestore, live_on _ hh, crewRestore_restores hsv hq hc h hb]
  · rw [exec_sluicePlaceCrew, execSluicePlaceCrew, live_on _ hh, placeCrew_preempts hsv hq hl hc]
  · refine ⟨rfl, List.length_replicate, rdS_newWarp .., rdS_newWarp .., fun r _ h1 h2 => ?_, rfl, rfl, rfl,
      fun l hl => ⟨?_, ?_, fun r => rdV_newWarp _ _ _ _ _ r hl, ?_, fun r hr => rdP_newWarp _ _ _ _ _ hr hl⟩⟩
    · rw [rdS_newWarp, if_neg h1, if_neg h2]
    all_goals rw [lane_newWarp _ _ _ _ _ hl]
    · rfl
    · exact List.length_replicate
  · rw [exec_crewSave, execCrewSave, live_on _ hh]
    refine ⟨fun h hr hf => ?_, fun h hr hf => ?_, fun h hr => ?_, fun h => ?_⟩
    · rw [crewSave_room hk h hr, hf, if_neg Bool.false_ne_true]
    · rw [crewSave_room hk h hr, hf, if_pos rfl]
    · rw [crewSave_noRoom hk h hr]
    · rw [crewSave_notReady hk h]
  · rw [exec_saveBundleLimit, execSaveBundleLimit, live_on _ hh, saveLimit_stops hk hw hr hs hn]
  · rw [exec_timeSliceEnd, execTimeSliceEnd, live_on _ hh]
    simp only [sliceEnd, h]
  · rw [exec_timeSliceEnd, execTimeSliceEnd, live_on _ hh]
    simp only [sliceEnd, h]
    rfl

end Sys2Proof.Machine
end

section
/-! SUPPORT. Operations on NaNs, and the invalid operations (R44). -/

namespace Sys2Proof.Machine

/-! ### Decoding of the top exponent -/

/-- A code is a NaN of an IEEE format, and a signalling one (R44). -/
def IsNaN (f : Fmt) (x : Nat) : Prop := x / 2 ^ f.fb % 2 ^ f.eb = 2 ^ f.eb - 1 ∧ x % 2 ^ f.fb ≠ 0
def IsSNaN (f : Fmt) (x : Nat) : Prop := IsNaN f x ∧ x % 2 ^ f.fb < 2 ^ (f.fb - 1)

section Ieee
variable {f : Fmt} (hk : f.kind = .ieee) (he : 0 < f.eb) {ftz : Bool} {x y : Nat}

include he in
/-- FTZ changes subnormals alone (R45). -/
theorem decodeFtz_of_top (h : x / 2 ^ f.fb % 2 ^ f.eb = 2 ^ f.eb - 1) : f.decodeFtz ftz x = f.decode x := by
  have : 2 ^ f.eb - 1 ≠ 0 := Nat.sub_ne_zero_of_lt (Nat.one_lt_two_pow he.ne')
  simp [Fmt.decodeFtz, h, this]

include hk he

theorem decodeFtz_nan (h : IsNaN f x) : f.decodeFtz ftz x = .nan (x % 2 ^ f.fb < 2 ^ (f.fb - 1)) := by
  rw [decodeFtz_of_top he h.1]
  simp [Fmt.decode, hk, h.1, h.2]

theorem decodeFtz_inf (h : x / 2 ^ f.fb % 2 ^ f.eb = 2 ^ f.eb - 1) (h0 : x % 2 ^ f.fb = 0) :
    f.decodeFtz ftz x = .inf (x / 2 ^ (f.eb + f.fb) % 2 == 1) := by
  rw [decodeFtz_of_top he h]
  simp [Fmt.decode, hk, h, h0]

omit he in
/-- A code that is no NaN decodes to none. -/
theorem isNan_decodeFtz_of_not (h : ¬ IsNaN f x) : (f.decodeFtz ftz x).isNan = false := by
  unfold Fmt.decodeFtz Fmt.decode
  split
  · rfl
  · simp only [hk]
    by_cases ht : x / 2 ^ f.fb % 2 ^ f.eb = 2 ^ f.eb - 1
    · have h0 : x % 2 ^ f.fb = 0 := by_contra fun h0 => h ⟨ht, h0⟩
      simp [ht, h0, Num.isNan]
    · simp only [beq_eq_false_iff_ne.2 ht]
      split <;> [simp_all; (split <;> rfl)]

theorem sig_of_sNaN (h : IsSNaN f x) : (f.decodeFtz ftz x).sig = flNV := by
  rw [decodeFtz_nan hk he h.1, decide_eq_true h.2]; rfl

theorem sig_of_not_sNaN (h : ¬ IsSNaN f x) : (f.decodeFtz ftz x).sig = 0 := by
  by_cases hn : IsNaN f x
  · rw [decodeFtz_nan hk he hn, decide_eq_false fun hs => h ⟨hn, hs⟩]; rfl
  · have := isNan_decodeFtz_of_not (ftz := ftz) hk hn
    cases hd : f.decodeFtz ftz x <;> simp_all [Num.isNan, Num.sig]

theorem isNan_decodeFtz (h : IsNaN f x) : (f.decodeFtz ftz x).isNan = true := by
  rw [decodeFtz_nan hk he h]; rfl

theorem decodeFtz_infCode : f.decodeFtz ftz f.infCode = .inf false := by
  have h1 : (1 : Nat) < 2 ^ f.eb := Nat.one_lt_two_pow he.ne'
  have hd : f.infCode / 2 ^ f.fb = 2 ^ f.eb - 1 := Nat.mul_div_cancel _ (by positivity)
  have hs : f.infCode / 2 ^ (f.eb + f.fb) = 0 := by
    rw [Nat.add_comm, Nat.pow_add, ← Nat.div_div_eq_div_mul, hd]
    exact Nat.div_eq_of_lt (by omega)
  have ht : f.infCode / 2 ^ f.fb % 2 ^ f.eb = 2 ^ f.eb - 1 := by rw [hd]; exact Nat.mod_eq_of_lt (by omega)
  rw [decodeFtz_inf hk he ht (Nat.mul_mod_left ..), hs]
  rfl

theorem decodeFtz_zero : ∃ e, f.decodeFtz ftz 0 = .fin false 0 e := by
  have ht : ((0 : Nat) == 2 ^ f.eb - 1) = false := beq_eq_false_iff_ne.2 (by have := Nat.one_lt_two_pow he.ne'; omega)
  cases ftz <;> simp [Fmt.decodeFtz, Fmt.decode, hk, ht]

omit he in
/-- The canonical NaN is quiet. -/
theorem not_isSNaN_nanCode : ¬ IsSNaN f f.nanCode := by
  rintro ⟨⟨-, h0⟩, h⟩
  simp only [Fmt.nanCode, hk, Nat.mul_add_mod_self_right] at h0 h
  by_cases hf : f.fb = 0
  · simp [hf] at h0
  · rw [Nat.mod_eq_of_lt (Nat.pow_lt_pow_right (by omega) (by omega))] at h
    omega

end Ieee

/-! ### Operations on a NaN -/

theorem isNan_neg (a : Num) : a.neg.isNan = a.isNan := by cases a <;> rfl
/-- The flags of an operand are at most NV. -/
theorem flNV_or_sig (a : Num) : flNV ||| a.sig = flNV := by
  rcases a with (_ | _) | _ | _ <;> simp [Num.sig]
theorem sig_neg (a : Num) : a.neg.sig = a.sig := by rcases a with (_ | _) | _ | _ <;> rfl

theorem add_nan {a b : Num} (h : a.isNan = true ∨ b.isNan = true) (rm : Nat) : a.add rm b = (.nan false, a.sig ||| b.sig) := by
  cases a <;> cases b <;> simp_all [Num.isNan, Num.add]

theorem mul_nan {a b : Num} (h : a.isNan = true ∨ b.isNan = true) : a.mul b = (.nan false, a.sig ||| b.sig) := by
  cases a <;> cases b <;> simp_all [Num.isNan, Num.mul]

/-- Every sum, difference, product and absolute difference with a NaN is the canonical NaN, with NV of its operands. -/
theorem ops_nan {f : Fmt} {x y : Nat} {ftz : Bool} (h : (f.decodeFtz ftz x).isNan = true ∨ (f.decodeFtz ftz y).isNan = true)
    (rm : Nat) : ∀ op ∈ [f.add rm ftz, f.sub rm ftz, f.mul rm ftz, f.absdiff rm ftz],
      op x y = (f.nanCode, (f.decodeFtz ftz x).sig ||| (f.decodeFtz ftz y).sig) := by
  have hn : (f.decodeFtz ftz x).isNan = true ∨ (f.decodeFtz ftz y).neg.isNan = true := by rwa [isNan_neg]
  simp only [List.forall_mem_cons, Fmt.add, Fmt.sub, Fmt.mul, Fmt.absdiff, add_nan h, add_nan hn, mul_nan h, sig_neg, Num.abs,
    Fmt.round]
  simp

/-- Settles O15: a NaN operand reaches every result, an operand's NV is that of a signalling NaN, and the invalid
operations are evaluated on the codes of infinity and zero. -/
theorem naNResultsAreCanonical : Obligations.NaNResultsAreCanonical := by
  intro p hp f isNaN sNaN inf rm x y ftz
  have hf : f.kind = .ieee ∧ 0 < f.eb ∧ f.nanCode = p.2 := by
    simp only [List.mem_cons, List.not_mem_nil, or_false] at hp
    rcases hp with rfl | rfl | rfl | rfl <;> decide
  obtain ⟨hk, he, hc⟩ := hf
  refine ⟨fun hn op hop => ?_, ?_⟩
  · have hnan : (f.decodeFtz ftz x).isNan = true ∨ (f.decodeFtz ftz y).isNan = true :=
      hn.imp (isNan_decodeFtz hk he) (isNan_decodeFtz hk he)
    rw [ops_nan hnan rm op hop]
    refine ⟨hc, fun hs => ?_, fun (hx : ¬ IsSNaN f x) (hy : ¬ IsSNaN f y) => ?_⟩
    · rcases hs with hs | hs
      · rw [sig_of_sNaN hk he hs, flNV_or_sig]
      · rw [sig_of_sNaN hk he hs, BitVec.or_comm, flNV_or_sig]
    · rw [sig_of_not_sNaN hk he hx, sig_of_not_sNaN hk he hy]; rfl
  · have hi : f.decodeFtz ftz inf = .inf false := decodeFtz_infCode hk he
    obtain ⟨e, hz⟩ := decodeFtz_zero (ftz := ftz) hk he
    have hs : (f.decodeFtz ftz p.2).sig = 0 := hc ▸ sig_of_not_sNaN hk he (not_isSNaN_nanCode hk)
    refine ⟨?_, ?_, ?_⟩
    · simp [Fmt.sub, hi, Num.neg, Num.add, Fmt.round, hc]
    · simp [Fmt.mul, hi, hz, Num.mul, Fmt.round, hc]
    · have hm : (Num.fin false 0 e).mul (.inf false) = (.nan false, flNV) := rfl
      rw [Fmt.fma, hi, hz, Num.fma, hm, add_nan (.inl rfl), hs]
      simp [Num.sig, Fmt.round, hc]

end Sys2Proof.Machine
end

section
/-! SUPPORT. Correct rounding: codes as values, the multiple that a rounding gives, and exact sums and products (R40, R43 to R46). -/

namespace Sys2Proof.Machine

/-! ### Codes in the order of their values (R43) -/

/-- The last place of a code or a rounding is positive, among the rationals. -/
theorem two_zpow_pos (x : ℤ) : (0 : ℚ) < 2 ^ x := zpow_pos two_pos x

/-- Code `n × 2^fb + r` is the `r`-th multiple of the last place of exponent field `n + 1`, or of the subnormals. -/
theorem magOf_eq (f : Fmt) {n r : Nat} (hn : n = 0 ∨ 2 ^ f.fb ≤ r) (hr : r ≤ 2 ^ (f.fb + 1)) :
    magOf f (n * 2 ^ f.fb + r) = r * 2 ^ (f.emin + n) := by
  have hp : 0 < 2 ^ f.fb := by positivity
  have he : (2 : ℚ) ^ (f.emin + n) = 2 ^ (((n + 1 : Nat) : ℤ) - f.bias - f.fb) := by
    congr 1; simp only [Fmt.emin]; push_cast; ring
  rcases lt_trichotomy r (2 ^ (f.fb + 1)) with h | h | h
  · by_cases hs : r < 2 ^ f.fb
    · obtain rfl : n = 0 := by omega
      simp [magOf, Nat.div_eq_of_lt hs, Fmt.emin]
    · obtain ⟨t, rfl⟩ := Nat.exists_eq_add_of_le (Nat.not_lt.1 hs)
      have ht : t < 2 ^ f.fb := by rw [pow_succ] at h; omega
      have hc : n * 2 ^ f.fb + (2 ^ f.fb + t) = t + (n + 1) * 2 ^ f.fb := by ring
      rw [hc, he]
      simp only [magOf, Nat.add_mul_div_right _ _ hp, Nat.div_eq_of_lt ht, Nat.add_mul_mod_self_right, Nat.mod_eq_of_lt ht]
      simp
  · have hc : n * 2 ^ f.fb + r = (n + 2) * 2 ^ f.fb := by rw [h, pow_succ]; ring
    have hz : (2 : ℚ) ^ (((n + 2 : Nat) : ℤ) - f.bias - f.fb) = 2 ^ (((n + 1 : Nat) : ℤ) - f.bias - f.fb) * 2 := by
      rw [← zpow_add_one₀ two_ne_zero]; congr 1; push_cast; ring
    rw [hc, he, h]
    simp only [magOf, Nat.mul_div_cancel _ hp, Nat.mul_mod_left]
    rw [if_neg (by omega), hz]
    push_cast
    ring
  · omega

/-- Every code is such a multiple, with a next one. -/
theorem exists_code (f : Fmt) (c : Nat) : ∃ n r, c = n * 2 ^ f.fb + r ∧ (n = 0 ∨ 2 ^ f.fb ≤ r) ∧ r + 1 ≤ 2 ^ (f.fb + 1) := by
  have hd := Nat.div_add_mod' c (2 ^ f.fb)
  have hl : c % 2 ^ f.fb < 2 ^ f.fb := Nat.mod_lt _ (by positivity)
  rw [pow_succ]
  rcases Nat.eq_zero_or_pos (c / 2 ^ f.fb) with h | h
  · exact ⟨0, c, by simp, .inl rfl, by rw [h] at hd; omega⟩
  · obtain ⟨n, hn⟩ := Nat.exists_eq_succ_of_ne_zero h.ne'
    refine ⟨n, 2 ^ f.fb + c % 2 ^ f.fb, ?_, .inr (Nat.le_add_right ..), by omega⟩
    rw [hn, Nat.succ_mul] at hd
    omega

theorem magOf_lt_succ (f : Fmt) (c : Nat) : magOf f c < magOf f (c + 1) := by
  obtain ⟨n, r, rfl, hn, hr⟩ := exists_code f c
  rw [magOf_eq f hn (by omega), Nat.add_assoc, magOf_eq f (by omega) hr]
  push_cast
  exact mul_lt_mul_of_pos_right (lt_add_one _) (two_zpow_pos _)

/-! ### Rounding to a multiple (R40) -/

/-- A mode takes the upper of two neighbours `lo` and `hi` for a value `a` between them; `q` tells whether the lower is even. -/
def TakesUpper (rm : Nat) (neg : Bool) (q : Nat) (lo hi a : ℚ) : Prop :=
  if rm = 0 then lo + hi < 2 * a ∨ (2 * a = lo + hi ∧ q % 2 = 1) else towardZero rm neg = false ∧ lo < a

/-- `r` is the multiple of a step that a mode gives for `a`, of the neighbours `q` and `q + 1`. -/
def RoundsStep (rm : Nat) (neg : Bool) (step a : ℚ) (q r : Nat) : Prop :=
  q * step ≤ a ∧ a < (q + 1) * step ∧
    (r = q ∧ ¬ TakesUpper rm neg q (q * step) ((q + 1) * step) a ∨ r = q + 1 ∧ TakesUpper rm neg q (q * step) ((q + 1) * step) a)

theorem roundUp_exact (rm : Nat) (neg : Bool) (q k : Nat) : roundUp rm neg q 0 k = false := by
  have := (Nat.two_pow_pos k).ne
  unfold roundUp
  split <;> simp [this]

/-- `roundAt` by quotient and remainder, also where nothing is dropped. -/
theorem roundAt_eq {rm m k : Nat} {neg : Bool} {e x : ℤ} (h : x - e = k) : roundAt rm neg m e x =
    (if roundUp rm neg (m / 2 ^ k) (m % 2 ^ k) k then m / 2 ^ k + 1 else m / 2 ^ k, m % 2 ^ k != 0) := by
  unfold roundAt
  split
  · obtain rfl : k = 0 := by omega
    obtain rfl : e = x := by omega
    simp [Nat.mod_one, roundUp_exact]
  · have hk : (x - e).toNat = k := by omega
    simp only [hk]

theorem roundUp_iff {rm q r k : Nat} {neg : Bool} (hrm : rm < 4) {s : ℚ} (hs : 0 < s) : roundUp rm neg q r k = true ↔
    TakesUpper rm neg q (q * (2 ^ k * s)) ((q + 1) * (2 ^ k * s)) ((q * 2 ^ k + r : Nat) * s) := by
  have hr : (q : ℚ) * (2 ^ k * s) < ((q * 2 ^ k + r : Nat) : ℚ) * s ↔ r ≠ 0 := by
    rw [← mul_assoc, mul_lt_mul_iff_left₀ hs]
    norm_cast
    omega
  have hd : 2 * (((q * 2 ^ k + r : Nat) : ℚ) * s) - ((q : ℚ) * (2 ^ k * s) + (q + 1) * (2 ^ k * s)) =
      (((2 * r : Nat) : ℚ) - (2 ^ k : Nat)) * s := by push_cast; ring
  have h0 : (q : ℚ) * (2 ^ k * s) + (q + 1) * (2 ^ k * s) < 2 * (((q * 2 ^ k + r : Nat) : ℚ) * s) ↔ 2 ^ k < 2 * r := by
    rw [← sub_pos, hd, mul_pos_iff_of_pos_right hs, sub_pos, Nat.cast_lt]
  have h1 : 2 * (((q * 2 ^ k + r : Nat) : ℚ) * s) = (q : ℚ) * (2 ^ k * s) + (q + 1) * (2 ^ k * s) ↔ 2 * r = 2 ^ k := by
    rw [← sub_eq_zero, hd, mul_eq_zero, or_iff_left hs.ne', sub_eq_zero, Nat.cast_inj]
  unfold TakesUpper
  rw [hr, h0, h1]
  interval_cases rm <;> cases neg <;> simp [roundUp, towardZero]

/-- An exponent above the step's is the step's, of more units. -/
theorem roundAt_align {rm m : Nat} {neg : Bool} {e x : ℤ} (h : x ≤ e) :
    roundAt rm neg m e x = roundAt rm neg (m * 2 ^ (e - x).toNat) x x := by simp [roundAt, h]

theorem align_value {e x : ℤ} (h : x ≤ e) (m : ℚ) : m * 2 ^ (e - x).toNat * 2 ^ x = m * 2 ^ e := by
  rw [mul_assoc, ← zpow_natCast, ← zpow_add₀ two_ne_zero, Int.toNat_of_nonneg (by omega), sub_add_cancel]

/-- Rounding to a multiple of a step gives a neighbour as the mode says, and tells whether the value is one itself. -/
theorem roundAt_roundsStep {rm : Nat} (hrm : rm < 4) (neg : Bool) (m : Nat) (e x : ℤ) : ∃ q,
    RoundsStep rm neg (2 ^ x) (m * 2 ^ e) q (roundAt rm neg m e x).1 ∧
      ((roundAt rm neg m e x).2 = true ↔ (m : ℚ) * 2 ^ e ≠ q * 2 ^ x) := by
  wlog h : e ≤ x generalizing m e with hwlog
  · have h : x ≤ e := by omega
    rw [roundAt_align h, ← align_value h]
    exact_mod_cast hwlog (m * 2 ^ (e - x).toNat) x le_rfl
  obtain ⟨k, hk⟩ := Int.eq_ofNat_of_zero_le (sub_nonneg.2 h)
  have hs := two_zpow_pos e
  have hx : (2 : ℚ) ^ x = 2 ^ k * 2 ^ e := by rw [← zpow_natCast, ← zpow_add₀ two_ne_zero]; congr 1; omega
  have hm : m / 2 ^ k * 2 ^ k + m % 2 ^ k = m := Nat.div_add_mod' ..
  have hr : m % 2 ^ k < 2 ^ k := Nat.mod_lt _ (by positivity)
  rw [roundAt_eq hk, hx]
  generalize m / 2 ^ k = q at *
  generalize m % 2 ^ k = r at *
  subst hm
  have hup := roundUp_iff (q := q) (r := r) (k := k) (neg := neg) hrm hs
  refine ⟨q, ⟨?_, ?_, ?_⟩, ?_⟩
  · rw [← mul_assoc, mul_le_mul_iff_left₀ hs]; norm_cast; omega
  · rw [← mul_assoc, mul_lt_mul_iff_left₀ hs]; norm_cast; rw [Nat.succ_mul]; omega
  · split
    · exact .inr ⟨rfl, hup.1 ‹_›⟩
    · exact .inl ⟨rfl, fun h => ‹¬ _› (hup.2 h)⟩
  · rw [bne_iff_ne, ne_eq, ne_eq, ← mul_assoc, mul_left_inj' hs.ne']
    norm_cast
    omega

section Step
variable {rm : Nat} {neg : Bool} {step a : ℚ} {q r : Nat}

/-- A neighbour that is the value itself is taken. -/
theorem not_takesUpper_lower {lo hi : ℚ} (h : lo < hi) : ¬ TakesUpper rm neg q lo hi lo := by
  unfold TakesUpper
  split
  · rintro (h' | ⟨h', -⟩) <;> linarith
  · exact fun h' => lt_irrefl _ h'.2

theorem RoundsStep.exact_iff (h : RoundsStep rm neg step a q r) : a = q * step ↔ a = r * step := by
  obtain ⟨hl, hh, ⟨rfl, -⟩ | ⟨rfl, hu⟩⟩ := h
  · exact Iff.rfl
  · push_cast
    refine ⟨fun e => absurd hu ?_, fun e => absurd hh (by rw [e]; exact lt_irrefl _)⟩
    rw [e] at hh hu ⊢
    exact not_takesUpper_lower hh

theorem RoundsStep.le_succ (h : RoundsStep rm neg step a q r) : q ≤ r ∧ r ≤ q + 1 := by
  rcases h.2.2 with ⟨h, -⟩ | ⟨h, -⟩ <;> omega

theorem RoundsStep.lt_of_lt {N : Nat} (h : RoundsStep rm neg step a q r) (hs : 0 < step) (ha : a < N * step) : q < N := by
  exact_mod_cast lt_of_mul_lt_mul_right (h.1.trans_lt ha) hs.le

theorem RoundsStep.le_of_le {N : Nat} (h : RoundsStep rm neg step a q r) (hs : 0 < step) (ha : N * step ≤ a) : N ≤ q := by
  have := lt_of_mul_lt_mul_right (ha.trans_lt h.2.1) hs.le
  exact Nat.lt_succ_iff.1 (by exact_mod_cast this)

end Step

/-! ### The rounded code -/

section Code
variable {f : Fmt} {rm : Nat} {neg : Bool} {a : ℚ} {n q r c c' : Nat}

/-- Of two neighbouring codes a mode takes one. -/
theorem roundsTo_of_neighbours (hl : magOf f c ≤ a) (hh : a < magOf f (c + 1))
    (h : c' = c ∧ ¬ TakesUpper rm neg c (magOf f c) (magOf f (c + 1)) a ∨
      c' = c + 1 ∧ TakesUpper rm neg c (magOf f c) (magOf f (c + 1)) a) : RoundsTo f rm neg a c' := by
  have below (hc : c ≠ 0) : magOf f (c - 1) < magOf f c := by
    have := magOf_lt_succ f (c - 1)
    rwa [Nat.sub_add_cancel (Nat.pos_of_ne_zero hc)] at this
  have above := magOf_lt_succ f (c + 1)
  unfold RoundsTo TakesUpper at *
  rcases h with ⟨rfl, h⟩ | ⟨rfl, h⟩
  · by_cases hrm : rm = 0
    · simp only [hrm, if_true, not_or, not_lt, not_and] at h ⊢
      refine ⟨by linarith, fun e => by have := h.2 e; omega, fun hc => ⟨?_, fun e => ?_⟩⟩ <;> linarith [below hc]
    · simp only [hrm, if_false] at h ⊢
      cases ht : towardZero rm neg
      · have ha : a = magOf f c' := le_antisymm (not_lt.1 fun h' => h ⟨ht, h'⟩) hl
        exact ⟨ha.le, fun hc => by rw [ha]; exact below hc⟩
      · exact ⟨hl, hh⟩
  · by_cases hrm : rm = 0
    · simp only [hrm, if_true, Nat.add_sub_cancel] at h ⊢
      have h2 : magOf f c + magOf f (c + 1) ≤ 2 * a := h.elim le_of_lt fun h => h.1.ge
      refine ⟨by linarith, fun e => by linarith, fun _ => ⟨h2, fun e => ?_⟩⟩
      rcases h with h | h
      · exact absurd e h.ne
      · omega
    · simp only [hrm, if_false] at h ⊢
      rw [h.1]
      exact ⟨hh.le, fun _ => h.2⟩

/-- Rounding to the last place of a code rounds to a code. -/
theorem RoundsStep.roundsTo (hf : 0 < f.fb) (hn : n = 0 ∨ 2 ^ f.fb ≤ q) (hq : q < 2 ^ (f.fb + 1))
    (h : RoundsStep rm neg (2 ^ (f.emin + n)) a q r) : RoundsTo f rm neg a (n * 2 ^ f.fb + r) ∧
      (a = q * 2 ^ (f.emin + n) ↔ magOf f (n * 2 ^ f.fb + r) = a) := by
  have hle := h.le_succ
  have h0 := magOf_eq f hn hq.le
  have h1 : magOf f (n * 2 ^ f.fb + q + 1) = (q + 1) * 2 ^ (f.emin + n) := by
    rw [Nat.add_assoc, magOf_eq f (by omega) hq]
    push_cast
    rfl
  have hpar : (n * 2 ^ f.fb + q) % 2 = q % 2 := by
    obtain ⟨b, hb⟩ := Nat.exists_eq_succ_of_ne_zero hf.ne'
    rw [hb, pow_succ, ← mul_assoc]
    omega
  refine ⟨?_, ?_⟩
  · obtain ⟨hl, hh, ho⟩ := h
    refine roundsTo_of_neighbours (c := n * 2 ^ f.fb + q) (by rwa [h0]) (by rwa [h1]) ?_
    rw [h0, h1]
    have hu : TakesUpper rm neg (n * 2 ^ f.fb + q) = TakesUpper rm neg q := by unfold TakesUpper; rw [hpar]
    rw [hu]
    exact ho.imp (fun h => ⟨congrArg _ h.1, h.2⟩) fun h => ⟨by rw [h.1, Nat.add_assoc], h.2⟩
  · rw [h.exact_iff, magOf_eq f (by omega) (by omega), eq_comm]

end Code

/-! ### Normalisation and tininess (R45) -/

theorem bitLen_le {m n : Nat} : bitLen m ≤ n ↔ m < 2 ^ n := by
  unfold bitLen
  split
  · simp [*]
  · rw [Nat.succ_le_iff, Nat.log2_lt ‹_›]

/-- A number other than 0 has its leading bit at the place that `bitLen` counts to. -/
theorem bitLen_normal {m : Nat} (hm : m ≠ 0) (e p : ℤ) :
    (2 : ℚ) ^ p * 2 ^ (bitLen m + e - (p + 1)) ≤ m * 2 ^ e ∧ m * 2 ^ e < (2 : ℚ) ^ (p + 1) * 2 ^ (bitLen m + e - (p + 1)) := by
  have hs := two_zpow_pos e
  have hb : 1 ≤ bitLen m := by simp [bitLen, hm]
  have h0 : 2 ^ (bitLen m - 1) ≤ m := by
    by_contra h
    have := bitLen_le.2 (Nat.not_le.1 h)
    omega
  have h1 : m < 2 ^ bitLen m := bitLen_le.1 le_rfl
  have e0 : (2 : ℚ) ^ p * 2 ^ (bitLen m + e - (p + 1)) = (2 ^ (bitLen m - 1) : Nat) * 2 ^ e := by
    push_cast
    rw [← zpow_add₀ two_ne_zero, ← zpow_natCast, ← zpow_add₀ two_ne_zero]
    congr 1
    omega
  have e1 : (2 : ℚ) ^ (p + 1) * 2 ^ (bitLen m + e - (p + 1)) = (2 ^ bitLen m : Nat) * 2 ^ e := by
    push_cast
    rw [← zpow_add₀ two_ne_zero, ← zpow_natCast, ← zpow_add₀ two_ne_zero]
    congr 1
    omega
  rw [e0, e1, mul_le_mul_iff_left₀ hs, mul_lt_mul_iff_left₀ hs]
  exact ⟨by exact_mod_cast h0, by exact_mod_cast h1⟩

/-- The last place of the numbers just below the least normal one, the exponent unbounded: that number is its `2^(fb + 1)`-th
multiple (`tiny_iff`). -/
def tinyStep (f : Fmt) : ℚ := 2 ^ (f.emin - 1)

theorem tiny_iff (f : Fmt) (rm : Nat) (neg : Bool) (a : ℚ) : Tiny f rm neg a ↔
    if rm = 0 then a < 2 ^ (f.fb + 1) * tinyStep f - tinyStep f / 2
    else if towardZero rm neg then a < 2 ^ (f.fb + 1) * tinyStep f else a ≤ 2 ^ (f.fb + 1) * tinyStep f - tinyStep f := by
  have h0 : (2 : ℚ) ^ (1 - (f.bias : ℤ)) = 2 ^ (f.fb + 1) * tinyStep f := by
    rw [tinyStep, ← zpow_natCast, ← zpow_add₀ two_ne_zero]
    congr 1
    simp only [Fmt.emin]
    push_cast
    ring
  have h1 : (2 : ℚ) ^ (-(f.bias : ℤ) - f.fb) = tinyStep f := by
    rw [tinyStep]
    congr 1
    simp only [Fmt.emin]
    ring
  unfold Tiny
  rw [h0, h1]

section Tiny
variable {f : Fmt} {rm : Nat} {neg : Bool} {a : ℚ} {q t : Nat}

theorem tiny_of_lt (h : a < (2 ^ (f.fb + 1) - 1) * tinyStep f) : Tiny f rm neg a := by
  have := two_zpow_pos (f.emin - 1)
  rw [tiny_iff]
  unfold tinyStep at *
  split <;> [linarith; (split <;> linarith)]

theorem not_tiny_of_le (h : 2 ^ (f.fb + 1) * tinyStep f ≤ a) : ¬ Tiny f rm neg a := by
  have := two_zpow_pos (f.emin - 1)
  rw [tiny_iff]
  unfold tinyStep at *
  split <;> [linarith; (split <;> linarith)]

/-- Just below the least normal number a value is tiny where the mode takes the lower neighbour. -/
theorem tiny_iff_not_takesUpper (hq : q + 1 = 2 ^ (f.fb + 1)) (hh : a < (q + 1) * tinyStep f) :
    Tiny f rm neg a ↔ ¬ TakesUpper rm neg q (q * tinyStep f) ((q + 1) * tinyStep f) a := by
  have hq' : (2 : ℚ) ^ (f.fb + 1) = q + 1 := by exact_mod_cast hq.symm
  have hodd : q % 2 = 1 := by rw [pow_succ] at hq; omega
  rw [tiny_iff, hq']
  unfold TakesUpper
  split
  · rw [not_or, and_iff_left hodd]
    constructor
    · exact fun h => ⟨by linarith, by linarith⟩
    · rintro ⟨h1, h2⟩
      linarith [lt_of_le_of_ne (not_lt.1 h1) h2]
  · cases towardZero rm neg
    · simp [add_mul]
    · simp [hh]

/-- A magnitude is tiny just where the value rounded with an unbounded exponent has too few bits (R45). -/
theorem tiny_iff_bitLen {x : ℤ} (hq0 : 2 ^ f.fb ≤ q) (hq : q < 2 ^ (f.fb + 1)) (h : RoundsStep rm neg (2 ^ x) a q t) :
    (bitLen t : ℤ) + x ≤ f.emin + f.fb ↔ Tiny f rm neg a := by
  have hu : 0 < tinyStep f := two_zpow_pos _
  have hle := h.le_succ
  have hb : f.fb < bitLen t := by
    by_contra h
    have := bitLen_le.1 (Nat.not_lt.1 h)
    omega
  have hb1 : bitLen t ≤ f.fb + 1 ↔ t < 2 ^ (f.fb + 1) := bitLen_le
  have hb2 : bitLen t ≤ f.fb + 2 := bitLen_le.2 (by rw [pow_succ _ (f.fb + 1)]; omega)
  rcases lt_trichotomy x (f.emin - 1) with hx | rfl | hx
  · refine iff_of_true (by omega) (tiny_of_lt ?_)
    have hx2 : (2 : ℚ) ^ x * 2 ≤ tinyStep f := by
      rw [← zpow_add_one₀ two_ne_zero]
      exact zpow_le_zpow_right₀ one_le_two (by omega)
    have hF : (2 : ℚ) ≤ 2 ^ (f.fb + 1) := by exact_mod_cast Nat.le_self_pow (by omega) 2
    calc a < (q + 1) * 2 ^ x := h.2.1
      _ ≤ 2 ^ (f.fb + 1) * (tinyStep f / 2) := by
        refine mul_le_mul (by exact_mod_cast hq) (by linarith) (two_zpow_pos x).le (by positivity)
      _ ≤ (2 ^ (f.fb + 1) - 1) * tinyStep f := by
        nlinarith [mul_nonneg (sub_nonneg.2 hF) hu.le]
  · rw [show (bitLen t : ℤ) + (f.emin - 1) ≤ f.emin + f.fb ↔ t < 2 ^ (f.fb + 1) by rw [← hb1]; omega]
    by_cases hq1 : q + 1 = 2 ^ (f.fb + 1)
    · rw [tiny_iff_not_takesUpper hq1 h.2.1]
      rcases h.2.2 with ⟨rfl, hn⟩ | ⟨rfl, hn⟩
      · exact iff_of_true hq hn
      · exact iff_of_false (by omega) (not_not.2 hn)
    · have hq2 : ((q + 1 : Nat) : ℚ) + 1 ≤ 2 ^ (f.fb + 1) := by exact_mod_cast Nat.lt_of_le_of_ne hq hq1
      refine iff_of_true (by omega) (tiny_of_lt (h.2.1.trans_le (mul_le_mul_of_nonneg_right ?_ hu.le)))
      push_cast at hq2
      linarith
  · refine iff_of_false (by omega) (not_tiny_of_le ?_)
    have hx2 : tinyStep f * 2 ≤ 2 ^ x := by
      rw [tinyStep, ← zpow_add_one₀ two_ne_zero]
      exact zpow_le_zpow_right₀ one_le_two (by omega)
    calc 2 ^ (f.fb + 1) * tinyStep f = 2 ^ f.fb * (tinyStep f * 2) := by ring
      _ ≤ q * 2 ^ x := mul_le_mul (by exact_mod_cast hq0) hx2 (by unfold tinyStep; positivity) (by positivity)
      _ ≤ a := h.1

end Tiny

/-- One rounding of a value other than 0 gives the code that the mode rounds to, and tells an inexact and a tiny value. -/
theorem roundMag_spec {f : Fmt} (hf : 0 < f.fb) {rm : Nat} (hrm : rm < 4) (neg : Bool) {m : Nat} (hm : m ≠ 0) (e : ℤ) :
    let a : ℚ := m * 2 ^ e
    let r := f.roundMag rm neg m e
    RoundsTo f rm neg a r.1 ∧ (r.2.1 = true ↔ magOf f r.1 ≠ a) ∧ (r.2.2 = true ↔ Tiny f rm neg a) := by
  intro a r
  obtain ⟨hn0, hn1⟩ := bitLen_normal hm e f.fb
  set x0 : ℤ := bitLen m + e - (f.fb + 1) with hx0
  obtain ⟨n, hn⟩ := Int.eq_ofNat_of_zero_le (sub_nonneg.2 (le_max_right x0 f.emin))
  have hx : max x0 f.emin = f.emin + n := by omega
  obtain ⟨q, hq, hqx⟩ := roundAt_roundsStep hrm neg m e (f.emin + n)
  obtain ⟨t, ht, -⟩ := roundAt_roundsStep hrm neg m e x0
  have hr : r = (n * 2 ^ f.fb + (roundAt rm neg m e (f.emin + n)).1, (roundAt rm neg m e (f.emin + n)).2,
      decide ((bitLen (roundAt rm neg m e x0).1 : ℤ) + x0 ≤ f.emin + f.fb)) := by
    simp only [r, Fmt.roundMag, ← hx0, hx]
    rw [add_sub_cancel_left, Int.toNat_natCast]
  have hF0 : (2 : ℚ) ^ (f.fb : ℤ) = (2 ^ f.fb : Nat) := by push_cast; rw [zpow_natCast]
  have hF1 : (2 : ℚ) ^ ((f.fb : ℤ) + 1) = (2 ^ (f.fb + 1) : Nat) := by push_cast; rw [← zpow_natCast]; push_cast; rfl
  rw [hF0] at hn0
  rw [hF1] at hn1
  have hqF : q < 2 ^ (f.fb + 1) := by
    refine hq.lt_of_lt (two_zpow_pos _) (hn1.trans_le (mul_le_mul_of_nonneg_left ?_ (by positivity)))
    exact zpow_le_zpow_right₀ one_le_two (by omega)
  have hqn : n = 0 ∨ 2 ^ f.fb ≤ q := by
    refine (Nat.eq_zero_or_pos n).imp_right fun hn => hq.le_of_le (two_zpow_pos _) ?_
    rwa [show f.emin + n = x0 by omega]
  obtain ⟨hto, hex⟩ := hq.roundsTo hf hqn hqF
  rw [hr]
  refine ⟨hto, hqx.trans (not_congr hex), ?_⟩
  rw [decide_eq_true_iff]
  exact tiny_iff_bitLen (ht.le_of_le (two_zpow_pos _) hn0) (ht.lt_of_lt (two_zpow_pos _) hn1) ht

/-! ### Exact values -/

/-- The value of a number that is no NaN and no infinity. -/
def Num.val : Num → ℚ
  | .fin neg m e => (Num.sm neg m : ℤ) * 2 ^ e
  | _ => 0

theorem val_fin (neg : Bool) (m : Nat) (e : ℤ) : (Num.fin neg m e).val = if neg then -((m : ℚ) * 2 ^ e) else m * 2 ^ e := by
  cases neg <;> simp [Num.val, Num.sm]

theorem val_neg (a : Num) : a.neg.val = -a.val := by
  cases a with
  | nan s => simp [Num.neg, Num.val]
  | inf n => simp [Num.neg, Num.val]
  | fin n m e => cases n <;> simp [Num.neg, val_fin]

theorem val_eq_zero {neg : Bool} {m : Nat} {e : ℤ} : (Num.fin neg m e).val = 0 ↔ m = 0 := by
  have := (two_zpow_pos e).ne'
  cases neg <;> simp [val_fin, this]

theorem val_abs (neg : Bool) (m : Nat) (e : ℤ) : |(Num.fin neg m e).val| = m * 2 ^ e := by
  have : (0 : ℚ) ≤ m * 2 ^ e := by have := two_zpow_pos e; positivity
  cases neg <;> simp [val_fin, abs_of_nonneg this]

theorem val_neg_iff {neg : Bool} {m : Nat} {e : ℤ} (hm : m ≠ 0) : (Num.fin neg m e).val < 0 ↔ neg = true := by
  have := two_zpow_pos e
  have : (0 : ℚ) < m * 2 ^ e := by positivity
  cases neg <;> simp [val_fin, this, this.le]

section Round
variable {f : Fmt} (hk : f.kind = .ieee)
include hk

theorem overflowCode_eq {rm : Nat} (hrm : rm < 4) (neg : Bool) : f.overflowCode rm neg =
    f.sign neg + if towardZero rm neg then (2 ^ f.eb - 1) * 2 ^ f.fb - 1 else (2 ^ f.eb - 1) * 2 ^ f.fb := by
  interval_cases rm <;> cases neg <;> simp [Fmt.overflowCode, towardZero, Fmt.maxCode, Fmt.infCode, hk]

/-- A finite number other than 0 is written as R44 to R46 say. -/
theorem round_roundedOnce (hf : 0 < f.fb) (he : 0 < f.eb) {rm : Nat} (hrm : rm < 4) (ftz neg : Bool) (m : Nat) (e : ℤ)
    (hv : (Num.fin neg m e).val ≠ 0) : RoundedOnce f rm ftz (Num.fin neg m e).val (f.round rm ftz (.fin neg m e)) := by
  have hm : m ≠ 0 := fun h => hv (val_eq_zero.2 h)
  obtain ⟨hto, hex, hti⟩ := roundMag_spec hf hrm neg hm e
  have hs : (if (Num.fin neg m e).val < 0 then 2 ^ (f.eb + f.fb) else 0) = f.sign neg := by
    simp only [val_neg_iff hm, Fmt.sign]
  have hd : decide ((Num.fin neg m e).val < 0) = neg := by simp [val_neg_iff hm]
  have hmax : f.maxCode = (2 ^ f.eb - 1) * 2 ^ f.fb - 1 := by simp [Fmt.maxCode, hk]
  have hinf : 0 < (2 ^ f.eb - 1) * 2 ^ f.fb := Nat.mul_pos (Nat.sub_pos_of_lt (Nat.one_lt_two_pow he.ne')) (by positivity)
  unfold RoundedOnce
  rw [hd, hs, val_abs]
  refine ⟨_, hto, fun h => ?_, fun h hz hsub => ?_, fun h hn => ?_⟩
  · simp only [Fmt.round, hm, if_false]
    rw [if_pos (by omega), overflowCode_eq hk hrm]
  · simp only [Fmt.round, hm, if_false]
    rw [if_neg (by omega), if_pos (by simp [hz, hsub])]
  · simp only [Fmt.round, hm, if_false]
    rw [if_neg (by omega), if_neg (by simpa using hn)]
    refine ⟨rfl, fun hx => ?_, fun hx ht => ?_, fun hx ht => ?_⟩
    · simp [Bool.eq_false_iff.2 fun h => hex.1 h hx]
    · rw [hex.2 hx, hti.2 ht]; rfl
    · rw [hex.2 hx, Bool.eq_false_iff.2 fun h => ht (hti.1 h)]; rfl

omit hk in
theorem round_zero (rm : Nat) (ftz neg : Bool) (e : ℤ) : f.round rm ftz (.fin neg 0 e) = (f.sign neg, 0) := rfl

end Round

theorem sm_align {e x : ℤ} (h : x ≤ e) (neg : Bool) (m : Nat) :
    ((Num.sm neg (m * 2 ^ (e - x).toNat) : ℤ) : ℚ) * 2 ^ x = (Num.fin neg m e).val := by
  have := align_value h m
  cases neg <;> simp [Num.sm, val_fin, this]

theorem sm_natAbs (t : ℤ) : Num.sm (decide (t < 0)) t.natAbs = t := by
  by_cases h : t < 0
  · simp only [Num.sm, decide_eq_true h, if_true]; omega
  · simp only [Num.sm, decide_eq_false h, Bool.false_eq_true, if_false]; omega

/-- A sum of two finite numbers is exact, a zero with the sign of R46. -/
theorem add_fin (rm : Nat) (n n' : Bool) (m m' : Nat) (e e' : ℤ) :
    let v := (Num.fin n m e).val + (Num.fin n' m' e').val
    (v = 0 → (Num.fin n m e).add rm (.fin n' m' e') = (.fin (if n = n' then n else rm == 3) 0 0, 0)) ∧
      (v ≠ 0 → ∃ s k x, (Num.fin n m e).add rm (.fin n' m' e') = (.fin s k x, 0) ∧ (Num.fin s k x).val = v) := by
  intro v
  set x := min e e' with hx
  set t := Num.sm n (m * 2 ^ (e - x).toNat) + Num.sm n' (m' * 2 ^ (e' - x).toNat) with ht
  have hv : (t : ℚ) * 2 ^ x = v := by
    rw [ht]
    push_cast
    rw [add_mul, sm_align (min_le_left ..), sm_align (min_le_right ..)]
  have hadd : (Num.fin n m e).add rm (.fin n' m' e') =
      if t = 0 then (.fin (if n = n' then n else rm == 3) 0 0, 0) else (.fin (decide (t < 0)) t.natAbs x, 0) := rfl
  have h0 : t = 0 ↔ v = 0 := by simp [← hv, (two_zpow_pos x).ne']
  refine ⟨fun h => by rw [hadd, if_pos (h0.2 h)], fun h => ⟨_, _, _, by rw [hadd, if_neg (mt h0.1 h)], ?_⟩⟩
  rw [← hv]
  simp only [Num.val, sm_natAbs]

theorem mul_fin (n n' : Bool) (m m' : Nat) (e e' : ℤ) :
    (Num.fin n m e).mul (.fin n' m' e') = (.fin (n != n') (m * m') (e + e'), 0) ∧
      (Num.fin (n != n') (m * m') (e + e')).val = (Num.fin n m e).val * (Num.fin n' m' e').val := by
  refine ⟨rfl, ?_⟩
  cases n <;> cases n' <;> simp [val_fin, zpow_add₀ (two_ne_zero (α := ℚ))] <;> ring

/-! ### Finite codes -/

/-- A code without its sign is its exponent field and its fraction. -/
theorem mod_top (f : Fmt) (x : Nat) : x % 2 ^ (f.eb + f.fb) = expField f x * 2 ^ f.fb + x % 2 ^ f.fb := by
  rw [Nat.add_comm f.eb, Nat.pow_add, Nat.mod_mul, expField]
  ring

theorem code_eq {f : Fmt} {x : Nat} (hx : x < 2 * 2 ^ (f.eb + f.fb)) :
    x = signBit f x * 2 ^ (f.eb + f.fb) + x % 2 ^ (f.eb + f.fb) := by
  rw [signBit, Nat.mod_eq_of_lt (Nat.div_lt_of_lt_mul (by rwa [Nat.mul_comm]))]
  exact (Nat.div_add_mod' ..).symm

theorem sign_eq (f : Fmt) (x : Nat) : f.sign (signBit f x == 1) = signBit f x * 2 ^ (f.eb + f.fb) := by
  have : signBit f x < 2 := Nat.mod_lt _ two_pos
  interval_cases h : signBit f x <;> simp [Fmt.sign]

/-- The number that an IEEE format's code stands for, where its exponent field is not all ones. -/
theorem decode_fin {f : Fmt} (hk : f.kind = .ieee) {x : Nat} (h : expField f x < 2 ^ f.eb - 1) : f.decode x =
    if expField f x = 0 then .fin (signBit f x == 1) (x % 2 ^ f.fb) f.emin
    else .fin (signBit f x == 1) (x % 2 ^ f.fb + 2 ^ f.fb) (f.emin + expField f x - 1) := by
  have ht : (expField f x == 2 ^ f.eb - 1) = false := beq_eq_false_iff_ne.2 h.ne
  simp only [expField] at ht
  simp only [Fmt.decode, hk, ht, expField, signBit]
  rfl

/-- A finite code decodes to its sign and the value that the operation reads (R43, R45). -/
theorem decodeFtz_fin {f : Fmt} (hk : f.kind = .ieee) {x : Nat} (h : expField f x < 2 ^ f.eb - 1) (ftz : Bool) :
    ∃ m e, f.decodeFtz ftz x = .fin (signBit f x == 1) m e ∧ (Num.fin (signBit f x == 1) m e).val = readAs f ftz x := by
  have hfr : x % 2 ^ f.fb < 2 ^ f.fb := Nat.mod_lt _ (by positivity)
  have hsv (m : Nat) (e : ℤ) (hm : (m : ℚ) * 2 ^ e = magOf f (x % 2 ^ (f.eb + f.fb))) (hz : ¬ (ftz = true ∧ expField f x = 0)) :
      (Num.fin (signBit f x == 1) m e).val = readAs f ftz x := by
    rw [val_fin, hm, readAs, if_neg hz]
    simp only [beq_iff_eq]
  by_cases hz : ftz = true ∧ expField f x = 0
  · refine ⟨0, 0, ?_, ?_⟩
    · have hz' : (ftz && x / 2 ^ f.fb % 2 ^ f.eb == 0) = true := by simpa [expField] using hz
      simp only [Fmt.decodeFtz, hz', if_true, signBit]
    · rw [val_eq_zero.2 rfl, readAs, if_pos hz]
  · have hd : f.decodeFtz ftz x = f.decode x := if_neg (by simpa [expField] using hz)
    rw [hd, decode_fin hk h]
    by_cases h0 : expField f x = 0
    · refine ⟨_, _, if_pos h0, hsv _ _ ?_ hz⟩
      rw [mod_top, h0, magOf_eq f (.inl rfl) (by rw [pow_succ]; omega)]
      simp
    · refine ⟨_, _, if_neg h0, hsv _ _ ?_ hz⟩
      obtain ⟨n, hn⟩ := Nat.exists_eq_succ_of_ne_zero h0
      have hc : expField f x * 2 ^ f.fb + x % 2 ^ f.fb = n * 2 ^ f.fb + (x % 2 ^ f.fb + 2 ^ f.fb) := by rw [hn, Nat.succ_mul]; ring
      rw [mod_top, hc, magOf_eq f (.inr (Nat.le_add_left ..)) (by rw [pow_succ]; omega), hn]
      congr 2
      push_cast
      ring

/-- An infinity, whatever its sign. -/
theorem decodeFtz_inf_of_mod {f : Fmt} (hk : f.kind = .ieee) (he : 0 < f.eb) {x : Nat}
    (h : x % 2 ^ (f.eb + f.fb) = (2 ^ f.eb - 1) * 2 ^ f.fb) (ftz : Bool) : f.decodeFtz ftz x = .inf (signBit f x == 1) := by
  have hp : 0 < 2 ^ f.fb := by positivity
  have h0 : x % 2 ^ f.fb = 0 := by
    have := congrArg (· % 2 ^ f.fb) h
    simpa [mod_top] using this
  rw [mod_top, h0, Nat.add_zero] at h
  exact decodeFtz_inf hk he (Nat.eq_of_mul_eq_mul_right hp h) h0

/-! ### Signs of zeros (R46) -/

section Sign
variable (f : Fmt) (rm x y w : Nat)

theorem signBit_cases : signBit f x = 0 ∨ signBit f x = 1 := by
  have : signBit f x < 2 := Nat.mod_lt _ two_pos
  omega

theorem sign_sum : f.sign (if (signBit f x == 1) = (signBit f y == 1) then signBit f x == 1 else rm == 3) =
    if signBit f x = signBit f y then signBit f x * 2 ^ (f.eb + f.fb) else if rm = 3 then 2 ^ (f.eb + f.fb) else 0 := by
  rcases signBit_cases f x with hx | hx <;> rcases signBit_cases f y with hy | hy <;> simp [hx, hy, Fmt.sign]

theorem sign_difference : f.sign (if (signBit f x == 1) = !(signBit f y == 1) then signBit f x == 1 else rm == 3) =
    if signBit f x ≠ signBit f y then signBit f x * 2 ^ (f.eb + f.fb) else if rm = 3 then 2 ^ (f.eb + f.fb) else 0 := by
  rcases signBit_cases f x with hx | hx <;> rcases signBit_cases f y with hy | hy <;> simp [hx, hy, Fmt.sign]

theorem sign_product : f.sign ((signBit f x == 1) != (signBit f y == 1)) =
    (signBit f x + signBit f y) % 2 * 2 ^ (f.eb + f.fb) := by
  rcases signBit_cases f x with hx | hx <;> rcases signBit_cases f y with hy | hy <;> simp [hx, hy, Fmt.sign]

theorem sign_fused : f.sign (if ((signBit f x == 1) != (signBit f y == 1)) = (signBit f w == 1) then
      (signBit f x == 1) != (signBit f y == 1) else rm == 3) =
    if (signBit f x + signBit f y) % 2 = signBit f w then signBit f w * 2 ^ (f.eb + f.fb)
    else if rm = 3 then 2 ^ (f.eb + f.fb) else 0 := by
  rcases signBit_cases f x with hx | hx <;> rcases signBit_cases f y with hy | hy <;>
    rcases signBit_cases f w with hw | hw <;> simp [hx, hy, hw, Fmt.sign]

end Sign

/-! ### Operations rounded once -/

/-- An exact result with its flags, rounded. -/
def Fmt.finish (f : Fmt) (rm : Nat) (ftz : Bool) (s : Num × FpFlags) : Nat × FpFlags :=
  ((f.round rm ftz s.1).1, s.2 ||| (f.round rm ftz s.1).2)

theorem finish_noFlags (f : Fmt) (rm : Nat) (ftz : Bool) (a : Num) : f.finish rm ftz (a, 0) = f.round rm ftz a := by
  simp [Fmt.finish]

section Once
variable {f : Fmt} (hk : f.kind = .ieee) (hf : 0 < f.fb) (he : 0 < f.eb) {rm : Nat} (hrm : rm < 4) (ftz n n' : Bool) (m m' : Nat)
  (e e' : ℤ)
include hk hf he hrm

theorem finish_add {v : ℚ} (hv : (Num.fin n m e).val + (Num.fin n' m' e').val = v) :
    let s := (Num.fin n m e).add rm (.fin n' m' e')
    (v ≠ 0 → RoundedOnce f rm ftz v (f.finish rm ftz s) ∧ RoundedOnce f rm ftz |v| (f.finish rm ftz (s.1.abs, s.2))) ∧
      (v = 0 → f.finish rm ftz s = (f.sign (if n = n' then n else rm == 3), 0) ∧ f.finish rm ftz (s.1.abs, s.2) = (0, 0)) := by
  intro s
  obtain ⟨hz, hn⟩ := add_fin rm n n' m m' e e'
  rw [hv] at hz hn
  refine ⟨fun h => ?_, fun h => ?_⟩
  · obtain ⟨g, k, x, hs, rfl⟩ := hn h
    have habs : |(Num.fin g k x).val| = (Num.fin false k x).val := by rw [val_abs, val_fin]; rfl
    have h' : (Num.fin false k x).val ≠ 0 := habs ▸ abs_ne_zero.2 h
    rw [show s = (.fin g k x, 0) from hs, habs]
    simp only [Num.abs, finish_noFlags]
    exact ⟨round_roundedOnce hk hf he hrm ftz g k x h, round_roundedOnce hk hf he hrm ftz false k x h'⟩
  · rw [show s = _ from hz h]
    simp only [Num.abs, finish_noFlags, round_zero]
    exact ⟨trivial, rfl⟩

theorem finish_mul {v : ℚ} (hv : (Num.fin n m e).val * (Num.fin n' m' e').val = v) :
    let s := (Num.fin n m e).mul (.fin n' m' e')
    (v ≠ 0 → RoundedOnce f rm ftz v (f.finish rm ftz s)) ∧ (v = 0 → f.finish rm ftz s = (f.sign (n != n'), 0)) := by
  intro s
  obtain ⟨hs, hm⟩ := mul_fin n n' m m' e e'
  rw [show s = _ from hs, finish_noFlags, ← hv, ← hm]
  refine ⟨round_roundedOnce hk hf he hrm ftz _ _ _, fun h => ?_⟩
  rw [val_eq_zero.1 h, round_zero]

end Once

theorem fma_fin (rm : Nat) (n n' : Bool) (m m' : Nat) (e e' : ℤ) (c : Num) :
    (Num.fin n m e).fma rm (.fin n' m' e') c = (Num.fin (n != n') (m * m') (e + e')).add rm c := by
  simp [Num.fma, Num.mul]

section Finite
variable {f : Fmt} (hk : f.kind = .ieee) (hf : 0 < f.fb) (he : 0 < f.eb) {rm : Nat} (hrm : rm < 4) (ftz : Bool) {x y w : Nat}
  (hx : expField f x < 2 ^ f.eb - 1) (hy : expField f y < 2 ^ f.eb - 1)
include hk hf he hrm hx hy

theorem add_once : let v := readAs f ftz x + readAs f ftz y
    (v ≠ 0 → RoundedOnce f rm ftz v (f.add rm ftz x y)) ∧ (v = 0 → f.add rm ftz x y =
      (if signBit f x = signBit f y then signBit f x * 2 ^ (f.eb + f.fb) else if rm = 3 then 2 ^ (f.eb + f.fb) else 0, 0)) := by
  obtain ⟨m, e, hdx, hvx⟩ := decodeFtz_fin hk hx ftz
  obtain ⟨m', e', hdy, hvy⟩ := decodeFtz_fin hk hy ftz
  have hop : f.add rm ftz x y = f.finish rm ftz ((f.decodeFtz ftz x).add rm (f.decodeFtz ftz y)) := rfl
  rw [hop, hdx, hdy]
  obtain ⟨h1, h0⟩ := finish_add hk hf he hrm ftz _ _ m m' e e' (by rw [hvx, hvy])
  exact ⟨fun h => (h1 h).1, fun h => by rw [(h0 h).1, sign_sum]⟩

theorem sub_once : let v := readAs f ftz x - readAs f ftz y
    (v ≠ 0 → RoundedOnce f rm ftz v (f.sub rm ftz x y) ∧ RoundedOnce f rm ftz |v| (f.absdiff rm ftz x y)) ∧
      (v = 0 → f.sub rm ftz x y =
        (if signBit f x ≠ signBit f y then signBit f x * 2 ^ (f.eb + f.fb) else if rm = 3 then 2 ^ (f.eb + f.fb) else 0, 0) ∧
          f.absdiff rm ftz x y = (0, 0)) := by
  obtain ⟨m, e, hdx, hvx⟩ := decodeFtz_fin hk hx ftz
  obtain ⟨m', e', hdy, hvy⟩ := decodeFtz_fin hk hy ftz
  have hvn : (Num.fin (!(signBit f y == 1)) m' e').val = -readAs f ftz y := by rw [← hvy, ← val_neg]; rfl
  have hop : f.sub rm ftz x y = f.finish rm ftz ((f.decodeFtz ftz x).add rm (f.decodeFtz ftz y).neg) := rfl
  have hab : f.absdiff rm ftz x y = f.finish rm ftz
    (((f.decodeFtz ftz x).add rm (f.decodeFtz ftz y).neg).1.abs, ((f.decodeFtz ftz x).add rm (f.decodeFtz ftz y).neg).2) := rfl
  rw [hop, hab, hdx, hdy]
  obtain ⟨h1, h0⟩ := finish_add hk hf he hrm ftz _ _ m m' e e' (by rw [hvx, hvn, ← sub_eq_add_neg])
  exact ⟨h1, fun h => ⟨(h0 h).1.trans (by rw [sign_difference]), (h0 h).2⟩⟩

theorem mul_once : let v := readAs f ftz x * readAs f ftz y
    (v ≠ 0 → RoundedOnce f rm ftz v (f.mul rm ftz x y)) ∧
      (v = 0 → f.mul rm ftz x y = ((signBit f x + signBit f y) % 2 * 2 ^ (f.eb + f.fb), 0)) := by
  obtain ⟨m, e, hdx, hvx⟩ := decodeFtz_fin hk hx ftz
  obtain ⟨m', e', hdy, hvy⟩ := decodeFtz_fin hk hy ftz
  have hop : f.mul rm ftz x y = f.finish rm ftz ((f.decodeFtz ftz x).mul (f.decodeFtz ftz y)) := rfl
  rw [hop, hdx, hdy]
  obtain ⟨h1, h0⟩ := finish_mul hk hf he hrm ftz _ _ m m' e e' (by rw [hvx, hvy])
  exact ⟨h1, fun h => by rw [h0 h, sign_product]⟩

theorem fma_once (hw : expField f w < 2 ^ f.eb - 1) : let v := readAs f ftz x * readAs f ftz y + readAs f ftz w
    (v ≠ 0 → RoundedOnce f rm ftz v (f.fma rm ftz x y w)) ∧ (v = 0 → f.fma rm ftz x y w =
      (if (signBit f x + signBit f y) % 2 = signBit f w then signBit f w * 2 ^ (f.eb + f.fb)
        else if rm = 3 then 2 ^ (f.eb + f.fb) else 0, 0)) := by
  obtain ⟨m, e, hdx, hvx⟩ := decodeFtz_fin hk hx ftz
  obtain ⟨m', e', hdy, hvy⟩ := decodeFtz_fin hk hy ftz
  obtain ⟨k, d, hdw, hvw⟩ := decodeFtz_fin hk hw ftz
  have hop : f.fma rm ftz x y w = f.finish rm ftz ((f.decodeFtz ftz x).fma rm (f.decodeFtz ftz y) (f.decodeFtz ftz w)) := rfl
  rw [hop, hdx, hdy, hdw, fma_fin]
  obtain ⟨h1, h0⟩ := finish_add hk hf he hrm ftz _ _ (m * m') k (e + e') d (by rw [(mul_fin ..).2, hvx, hvy, hvw])
  exact ⟨fun h => (h1 h).1, fun h => by rw [(h0 h).1, sign_fused]⟩

end Finite

/-- An infinity beside a finite number goes through a sum and a difference, and a product with a number other than 0. -/
theorem inf_once {f : Fmt} (hk : f.kind = .ieee) (he : 0 < f.eb) (rm : Nat) (ftz : Bool) {x y : Nat}
    (hx : x < 2 * 2 ^ (f.eb + f.fb)) (hinf : x % 2 ^ (f.eb + f.fb) = f.infCode) (hy : expField f y < 2 ^ f.eb - 1) :
    f.add rm ftz x y = (x, 0) ∧ f.sub rm ftz x y = (x, 0) ∧
      (readAs f ftz y ≠ 0 → f.mul rm ftz x y = ((signBit f x + signBit f y) % 2 * 2 ^ (f.eb + f.fb) + f.infCode, 0)) := by
  obtain ⟨m, e, hdy, hvy⟩ := decodeFtz_fin hk hy ftz
  have hdx := decodeFtz_inf_of_mod hk he hinf ftz
  have hround : f.round rm ftz (.inf (signBit f x == 1)) = (x, 0) := by
    rw [Fmt.round, sign_eq, ← hinf, ← code_eq hx]
  refine ⟨?_, ?_, fun h => ?_⟩
  · simp [Fmt.add, hdx, hdy, Num.add, hround]
  · simp [Fmt.sub, hdx, hdy, Num.neg, Num.add, hround]
  · have hm : m ≠ 0 := fun h0 => h (hvy ▸ val_eq_zero.2 h0)
    simp [Fmt.mul, hdx, hdy, Num.mul, hm, Fmt.round, sign_product]

/-- R40, R45: what a rounding to a whole number gives in each mode. -/
theorem roundAt_whole {rm m k : Nat} (hrm : rm < 4) (neg : Bool) {e x : ℤ} (h : x - e = k) :
    let q := (roundAt rm neg m e x).1
    let exact := m % 2 ^ k = 0
    ((roundAt rm neg m e x).2 = true ↔ ¬ exact) ∧ (exact → q * 2 ^ k = m) ∧ (q = m / 2 ^ k ∨ q = m / 2 ^ k + 1) ∧
      (rm = 1 → q = m / 2 ^ k) ∧
      (rm = 2 → ¬ exact → q = if neg then m / 2 ^ k else m / 2 ^ k + 1) ∧
      (rm = 3 → ¬ exact → q = if neg then m / 2 ^ k + 1 else m / 2 ^ k) ∧
      (rm = 0 → 2 * q * 2 ^ k ≤ 2 * m + 2 ^ k ∧ 2 * m ≤ 2 * q * 2 ^ k + 2 ^ k ∧ (2 * (m % 2 ^ k) = 2 ^ k → q % 2 = 0)) := by
  have hm : m / 2 ^ k * 2 ^ k + m % 2 ^ k = m := Nat.div_add_mod' ..
  have hr : m % 2 ^ k < 2 ^ k := Nat.mod_lt _ (by positivity)
  rw [roundAt_eq h]
  dsimp only
  refine ⟨by simp, fun h0 => ?_, ?_, ?_, ?_, ?_, ?_⟩
  · rw [h0, roundUp_exact, if_neg Bool.false_ne_true]
    omega
  · split <;> simp
  · rintro rfl; rfl
  · rintro rfl h0
    cases neg <;> simp [roundUp, h0]
  · rintro rfl h0
    cases neg <;> simp [roundUp, h0]
  · rintro rfl
    have hu : roundUp 0 neg (m / 2 ^ k) (m % 2 ^ k) k = true ↔
        2 ^ k < 2 * (m % 2 ^ k) ∨ 2 * (m % 2 ^ k) = 2 ^ k ∧ m / 2 ^ k % 2 = 1 := by simp [roundUp]
    generalize m / 2 ^ k = q at *
    generalize m % 2 ^ k = r at *
    split
    · have := hu.1 ‹_›
      rw [Nat.mul_assoc, Nat.add_mul, Nat.one_mul]
      omega
    · have := mt hu.2 ‹_›
      rw [Nat.mul_assoc]
      omega

/-- Settles O14: each operation's exact value, rounded once by `round_roundedOnce`, and the whole multiple that `roundAt` gives. -/
theorem roundingFollowsItsMode : Obligations.RoundingFollowsItsMode := by
  refine ⟨fun f hmem rm x y w ftz hrm hx _ _ hey => ?_, fun rm m k neg e x hrm h => roundAt_whole hrm neg h⟩
  have hfmt : f.kind = .ieee ∧ 0 < f.fb ∧ 0 < f.eb := by
    simp only [List.mem_cons, List.not_mem_nil, or_false] at hmem
    rcases hmem with rfl | rfl | rfl | rfl <;> decide
  obtain ⟨hk, hf, he⟩ := hfmt
  refine ⟨fun hex hew => ?_, fun hinf => inf_once hk he rm ftz hx hinf hey⟩
  obtain ⟨ha1, ha0⟩ := add_once hk hf he hrm ftz hex hey
  obtain ⟨hs1, hs0⟩ := sub_once hk hf he hrm ftz hex hey
  obtain ⟨hm1, hm0⟩ := mul_once hk hf he hrm ftz hex hey
  obtain ⟨hf1, hf0⟩ := fma_once hk hf he hrm ftz hex hey hew
  refine ⟨?_, ha0, hs0, hm0, hf0⟩
  simp only [List.forall_mem_cons]
  exact ⟨ha1, fun h => (hs1 h).1, hm1, hf1, fun h => (hs1 (abs_ne_zero.1 h)).2, by simp⟩

end Sys2Proof.Machine
end

section
/-! SUPPORT. The checks and posts of the matrix engine, and the words that follow tickets (R216 to R219, R235 to R237). -/

namespace Sys2Proof.Machine

/-! ### The checks of a record (R218, R236) -/

/-- A chain of checks answers the first that holds. -/
theorem firstCheck_ite {c p : Prop} [Decidable c] {n : Nat} {ps : List (Prop × Nat)} {r : Option Nat} (hc : c ↔ p)
    (hr : FirstCheck ps r) : FirstCheck ((p, n) :: ps) (if c then some n else r) :=
  ⟨fun hp => if_pos (hc.2 hp), fun hp => by rwa [if_neg fun h => hp (hc.1 h)]⟩

theorem badPair_iff (r : QRec) : badPair r = true ↔ 20 ≤ r.afmt ∨ 20 ≤ r.bfmt ∨ (13 ≤ r.afmt ∧ r.bfmt < 13) ∨
    (r.afmt < 13 ∧ 13 ≤ r.bfmt) ∨ (13 ≤ r.afmt ∧ (r.ascale ≠ 0 ∨ r.bscale ≠ 0)) ∨
    (r.afmt = 0 ∧ (r.bfmt ≠ 0 ∨ r.ascale ≠ 0 ∨ r.bscale ≠ 0)) ∨ (r.afmt ≠ 0 ∧ r.bfmt = 0) := by
  simp only [badPair, isIntFmt, Bool.or_eq_true, Bool.and_eq_true, decide_eq_true_eq, bne_iff_ne, ne_eq,
    Bool.beq_eq_decide_eq, decide_eq_decide]
  omega

theorem badK_iff (k : Nat) : badK k = true ↔ k < 32 ∨ 512 < k ∨ k % 32 ≠ 0 := by
  simp only [badK, Bool.or_eq_true, decide_eq_true_eq, bne_iff_ne, beq_iff_eq]
  omega

/-! ### The words of QME and MSYNC -/

/-- The uniform result of a word that names one target, known at once. -/
theorem resWord_eq {i : Instr} {d la : Nat} (ht : targetOf i = some ⟨.s, d, 1⟩) (hl : laOf i = la) (s : State) (x : Word) :
    resWord s i d x = withUniform s d la x := by
  rw [resWord, addPend_some ht, hl]
  rfl

/-- A core's logical time moves no quad. -/
theorem quadAt_syncCore (s : State) (c q : Nat) : quadAt (syncCore s c) q = quadAt s q := rfl

section Issue
variable {s : State} {la d ua k : Nat}

/-- A word that reads one uniform register, and may write another, takes effect once its pipe is free. -/
theorem issue_matrix {i : Instr} (f : State → State) (hp : PipeFree s) (hu : ua < 64) (hd : d < 64)
    (hm : majorOf i = 0x33 ∨ majorOf i = 0x34) (hf : fields i = [(uw d).t, us ua] ∨ fields i = [us ua]) :
    issue i s f = .next (f s) := by
  refine issue_memory f (by rcases hm with h | h <;> simp [h]) hp.1 hp.2 (regrange_false fun x hx => ?_)
  have hx : x = (uw d).t ∨ x = us ua := by rcases hf with h | h <;> simp_all
  rcases hx with rfl | rfl
  · exact (bad_s ..).trans (decide_eq_false (Nat.not_le.2 hd))
  · exact (bad_s ..).trans (decide_eq_false (Nat.not_le.2 hu))

/-- R235: the words that post an operand record, each with its kind. -/
theorem exec_posts (hp : PipeFree s) (hd : d < 64) (hu : ua < 64) :
    ∀ p ∈ [(Instr.mmaAcc la d ua k, 0), (.mmaZero la d ua k, 1), (.mout la d ua k, 2)],
      exec p.1 s = .next (post s p.1 p.2 d (rdS s.old ua).toNat k) ∧ targetOf p.1 = some ⟨.s, d, 1⟩ ∧ laOf p.1 = la := by
  simp only [List.forall_mem_cons]
  refine ⟨⟨?_, rfl, rfl⟩, ⟨?_, rfl, rfl⟩, ⟨?_, rfl, rfl⟩, by simp⟩
  · rw [exec_mmaAcc, execMmaAcc, issue_matrix (i := .mmaAcc la d ua k) _ hp hu hd (.inl rfl) (.inl rfl)]
  · rw [exec_mmaZero, execMmaZero, issue_matrix (i := .mmaZero la d ua k) _ hp hu hd (.inl rfl) (.inl rfl)]
  · rw [exec_mout, execMout, issue_matrix (i := .mout la d ua k) _ hp hu hd (.inl rfl) (.inl rfl)]

theorem exec_mclear_ready (hp : PipeFree s) (hu : ua < 64) :
    exec (.mclear ua k) s = .next (postClear s (.mclear ua k) (rdS s.old ua).toNat k) := by
  rw [exec_mclear, execMclear, issue_matrix (i := .mclear ua k) (d := 0) _ hp hu (by omega) (.inl rfl) (.inr rfl)]

/-! What the three words of MSYNC do is said by the entry, if any, that the ticket names. -/

theorem exec_mwait_ready (hp : PipeFree s) (hu : ua < 64) : exec (.mwait ua) s = .next
    ((ticketEntry (quadAt s (s.c.core / 4)) (rdS s.old ua).toNat).elim (syncCore s s.c.core) fun _ =>
      withWait (syncCore s s.c.core) (.ticket (s.c.core / 4) (rdS s.old ua).toNat)) := by
  rw [exec_mwait, execMwait, issue_matrix (i := .mwait ua) (d := 0) _ hp hu (by omega) (.inr rfl) (.inr rfl)]
  simp only [quadOfCore, quadAt_syncCore]
  cases ticketEntry (quadAt s (s.c.core / 4)) (rdS s.old ua).toNat <;> rfl

theorem exec_mtest_ready (hp : PipeFree s) (hd : d < 64) (hu : ua < 64) : exec (.mtest la d ua) s = .next
    (withUniform (syncCore s s.c.core) d la
      ((ticketEntry (quadAt s (s.c.core / 4)) (rdS s.old ua).toNat).elim 0 fun e => if e.active then 2 else 1)) := by
  rw [exec_mtest, execMtest, issue_matrix (i := .mtest la d ua) _ hp hu hd (.inr rfl) (.inl rfl)]
  simp only [quadOfCore]
  cases ticketEntry (quadAt s (s.c.core / 4)) (rdS s.old ua).toNat <;> rfl

theorem exec_mcancel_ready (hp : PipeFree s) (hd : d < 64) (hu : ua < 64) : exec (.mcancel la d ua) s = .next
    ((ticketEntry (quadAt s (s.c.core / 4)) (rdS s.old ua).toNat).elim (withUniform s d la 0) fun e =>
      if e.active then withUniform s d la 2
      else withUniform (settleFences (dropEntry s (s.c.core / 4) e) (s.c.core / 16)) d la 1) := by
  rw [exec_mcancel, execMcancel, issue_matrix (i := .mcancel la d ua) _ hp hu hd (.inr rfl) (.inl rfl)]
  simp only [quadOfCore, bayOfCore]
  cases ticketEntry (quadAt s (s.c.core / 4)) (rdS s.old ua).toNat <;> rfl

end Issue

/-! ### Posts -/

section Post
variable {s : State} {i : Instr} {kind d off cls : Nat}

theorem post_full (h : freeEntry (quadAt s (s.c.core / 4)) = none) : post s i kind d off cls = stalled s := by
  simp only [post, quadOfCore, h]

theorem post_fails {code : Nat} (h : freeEntry (quadAt s (s.c.core / 4)) ≠ none) (hc : postCheck s kind off = some code) :
    post s i kind d off cls = postFault s i code off := by
  obtain ⟨e, he⟩ := Option.ne_none_iff_exists'.1 h
  simp only [post, quadOfCore, he, hc]

theorem post_accepts {e : Nat} (h : freeEntry (quadAt s (s.c.core / 4)) = some e) (hc : postCheck s kind off = none) :
    post s i kind d off cls = acceptPost s i kind d cls e (shareBytes s off 32) := by
  simp only [post, quadOfCore, h, hc]
  rfl

/-- The record lies in the share: its own checks remain (R218). -/
theorem postCheck_inShare (ha : off % 32 = 0) (hs : off + 32 ≤ s.c.shareSize) : postCheck s kind off =
    if kind = 2 then moutCheck s.c.shareSize (shareBytes s off 32) else mmaCheck s.c.shareSize (shareBytes s off 32) :=
  if_neg fun h => h.elim (absurd ha) (Nat.not_lt.2 hs)

theorem postCheck_outside (h : off % 32 ≠ 0 ∨ s.c.shareSize < off + 32) : postCheck s kind off = some 1 := if_pos h

end Post

section Clear
variable {s : State} {i : Instr} {slot cls : Nat}

theorem postClear_full (h : freeEntry (quadAt s (s.c.core / 4)) = none) : postClear s i slot cls = stalled s := by
  simp only [postClear, quadOfCore, h]

theorem postClear_fails (h : freeEntry (quadAt s (s.c.core / 4)) ≠ none) (hs : 8 ≤ slot) :
    postClear s i slot cls = postFault s i 1 slot := by
  obtain ⟨e, he⟩ := Option.ne_none_iff_exists'.1 h
  simp only [postClear, quadOfCore, he]
  exact if_pos hs

theorem postClear_accepts {e : Nat} (h : freeEntry (quadAt s (s.c.core / 4)) = some e) (hs : slot < 8) :
    postClear s i slot cls =
      updQuad { syncEngine s s.c.core with opSeq := s.opSeq + 1 } (s.c.core / 4) fun t => { t with qme := t.qme ++ [{
        entry := e, seq := 2 ^ 27, crew := s.c.id, vf := s.c.vf, cls := cls, kind := 3, record := [], shareBase := s.c.shareBase,
        launch := s.c.launch, slot := slot, fp64 := false, pins := [], posted := s.cycle, op := s.opSeq }] } := by
  simp only [postClear, quadOfCore, h]
  exact if_neg (Nat.not_lt.2 (Nat.le_of_lt_succ hs))

end Clear

/-- Settles O39: the checks of a record in their order, then each word through what the free entry, the first failing check or
the ticket's entry decides. -/
theorem matrixWordsPostAndFollowTickets : Obligations.MatrixWordsPostAndFollowTickets := by
  intro s la d ua k hp hd hu q off bs r u seq len pins check waits fails
  refine ⟨fun size bs => ⟨?_, ?_⟩, ?_⟩
  · refine firstCheck_ite ?_ (firstCheck_ite ?_ (firstCheck_ite ?_ (firstCheck_ite ?_ (firstCheck_ite ?_ rfl))))
    · simp only [mmaReserved, Bool.or_eq_true, bne_iff_ne, decide_eq_true_eq, or_assoc]
      exact Iff.rfl
    · rw [Bool.or_eq_true, badK_iff, badPair_iff]
      simp only [or_assoc]
      exact Iff.rfl
    · rw [Bool.and_eq_true, beq_iff_eq, beq_iff_eq]
      exact Iff.rfl
    · simp only [Bool.or_eq_true, Bool.and_eq_true, decide_eq_true_eq, or_assoc]
      simp only [parseQRec, bitB, beq_iff_eq]
      exact Iff.rfl
    · simp only [Bool.or_eq_true, bne_iff_ne, or_assoc]
      exact Iff.rfl
  · refine firstCheck_ite ?_ (firstCheck_ite ?_ (firstCheck_ite ?_ (firstCheck_ite ?_ rfl)))
    · simp only [moutReserved, Bool.or_eq_true, bne_iff_ne, decide_eq_true_eq, or_assoc]
      exact Iff.rfl
    · rw [Bool.and_eq_true, beq_iff_eq, beq_iff_eq]
      exact Iff.rfl
    · simp only [Bool.or_eq_true, Bool.and_eq_true, decide_eq_true_eq]
      simp only [parseQRec, bitB, beq_iff_eq]
    · simp only [Bool.or_eq_true, bne_iff_ne]
      exact Iff.rfl
  have hc := exec_mclear_ready (k := k) hp hu
  refine ⟨fun p hpm => ?_, ?_, ?_, ?_, ?_, ?_⟩
  · obtain ⟨he, ht, hl⟩ := exec_posts (la := la) (k := k) hp hd hu p hpm
    refine ⟨fun hf => ?_, fun ha hs hc e hf => ?_, fun code hc hf => ?_⟩
    · exact he.trans (congrArg _ (post_full hf))
    · rw [he, post_accepts hf ((postCheck_inShare ha hs).trans hc), acceptPost]
      dsimp only
      rw [resWord_eq ht hl]
      refine ⟨_, ?_, ?_, ?_, ?_, ?_, ?_, ?_, ?_, ?_, ?_, ?_, ?_, ?_, ?_, ?_, rfl⟩ <;> rfl
    · have hc : postCheck s p.2 off = some code := by
        rcases hc with ⟨hc, rfl⟩ | ⟨ha, hs, hc⟩
        · exact postCheck_outside hc
        · exact (postCheck_inShare ha hs).trans hc
      exact he.trans (congrArg _ (post_fails hf hc))
  · exact fun hf => hc.trans (congrArg _ (postClear_full hf))
  · exact fun hf hs => hc.trans (congrArg _ (postClear_fails hf hs))
  · exact fun hs e hf => hc.trans (congrArg _ (postClear_accepts hf hs))
  · intro ht
    rw [exec_mwait_ready hp hu, exec_mtest_ready hp hd hu, exec_mcancel_ready hp hd hu, ht]
    exact ⟨rfl, rfl, rfl⟩
  · intro e ht
    rw [exec_mwait_ready hp hu, exec_mtest_ready hp hd hu, exec_mcancel_ready hp hd hu, ht]
    exact ⟨rfl, rfl, fun ha => congrArg _ (if_pos ha), fun ha => congrArg _ (if_neg (by simp [ha]))⟩

end Sys2Proof.Machine
end

section
/-! SUPPORT. Floating-point words: results and flags of the lanes, compares, packed halves (R86, R88, R91 to R93). -/

namespace Sys2Proof.Machine

/-! ### Flags and results of the lanes -/

/-- The exceptions of a fold over lanes are those it starts with and those of its lanes. -/
theorem getLsbD_foldl_or (ls : List Nat) (f : Nat → FpFlags) (a : FpFlags) (e : Nat) :
    (ls.foldl (fun a l => a ||| f l) a).getLsbD e = true ↔ a.getLsbD e = true ∨ ∃ l ∈ ls, (f l).getLsbD e = true := by
  induction ls generalizing a with
  | nil => simp
  | cons l ls ih => simp [ih, or_assoc]

/-- R86: the flags of a word are those of the lanes it acts on. -/
theorem raisedBy_unionFlags (m : LaneMask) (f : Nat → FpFlags) : RaisedBy m f (unionFlags m f) := by
  intro e _
  rw [unionFlags, getLsbD_foldl_or]
  simp [lanesOf, and_assoc]

/-- A word of the register pipes, its registers in range, leaves the state `t` once it issues. -/
def Leaves (i : Instr) (s t : State) : Prop :=
  majorOf i < 0x1D ∧ regrange s.w.window i = false ∧ ∃ f : State → State, exec i s = issue i s f ∧ f s = t

theorem Leaves.exec_eq {i : Instr} {s t : State} (h : Leaves i s t) : exec i s = .next t := by
  obtain ⟨hm, hr, f, hx, rfl⟩ := h
  rw [hx, issue_plain f (by omega) (by omega) hr]

section Words
variable {i : Instr} {s : State} {d : Nat}

/-- A word with a 32-bit result in each lane writes the results and raises the flags. -/
theorem exec_fpV {g : Nat → Nat × FpFlags} (h : Leaves i s (fpV s d g)) : ∃ fl, RaisedBy (liveMask s) (fun l => (g l).2) fl ∧
    exec i s = .next (raise (withWarp s (setV s.w (liveMask s) d fun l => BitVec.ofNat 32 (g l).1)) fl) :=
  ⟨_, raisedBy_unionFlags _ _, h.exec_eq⟩

/-- A word with a pair in each lane writes its low half to the register named and its high half to the next. -/
theorem exec_fpV2 {g : Nat → Nat × FpFlags} (h : Leaves i s (fpV2 s d g)) : ∃ fl, RaisedBy (liveMask s) (fun l => (g l).2) fl ∧
    exec i s = .next (raise (withWarp s (setV (setV s.w (liveMask s) d fun l => BitVec.ofNat 32 (g l).1)
      (liveMask s) (d + 1) fun l => BitVec.ofNat 32 ((g l).1 / 2 ^ 32))) fl) :=
  ⟨_, raisedBy_unionFlags _ _, h.exec_eq⟩

/-- A word with a predicate in each lane. -/
theorem exec_fpP {g : Nat → Bool × FpFlags} (h : Leaves i s (fpP s d g)) : ∃ fl, RaisedBy (liveMask s) (fun l => (g l).2) fl ∧
    exec i s = .next (raise (withWarp s (setP s.w (liveMask s) d fun l => (g l).1)) fl) :=
  ⟨_, raisedBy_unionFlags _ _, h.exec_eq⟩

end Words

/-! ### Register fields -/

/-- An aligned span of vector registers inside the window is in range, read or written. -/
theorem bad_inWindow {s : State} {r n : Nat} (h : InWindow s r n) :
    Field.bad s.w.window (vs r n) = false ∧ Field.bad s.w.window (vw r n) = false ∧ Field.bad s.w.window (vx r n) = false :=
  ⟨bad_vn _ _ _ h.1 h.2, bad_vn _ _ _ h.1 h.2, bad_vn _ _ _ h.1 h.2⟩

theorem inWindow_one {s : State} {r : Nat} : InWindow s r 1 ↔ r < s.w.window := by
  simp [InWindow, Nat.mod_one]

theorem bad_bop {s : State} {u : Bool} {b : Nat} (h : BInRange s u b) : Field.bad s.w.window (bop u b) = false := by
  cases u
  · exact (bad_v ..).trans (decide_eq_false (Nat.not_le.2 h))
  · exact (bad_s ..).trans (decide_eq_false (Nat.not_le.2 h))

/-! ### Compares (R93) -/

/-- R93: when a condition holds of two numbers, and when it is invalid. -/
def CompareHolds (cc : FCond) (x y : Num) : Prop :=
  if x.isNan ∨ y.isNan then cc = .ne ∨ cc = .uno else match cc with
    | .eq => x.cmp y = 0 | .ne => x.cmp y ≠ 0 | .lt => x.cmp y < 0 | .le => x.cmp y ≤ 0 | .gt => 0 < x.cmp y
    | .ge => 0 ≤ x.cmp y | .uno => False | .ord => True
def CompareInvalid (cc : FCond) (x y : Num) : Prop :=
  match cc with
  | .lt | .le | .gt | .ge => x.isNan = true ∨ y.isNan = true
  | _ => x = .nan true ∨ y = .nan true

theorem compare_holds (f : Fmt) (cc : FCond) (ftz : Bool) (a b : Nat) :
    (f.compare cc ftz a b).1 = true ↔ CompareHolds cc (f.decodeFtz ftz a) (f.decodeFtz ftz b) := by
  unfold CompareHolds Fmt.compare
  by_cases h : (f.decodeFtz ftz a).isNan = true ∨ (f.decodeFtz ftz b).isNan = true
  · have hun : ((f.decodeFtz ftz a).isNan || (f.decodeFtz ftz b).isNan) = true := by simpa using h
    rw [if_pos h]
    cases cc <;> simp [hun]
  · have hun : ((f.decodeFtz ftz a).isNan || (f.decodeFtz ftz b).isNan) = false := by simpa using h
    rw [if_neg h]
    cases cc <;> simp [hun]

/-- NV of two operands is that of a signalling NaN among them (R44). -/
theorem sig_or_sig (x y : Num) : (x = .nan true ∨ y = .nan true → x.sig ||| y.sig = flNV) ∧
    (¬ (x = .nan true ∨ y = .nan true) → x.sig ||| y.sig = 0) := by
  have hsig (a : Num) : a.sig = if a = .nan true then flNV else 0 := by rcases a with (_ | _) | _ | _ <;> rfl
  rw [hsig x, hsig y]
  by_cases hx : x = .nan true <;> by_cases hy : y = .nan true <;> simp [hx, hy]

theorem compare_flags (f : Fmt) (cc : FCond) (ftz : Bool) (a b : Nat) :
    (CompareInvalid cc (f.decodeFtz ftz a) (f.decodeFtz ftz b) → (f.compare cc ftz a b).2 = flNV) ∧
      (¬ CompareInvalid cc (f.decodeFtz ftz a) (f.decodeFtz ftz b) → (f.compare cc ftz a b).2 = 0) := by
  have hq := sig_or_sig (f.decodeFtz ftz a) (f.decodeFtz ftz b)
  have ho : let un := (f.decodeFtz ftz a).isNan || (f.decodeFtz ftz b).isNan
      let bad := (f.decodeFtz ftz a).isNan = true ∨ (f.decodeFtz ftz b).isNan = true
      (bad → (if un = true then flNV else 0) = flNV) ∧ (¬ bad → (if un = true then flNV else 0) = 0) :=
    ⟨fun h => if_pos (by simpa using h), fun h => if_neg (by simpa using h)⟩
  cases cc
  case lt | le | gt | ge => exact ho
  case eq | ne | uno | ord => exact hq

/-- Settles O19: each word is its format's compare in every lane, whose truth and NV are those of `compare_holds` and
`compare_flags`. -/
theorem floatComparesWriteTheirCondition : Obligations.FloatComparesWriteTheirCondition := by
  intro s cc d a b hd ftz holds invalid writes
  have hp : Field.bad s.w.window (pw d) = false := (bad_p ..).trans (decide_eq_false (Nat.not_le.2 hd))
  refine ⟨fun ha hb => ?_, fun ha hb => ?_⟩
  · have hr : regrange s.w.window (.vfcmp cc d a b) = false := by
      simp [regrange, hp, bad_inWindow (inWindow_one.2 ha), bad_inWindow (inWindow_one.2 hb)]
    obtain ⟨fl, hfl, hexec⟩ := exec_fpP ⟨by simp, hr, _, exec_vfcmp cc d a b s, rfl⟩
    exact ⟨_, _, fl, hfl, fun l => ⟨compare_holds .., compare_flags ..⟩, hexec⟩
  · have hr : regrange s.w.window (.vfcmpF64 cc d a b) = false := by
      simp [regrange, hp, bad_inWindow ha, bad_inWindow hb]
    obtain ⟨fl, hfl, hexec⟩ := exec_fpP ⟨by simp, hr, _, exec_vfcmpF64 cc d a b s, rfl⟩
    exact ⟨_, _, fl, hfl, fun l => ⟨compare_holds .., compare_flags ..⟩, hexec⟩

/-! ### Pairs and packed halves (R91, R92) -/

/-- Settles O17: each word is its FP64 operation on the pairs of every lane. -/
theorem doublePrecisionWordsComputeTheirResults : Obligations.DoublePrecisionWordsComputeTheirResults := by
  intro s d a b hd ha hb rm ftz pair
  simp only [List.forall_mem_cons]
  refine ⟨?_, ?_, ?_, ?_, ?_, ?_, by simp⟩
  all_goals
    exact exec_fpV2 ⟨by simp, by simp [regrange, bad_inWindow hd, bad_inWindow ha, bad_inWindow hb], _, by rfl, by rfl⟩

/-- Half `e` of a packed register. -/
def halfOf (x : Word) (e : Nat) : Nat := x.toNat / 2 ^ (16 * e) % 2 ^ 16

/-- A packed word computes each half by itself. -/
theorem half2_eq (f : Nat → Nat → Nat → Nat × FpFlags) (x y z : Word) :
    let r (e : Nat) := f (halfOf x e) (halfOf y e) (halfOf z e)
    half2 f x y z = ((r 0).1 + 2 ^ 16 * (r 1).1, (r 0).2 ||| (r 1).2) := by
  have h0 (x : Word) : halfOf x 0 = x.toNat % 2 ^ 16 := by simp [halfOf]
  have h1 (x : Word) : halfOf x 1 = x.toNat / 2 ^ 16 := Nat.mod_eq_of_lt (by have := x.isLt; omega)
  simp only [h0, h1]
  rfl

/-- Settles O18: each word is its element operation on both halves of every lane. -/
theorem packedHalfWordsComputeBothElements : Obligations.PackedHalfWordsComputeBothElements := by
  intro s h d a b hd ha hb rm ftz f elem
  have hd := bad_inWindow (inWindow_one.2 hd)
  have ha := bad_inWindow (inWindow_one.2 ha)
  have hb := bad_inWindow (inWindow_one.2 hb)
  simp only [List.forall_mem_cons]
  refine ⟨?_, ?_, ?_, ?_, by simp⟩
  all_goals
    exact exec_fpV (g := fun l => (_, _)) ⟨by simp, by simp [regrange, hd, ha, hb],
      _, by rfl, congrArg (fpV s d) (funext fun l => half2_eq ..)⟩

end Sys2Proof.Machine
end

section
/-! SUPPORT. The lesser and the greater of two numbers by their codes, and the FP32 words (R88 to R90). -/

namespace Sys2Proof.Machine

/-! ### Numbers and the codes that stand for them -/

/-- A code as an operation reads it: under FTZ a subnormal one is the zero of its sign (R45). -/
def flushed (f : Fmt) (ftz : Bool) (x : Nat) : Nat :=
  if ftz = true ∧ expField f x = 0 then signBit f x * 2 ^ (f.eb + f.fb) else x

/-- A number, no NaN, is the one of sign `neg` and magnitude code `c`. -/
def Stands (f : Fmt) (a : Num) (neg : Bool) (c : Nat) : Prop :=
  match a with
  | .nan _ => False
  | .inf n => n = neg ∧ c = f.infCode
  | .fin n m e => n = neg ∧ c < f.infCode ∧ (m : ℚ) * 2 ^ e = magOf f c

/-- The place of a number among all: −0 stands just below +0 (R89). -/
def rank (neg : Bool) (c : Nat) : Int := if neg then -(c : Int) - 1 else c

theorem magOf_strictMono (f : Fmt) : StrictMono (magOf f) := strictMono_nat_of_lt_succ (magOf_lt_succ f)

theorem magOf_zero (f : Fmt) : magOf f 0 = 0 := by simp [magOf]

theorem magOf_nonneg (f : Fmt) (c : Nat) : 0 ≤ magOf f c :=
  (magOf_zero f).symm.le.trans ((magOf_strictMono f).monotone (Nat.zero_le c))

/-- The nearest code to the value of a code is that code. -/
theorem roundsTo_magOf {f : Fmt} {neg : Bool} {c q : Nat} (h : RoundsTo f 0 neg (magOf f c) q) : q = c := by
  have hmono := magOf_strictMono f
  simp only [RoundsTo, if_true] at h
  obtain ⟨hup, -, hdn⟩ := h
  rcases lt_trichotomy q c with hq | hq | hq
  · have := hmono.monotone (Nat.succ_le_of_lt hq)
    have := hmono hq
    linarith
  · exact hq
  · have := hmono.monotone (Nat.le_sub_one_of_lt hq)
    have := hmono hq
    have := (hdn (by omega)).1
    linarith

/-- A code that is no NaN is the number of its sign and its magnitude. -/
theorem stands_decodeFtz {f : Fmt} (hk : f.kind = .ieee) (he : 0 < f.eb) {x : Nat} (hn : ¬ IsNaN f x) (ftz : Bool) :
    Stands f (f.decodeFtz ftz x) (signBit f x == 1) (flushed f ftz x % 2 ^ (f.eb + f.fb)) := by
  have hr : x % 2 ^ f.fb < 2 ^ f.fb := Nat.mod_lt _ (by positivity)
  have hlt : expField f x < 2 ^ f.eb := Nat.mod_lt _ (by positivity)
  have h1 := Nat.one_lt_two_pow he.ne'
  by_cases ht : expField f x = 2 ^ f.eb - 1
  · have h0 : x % 2 ^ f.fb = 0 := by_contra fun h0 => hn ⟨ht, h0⟩
    rw [decodeFtz_inf hk he ht h0, flushed, if_neg (by omega), mod_top, ht, h0]
    exact ⟨rfl, rfl⟩
  · obtain ⟨m, e, hd, hv⟩ := decodeFtz_fin hk (show expField f x < 2 ^ f.eb - 1 by omega) ftz
    have habs : (m : ℚ) * 2 ^ e = |readAs f ftz x| := by rw [← hv, val_abs]
    rw [hd, flushed]
    refine ⟨rfl, ?_, ?_⟩
    · split
      · rw [Nat.mul_mod_left]
        exact Nat.mul_pos (by omega) (by positivity)
      · have hle := Nat.mul_le_mul_right (2 ^ f.fb) (show expField f x + 1 ≤ 2 ^ f.eb - 1 by omega)
        rw [mod_top, Fmt.infCode]
        linarith
    · rw [habs, readAs]
      split
      · rw [Nat.mul_mod_left, magOf_zero, abs_zero]
      · split <;> simp [abs_of_nonneg (magOf_nonneg ..)]

/-- Two magnitudes with their signs stand in the order of their ranks, a zero of negative sign below one of positive sign. -/
theorem signed_magOf_lt (f : Fmt) (n n' : Bool) (c c' : Nat) :
    let v (n : Bool) (c : Nat) : ℚ := if n then -magOf f c else magOf f c
    (v n c < v n' c' ∨ v n c = v n' c' ∧ (n = true ∧ c = 0) ∧ ¬ (n' = true ∧ c' = 0)) ↔ rank n c < rank n' c' := by
  intro v
  have hmono := magOf_strictMono f
  have h := magOf_nonneg f c
  have h' := magOf_nonneg f c'
  cases n <;> cases n'
  case false.false => simp [v, rank, hmono.lt_iff_lt]
  case true.true =>
    simp only [v, rank, if_true, neg_lt_neg_iff, neg_inj, hmono.lt_iff_lt, hmono.injective.eq_iff, true_and]
    omega
  case false.true =>
    refine iff_of_false ?_ (by simp only [rank, if_true, Bool.false_eq_true, if_false]; omega)
    simp only [v, if_true, Bool.false_eq_true, if_false, false_and, and_false, or_false]
    linarith
  case true.false =>
    refine iff_of_true ?_ (by simp only [rank, if_true, Bool.false_eq_true, if_false]; omega)
    rcases (neg_nonpos.2 h |>.trans h').lt_or_eq with hlt | heq
    · exact .inl hlt
    · have hc : magOf f c = magOf f 0 := by rw [magOf_zero]; linarith
      exact .inr ⟨heq, ⟨rfl, hmono.injective hc⟩, by simp⟩

/-- Finite numbers lie between the infinities. -/
theorem rank_between {c i : Nat} (n : Bool) (h : c < i) : rank true i < rank n c ∧ rank n c < rank false i := by
  cases n <;> simp only [rank, if_true, Bool.false_eq_true, if_false] <;> omega

/-- What `Fmt.minmax` asks of two numbers: the first is less, or −0 beside +0 (`minmax_numbers`). -/
def Num.less (a b : Num) : Bool := decide (a.cmp b < 0) || (a.cmp b == 0 && (a.zeroNeg && !b.zeroNeg))

section Stands
variable {f : Fmt} {a b : Num} {n n' : Bool} {c c' : Nat}

/-- A number's code is its sign and its magnitude code: writing it rounds nothing. -/
theorem Stands.round (hk : f.kind = .ieee) (hf : 0 < f.fb) (h : Stands f a n c) :
    (f.round 0 false a).1 = f.sign n + c := by
  cases a with
  | nan s => exact h.elim
  | inf s =>
    obtain ⟨rfl, rfl⟩ := h
    rfl
  | fin s m e =>
    obtain ⟨rfl, hc, hv⟩ := h
    by_cases hm : m = 0
    · have hc0 : magOf f c = magOf f 0 := by rw [← hv, magOf_zero, hm]; simp
      rw [(magOf_strictMono f).injective hc0, hm, round_zero]
      rfl
    · obtain ⟨hto, -, -⟩ := roundMag_spec hf (by omega : 0 < 4) s hm e
      rw [hv] at hto
      have hq := roundsTo_magOf hto
      have hmax : f.maxCode = f.infCode - 1 := by simp [Fmt.maxCode, hk, Fmt.infCode]
      simp only [Fmt.round, hm, if_false, hq, Bool.false_and, Bool.false_eq_true]
      rw [if_neg (by omega)]

/-- Finite numbers are compared by their values. -/
theorem cmp_fin (n n' : Bool) (m m' : Nat) (e e' : ℤ) :
    let v := (Num.fin n m e).val
    let v' := (Num.fin n' m' e').val
    ((Num.fin n m e).cmp (.fin n' m' e') < 0 ↔ v < v') ∧ ((Num.fin n m e).cmp (.fin n' m' e') = 0 ↔ v = v') := by
  intro v v'
  set x := min e e' with hx
  set t := Num.sm n (m * 2 ^ (e - x).toNat) - Num.sm n' (m' * 2 ^ (e' - x).toNat) with ht
  have hp := two_zpow_pos x
  have hv : (t : ℚ) * 2 ^ x = v - v' := by
    rw [ht]
    push_cast
    rw [sub_mul, sm_align (min_le_left ..), sm_align (min_le_right ..)]
  have hcmp : (Num.fin n m e).cmp (.fin n' m' e') = if t < 0 then -1 else if t = 0 then 0 else 1 := rfl
  have hlt : t < 0 ↔ v < v' := by rw [← sub_neg (a := v), ← hv, mul_neg_iff]; simp [hp, hp.not_gt]
  have heq : t = 0 ↔ v = v' := by rw [← sub_eq_zero (a := v), ← hv, mul_eq_zero, or_iff_left hp.ne', Int.cast_eq_zero]
  rw [hcmp, ← hlt, ← heq]
  constructor <;> split <;> (try split) <;> omega

theorem Stands.zeroNeg_fin {m : Nat} {e : ℤ} (h : Stands f (.fin n m e) n' c) :
    (Num.fin n m e).zeroNeg = true ↔ n' = true ∧ c = 0 := by
  obtain ⟨rfl, -, hv⟩ := h
  have h0 : m = 0 ↔ c = 0 := by
    rw [← (magOf_strictMono f).injective.eq_iff (a := c), ← hv, magOf_zero, mul_eq_zero, or_iff_left (two_zpow_pos e).ne', Nat.cast_eq_zero]
  rw [← h0]
  cases m <;> simp [Num.zeroNeg]

/-- The order of two numbers, −0 below +0, is that of their ranks (R89). -/
theorem Stands.less_iff (h : Stands f a n c) (h' : Stands f b n' c') : a.less b = true ↔ rank n c < rank n' c' := by
  cases a with
  | nan s => exact h.elim
  | inf s =>
    obtain ⟨rfl, rfl⟩ := h
    cases b with
    | nan s' => exact h'.elim
    | inf s' =>
      obtain ⟨rfl, rfl⟩ := h'
      simp only [Num.less, Num.cmp, Num.zeroNeg, rank]
      cases s <;> cases s' <;> simp; omega
    | fin s' m' e' =>
      obtain ⟨rfl, hc, -⟩ := h'
      obtain ⟨hlo, hhi⟩ := rank_between s' hc
      cases s
      · exact iff_of_false (by simp [Num.less, Num.cmp]) hhi.not_gt
      · exact iff_of_true rfl hlo
  | fin s m e =>
    cases b with
    | nan s' => exact h'.elim
    | inf s' =>
      obtain ⟨rfl, hc, -⟩ := h
      obtain ⟨rfl, rfl⟩ := h'
      obtain ⟨hlo, hhi⟩ := rank_between s hc
      cases s'
      · exact iff_of_true rfl hhi
      · exact iff_of_false (by simp [Num.less, Num.cmp]) hlo.not_gt
    | fin s' m' e' =>
      have hz := h.zeroNeg_fin
      have hz' := h'.zeroNeg_fin
      obtain ⟨rfl, -, hv⟩ := h
      obtain ⟨rfl, -, hv'⟩ := h'
      obtain ⟨hlt, heq⟩ := cmp_fin s s' m m' e e'
      rw [Num.less, Bool.or_eq_true, decide_eq_true_eq, Bool.and_eq_true, beq_iff_eq, Bool.and_eq_true, Bool.not_eq_true', hlt, heq, hz,
        ← Bool.not_eq_true, hz', val_fin, val_fin, hv, hv']
      exact signed_magOf_lt f s s' c c'

end Stands

/-! ### The minimum and the maximum (R89) -/

/-- A code's place among all, −0 just below +0. -/
def codeRank (f : Fmt) (x : Nat) : Int :=
  if signBit f x = 1 then -(x % 2 ^ (f.eb + f.fb) : Nat) - 1 else (x % 2 ^ (f.eb + f.fb) : Nat)

theorem codeRank_eq (f : Fmt) (x : Nat) : codeRank f x = rank (signBit f x == 1) (x % 2 ^ (f.eb + f.fb)) := by
  simp [codeRank, rank]

section Codes
variable {f : Fmt} {ftz : Bool} {x y : Nat}

theorem signBit_lt_two (f : Fmt) (x : Nat) : signBit f x < 2 := Nat.mod_lt _ two_pos

/-- A code is known by its place. -/
theorem codeRank_injOn (hx : x < 2 * 2 ^ (f.eb + f.fb)) (hy : y < 2 * 2 ^ (f.eb + f.fb)) (h : codeRank f x = codeRank f y) :
    x = y := by
  have hs := signBit_lt_two f x
  have hs' := signBit_lt_two f y
  rw [code_eq hx, code_eq hy]
  unfold codeRank at h
  have : signBit f x = signBit f y ∧ x % 2 ^ (f.eb + f.fb) = y % 2 ^ (f.eb + f.fb) := by split at h <;> split at h <;> omega
  rw [this.1, this.2]

theorem flushed_lt (hx : x < 2 * 2 ^ (f.eb + f.fb)) : flushed f ftz x < 2 * 2 ^ (f.eb + f.fb) := by
  unfold flushed
  split
  · exact Nat.mul_lt_mul_of_pos_right (signBit_lt_two f x) (by positivity)
  · exact hx

theorem signBit_flushed : signBit f (flushed f ftz x) = signBit f x := by
  unfold flushed
  split
  · rw [signBit, Nat.mul_div_cancel _ (by positivity), Nat.mod_eq_of_lt (signBit_lt_two f x)]
  · rfl

/-- A code above that of infinity is a NaN. -/
theorem isNaN_iff : IsNaN f x ↔ f.infCode < x % 2 ^ (f.eb + f.fb) := by
  have hlt : expField f x < 2 ^ f.eb := Nat.mod_lt _ (by positivity)
  have hr : x % 2 ^ f.fb < 2 ^ f.fb := Nat.mod_lt _ (by positivity)
  have hx : IsNaN f x ↔ expField f x = 2 ^ f.eb - 1 ∧ x % 2 ^ f.fb ≠ 0 := Iff.rfl
  rw [hx, mod_top, Fmt.infCode]
  rcases Nat.lt_or_ge (expField f x) (2 ^ f.eb - 1) with h | h
  · have hle := Nat.mul_le_mul_right (2 ^ f.fb) (show expField f x + 1 ≤ 2 ^ f.eb - 1 by omega)
    rw [Nat.succ_mul] at hle
    omega
  · rw [show expField f x = 2 ^ f.eb - 1 by omega]
    omega

variable (hk : f.kind = .ieee) (hf : 0 < f.fb) (he : 0 < f.eb)
include hk hf he

/-- A number written again is the code that was read. -/
theorem round_decodeFtz (hx : x < 2 * 2 ^ (f.eb + f.fb)) (hn : ¬ IsNaN f x) :
    (f.round 0 false (f.decodeFtz ftz x)).1 = flushed f ftz x := by
  rw [(stands_decodeFtz hk he hn ftz).round hk hf, sign_eq, ← signBit_flushed (ftz := ftz), ← code_eq (flushed_lt hx)]

omit hf in
/-- NV of two operands is raised just where one of them is a signalling NaN. -/
theorem sig_or_sig_code : (IsSNaN f x ∨ IsSNaN f y → (f.decodeFtz ftz x).sig ||| (f.decodeFtz ftz y).sig = flNV) ∧
    (¬ (IsSNaN f x ∨ IsSNaN f y) → (f.decodeFtz ftz x).sig ||| (f.decodeFtz ftz y).sig = 0) := by
  refine ⟨fun h => ?_, fun h => ?_⟩
  · rcases h with h | h
    · rw [sig_of_sNaN hk he h, flNV_or_sig]
    · rw [sig_of_sNaN hk he h, BitVec.or_comm, flNV_or_sig]
  · rw [sig_of_not_sNaN hk he (not_or.1 h).1, sig_of_not_sNaN hk he (not_or.1 h).2]
    rfl

/-- R89: of two NaNs the canonical one; beside one NaN the other operand. -/
theorem minmax_nan (mx : Bool) :
    let fl := (f.decodeFtz ftz x).sig ||| (f.decodeFtz ftz y).sig
    (IsNaN f x → IsNaN f y → f.minmax mx ftz x y = (f.nanCode, fl)) ∧
      (IsNaN f x → ¬ IsNaN f y → y < 2 * 2 ^ (f.eb + f.fb) → f.minmax mx ftz x y = (flushed f ftz y, fl)) ∧
      (¬ IsNaN f x → IsNaN f y → x < 2 * 2 ^ (f.eb + f.fb) → f.minmax mx ftz x y = (flushed f ftz x, fl)) := by
  intro fl
  refine ⟨fun hx hy => ?_, fun hx hy h => ?_, fun hx hy h => ?_⟩
  · simp only [Fmt.minmax, isNan_decodeFtz hk he hx, isNan_decodeFtz hk he hy, fl]
  · simp only [Fmt.minmax, isNan_decodeFtz hk he hx, isNan_decodeFtz_of_not hk hy, round_decodeFtz hk hf he h hy, fl]
  · simp only [Fmt.minmax, isNan_decodeFtz_of_not hk hx, isNan_decodeFtz hk he hy, round_decodeFtz hk hf he h hx, fl]

/-- R89: of two numbers the lesser or the greater by their places. -/
theorem minmax_numbers (hx : x < 2 * 2 ^ (f.eb + f.fb)) (hy : y < 2 * 2 ^ (f.eb + f.fb)) (hnx : ¬ IsNaN f x)
    (hny : ¬ IsNaN f y) :
    f.minmax false ftz x y =
        (if codeRank f (flushed f ftz x) ≤ codeRank f (flushed f ftz y) then flushed f ftz x else flushed f ftz y, 0) ∧
      f.minmax true ftz x y =
        (if codeRank f (flushed f ftz x) ≤ codeRank f (flushed f ftz y) then flushed f ftz y else flushed f ftz x, 0) := by
  have hless := (stands_decodeFtz hk he hnx ftz).less_iff (stands_decodeFtz hk he hny ftz)
  rw [← signBit_flushed (ftz := ftz), ← signBit_flushed (x := y) (ftz := ftz), ← codeRank_eq, ← codeRank_eq] at hless
  have hfl := (sig_or_sig_code (ftz := ftz) hk he).2 (not_or.2 ⟨fun h => hnx h.1, fun h => hny h.1⟩)
  have hmm (mx : Bool) : f.minmax mx ftz x y =
      (if (f.decodeFtz ftz x).less (f.decodeFtz ftz y) != mx then flushed f ftz x else flushed f ftz y, 0) := by
    rw [← round_decodeFtz hk hf he hx hnx, ← round_decodeFtz hk hf he hy hny, ← hfl,
      ← apply_ite fun a => (f.round 0 false a).1]
    simp only [Fmt.minmax, isNan_decodeFtz_of_not hk hnx, isNan_decodeFtz_of_not hk hny] <;> rfl
  rw [hmm, hmm]
  rcases lt_trichotomy (codeRank f (flushed f ftz x)) (codeRank f (flushed f ftz y)) with h | h | h
  · simp [hless.2 h, h.le]
  · simp [codeRank_injOn (flushed_lt hx) (flushed_lt hy) h]
  · simp [Bool.eq_false_iff.2 fun hl => h.not_gt (hless.1 hl), h.not_ge]

end Codes

/-! ### The FP32 words -/

/-- R90: the magnitude of one word with the sign of another. -/
theorem copySign_eq (x y : Word) :
    (x &&& 0x7FFFFFFF) ||| (y &&& 0x80000000) = BitVec.ofNat 32 (x.toNat % 2 ^ 31 + y.toNat / 2 ^ 31 * 2 ^ 31) := by
  have hx : (x &&& 0x7FFFFFFF).toNat = x.toNat % 2 ^ 31 := Nat.and_two_pow_sub_one_eq_mod x.toNat 31
  have hs : (y &&& 0x80000000).toNat = 2 ^ 31 * (y.toNat / 2 ^ 31 % 2) := by
    rw [Nat.mul_comm, ← Nat.toNat_testBit]
    exact Nat.and_two_pow y.toNat 31
  have hy := y.isLt
  apply BitVec.eq_of_toNat_eq
  rw [BitVec.toNat_or, hx, hs, Nat.or_comm, ← Nat.two_pow_add_eq_or_of_lt (Nat.mod_lt _ (by positivity)), BitVec.toNat_ofNat]
  omega

/-- Settles O16: the minimum and maximum by the places of the codes read, and each word its FP32 operation in every lane. -/
theorem singlePrecisionWordsComputeTheirResults : Obligations.SinglePrecisionWordsComputeTheirResults := by
  intro s u d a b hd ha hb rm ftz x y
  have hd := bad_inWindow (inWindow_one.2 hd)
  have ha := bad_inWindow (inWindow_one.2 ha)
  have hb := bad_bop hb
  refine ⟨?_, ?_, ?_⟩
  · intro f hmem ftz x y hx hy top inf isNaN sNaN nv z rank
    have hfmt : f.kind = .ieee ∧ 0 < f.fb ∧ 0 < f.eb := by
      simp only [List.mem_cons, List.not_mem_nil, or_false] at hmem
      rcases hmem with rfl | rfl <;> decide
    obtain ⟨hk, hf, he⟩ := hfmt
    have hN (x : Nat) : isNaN x ↔ IsNaN f x := isNaN_iff.symm
    have hS (x : Nat) : sNaN x ↔ IsSNaN f x := and_congr_left' (hN x)
    have hnv (r : Nat) : (r, (f.decodeFtz ftz x).sig ||| (f.decodeFtz ftz y).sig) = nv r := by
      obtain ⟨h1, h0⟩ := sig_or_sig_code (ftz := ftz) (x := x) (y := y) hk he
      rw [← hS, ← hS] at h1 h0
      simp only [nv]
      split
      · rw [h1 ‹_›]
      · rw [h0 ‹_›]
    have hc : f.nanCode = inf + 2 ^ (f.fb - 1) := by simp only [Fmt.nanCode, hk, inf]
    simp only [hN, ← hnv, ← hc]
    have hnan (mx : Bool) := minmax_nan (ftz := ftz) (x := x) (y := y) hk hf he mx
    exact ⟨fun h h' mx => (hnan mx).1 h h', fun h h' mx => (hnan mx).2.1 h h' hy, fun h h' mx => (hnan mx).2.2 h h' hx,
      minmax_numbers hk hf he hx hy⟩
  · simp only [List.forall_mem_cons]
    refine ⟨?_, ?_, ?_, ?_, ?_, ?_, ?_, by simp⟩
    all_goals
      exact exec_fpV ⟨by simp, by simp [regrange, hd, ha, hb], _, by rfl, by rfl⟩
  · refine Leaves.exec_eq ⟨by simp, by simp [regrange, hd, ha, hb], _, by rfl, ?_⟩
    exact congrArg (wrV s d) (funext fun l => copySign_eq ..)

end Sys2Proof.Machine
end

section
/-! SUPPORT. Conversions: the codes they give fit their formats, and packed elements (R54, R55, R94, R95). -/

namespace Sys2Proof.Machine

/-! ### The size of a converted element -/

/-- The largest number, infinity and the canonical NaN are codes without a sign. -/
theorem specialCodes_lt {f : Fmt} (hf : 0 < f.fb) :
    f.maxCode < 2 ^ (f.eb + f.fb) ∧ f.infCode < 2 ^ (f.eb + f.fb) ∧ f.nanCode < 2 ^ (f.eb + f.fb) := by
  have hp : 0 < 2 ^ f.eb := by positivity
  have hq : 2 ^ (f.fb - 1) < 2 ^ f.fb := Nat.pow_lt_pow_right (by omega) (by omega)
  have hi : (2 ^ f.eb - 1) * 2 ^ f.fb + 2 ^ f.fb = 2 ^ (f.eb + f.fb) := by
    rw [← Nat.succ_mul, Nat.succ_eq_add_one, Nat.sub_add_cancel hp, Nat.pow_add]
  unfold Fmt.maxCode Fmt.infCode Fmt.nanCode
  generalize (2 ^ f.eb - 1) * 2 ^ f.fb = c at hi ⊢
  generalize 2 ^ (f.eb + f.fb) = top at hi ⊢
  generalize 2 ^ (f.fb - 1) = quiet at hq ⊢
  cases f.kind <;> dsimp only <;> omega

/-- R54: a converted number is a code of its format. -/
theorem cvt_lt {f : Fmt} {n : Nat} (hf : 0 < f.fb) (hn : f.eb + f.fb + 1 = n) (rm : Nat) (sat ftz : Bool) (x : Num) :
    (f.cvt rm sat ftz x).1 < 2 ^ n := by
  obtain ⟨hmax, hinf, hnan⟩ := specialCodes_lt hf
  rw [← hn, Nat.pow_succ]
  have hs (neg : Bool) : f.sign neg ≤ 2 ^ (f.eb + f.fb) := by cases neg <;> simp [Fmt.sign]
  cases x with
  | nan sig =>
    simp only [Fmt.cvt]
    split_ifs <;> dsimp only <;> omega
  | inf neg =>
    have := hs neg
    simp only [Fmt.cvt]
    split_ifs <;> dsimp only <;> omega
  | fin neg m e =>
    have := hs neg
    simp only [Fmt.cvt]
    split_ifs <;> dsimp only <;> omega

/-- R55: an integer target keeps the low bits. -/
theorem intBits_lt (n : Nat) (r : Int × FpFlags) : (intBits n r).1 < 2 ^ n := by
  have h := Int.emod_lt_of_pos r.1 (show (0 : Int) < 2 ^ n by positivity)
  have h0 := Int.emod_nonneg r.1 (show (2 : Int) ^ n ≠ 0 by positivity)
  rw [intBits, ← Int.ofNat_lt, Int.toNat_of_nonneg h0]
  exact_mod_cast h

/-! ### Packed elements (R95) -/

section Packed
variable {w : Nat} {f : Nat → Nat × FpFlags} (hf : ∀ e, (f e).1 < 2 ^ w)
include hf

theorem packed_two : packed w 2 f = ((f 0).1 + 2 ^ w * (f 1).1, (f 0).2 ||| (f 1).2) := by
  simp [packed, List.range_succ, Nat.mod_eq_of_lt (hf _)]

theorem packed_four : packed w 4 f =
    ((f 0).1 + 2 ^ w * (f 1).1 + 2 ^ (w * 2) * (f 2).1 + 2 ^ (w * 3) * (f 3).1, (f 0).2 ||| (f 1).2 ||| (f 2).2 ||| (f 3).2) := by
  simp [packed, List.range_succ, Nat.mod_eq_of_lt (hf _)]

end Packed

section Words
variable {i : Instr} {s : State} {d : Nat} {r : Nat → Nat → Nat × FpFlags}

/-- A word that packs two elements in each lane. -/
theorem exec_packed_two (h : (∀ l e, (r l e).1 < 2 ^ 16) ∧ Leaves i s (fpV s d fun l => packed 16 2 (r l))) :
    ∃ fl, RaisedBy (liveMask s) (fun l => (r l 0).2 ||| (r l 1).2) fl ∧
      exec i s = .next (raise (withWarp s (setV s.w (liveMask s) d fun l =>
        BitVec.ofNat 32 ((r l 0).1 + 2 ^ 16 * (r l 1).1))) fl) := by
  obtain ⟨hf, h⟩ := h
  simp only [packed_two (hf _)] at h
  exact exec_fpV h

/-- A word that packs four elements in each lane. -/
theorem exec_packed_four (h : (∀ l e, (r l e).1 < 2 ^ 8) ∧ Leaves i s (fpV s d fun l => packed 8 4 (r l))) :
    ∃ fl, RaisedBy (liveMask s) (fun l => (r l 0).2 ||| (r l 1).2 ||| (r l 2).2 ||| (r l 3).2) fl ∧
      exec i s = .next (raise (withWarp s (setV s.w (liveMask s) d fun l =>
        BitVec.ofNat 32 ((r l 0).1 + 2 ^ 8 * (r l 1).1 + 2 ^ 16 * (r l 2).1 + 2 ^ 24 * (r l 3).1))) fl) := by
  obtain ⟨hf, h⟩ := h
  simp only [packed_four (hf _)] at h
  exact exec_fpV h

/-- A word whose pair is two 32-bit elements writes one to each register. -/
theorem exec_packed_pair (h : (∀ l e, (r l e).1 < 2 ^ 32) ∧ Leaves i s (fpV2 s d fun l => packed 32 2 (r l))) :
    ∃ fl, RaisedBy (liveMask s) (fun l => (r l 0).2 ||| (r l 1).2) fl ∧
      exec i s = .next (raise (withWarp s (setV (setV s.w (liveMask s) d fun l => BitVec.ofNat 32 (r l 0).1)
        (liveMask s) (d + 1) fun l => BitVec.ofNat 32 (r l 1).1)) fl) := by
  obtain ⟨hf, h⟩ := h
  simp only [packed_two (hf _)] at h
  obtain ⟨fl, hfl, hx⟩ := exec_fpV2 h
  have hlo (l : Nat) : BitVec.ofNat 32 ((r l 0).1 + 2 ^ 32 * (r l 1).1) = BitVec.ofNat 32 (r l 0).1 :=
    BitVec.eq_of_toNat_eq (by simp)
  have hhi (l : Nat) : ((r l 0).1 + 2 ^ 32 * (r l 1).1) / 2 ^ 32 = (r l 1).1 := by have := hf l 0; omega
  simp only [hlo, hhi] at hx
  exact ⟨fl, hfl, hx⟩

end Words

/-- Settles O20: each word is its conversion in every lane, of one element, a pair, or packed elements, which are codes of their
formats. -/
theorem conversionsWriteEveryElement : Obligations.ConversionsWriteEveryElement := by
  intro s d a sat rm ftz f32 f64 code int
  refine ⟨fun p hp hd ha => ?_, fun p hp hd ha => ?_, fun p hp hd ha => ?_, fun p hp hd ha => ?_, ?_⟩
  · refine exec_fpV ?_
    revert p
    simp only [List.forall_mem_cons]
    refine ⟨?_, ?_, ?_, ?_, ?_, ?_, ?_, by simp⟩
    all_goals
      intro ha
      exact ⟨by simp, by simp [regrange, bad_inWindow (inWindow_one.2 hd), bad_inWindow ha], _, by rfl, by rfl⟩
  · refine exec_fpV2 ?_
    revert p
    simp only [List.forall_mem_cons]
    refine ⟨?_, ?_, by simp⟩
    all_goals
      exact ⟨by simp, by simp [regrange, bad_inWindow hd, bad_inWindow (inWindow_one.2 ha)], _, by rfl, by rfl⟩
  · refine exec_packed_two ?_
    revert p
    simp only [List.forall_mem_cons]
    refine ⟨⟨fun l e => cvt_lt (by decide) rfl .., ?_⟩, ⟨fun l e => cvt_lt (by decide) rfl .., ?_⟩,
      ⟨fun l e => intBits_lt .., ?_⟩, by simp⟩
    all_goals
      exact ⟨by simp, by simp [regrange, bad_inWindow (inWindow_one.2 hd), bad_inWindow ha], _, by rfl, by rfl⟩
  · refine exec_packed_four ?_
    revert p
    simp only [List.forall_mem_cons]
    refine ⟨⟨fun l e => cvt_lt (by decide) rfl .., ?_⟩, ⟨fun l e => cvt_lt (by decide) rfl .., ?_⟩,
      ⟨fun l e => intBits_lt .., ?_⟩, by simp⟩
    all_goals
      exact ⟨by simp, by simp [regrange, bad_inWindow (inWindow_one.2 hd), bad_inWindow ha], _, by rfl, by rfl⟩
  · intro hd ha r
    exact exec_packed_pair (r := r) ⟨fun l e => cvt_lt (by decide) rfl .., by simp,
      by simp [regrange, bad_inWindow hd, bad_inWindow (inWindow_one.2 ha)], _, by rfl, by rfl⟩

end Sys2Proof.Machine
end

section
/-! SUPPORT. Words between lanes: members and receiving lanes, the absent-lane report, shuffles, votes (R112, R113, R146 to R151). -/

namespace Sys2Proof.Machine

/-! ### The lanes of a mask -/

theorem maskNat_lt (p : Nat → Bool) (n : Nat) : maskNat p n < 2 ^ n := by
  induction n with
  | zero => simp [maskNat]
  | succ n ih =>
    simp only [maskNat, pow_succ]
    split <;> omega

theorem maskNat_succ (p : Nat → Bool) (n : Nat) : maskNat p (n + 1) = (if p n then 2 ^ n else 0) ||| maskNat p n := by
  have hor := Nat.two_pow_add_eq_or_of_lt (maskNat_lt p n) 1
  rw [mul_one] at hor
  cases hp : p n
  · simp [maskNat, hp]
  · simp [maskNat, hp, ← hor, Nat.add_comm]

theorem testBit_maskNat (p : Nat → Bool) (n l : Nat) : (maskNat p n).testBit l = (decide (l < n) && p l) := by
  induction n with
  | zero => simp [maskNat]
  | succ n ih =>
    rw [maskNat_succ, Nat.testBit_or, ih]
    by_cases hl : n = l
    · cases hp : p n <;> simp [← hl, hp]
    · have hlt : l < n + 1 ↔ l < n := by omega
      cases hp : p n <;> simp [hlt, hl]

theorem getLsbD_maskOf {l : Nat} (p : Nat → Bool) (hl : l < 64) : (maskOf p).getLsbD l = p l := by
  simp only [maskOf, BitVec.getLsbD_ofNat, testBit_maskNat, hl, decide_true, Bool.true_and]

/-- A mask lists the lanes that its bits name. -/
theorem lanesOf_eq {m : LaneMask} {p : Nat → Bool} (h : ∀ l < 64, m.getLsbD l = p l) : lanesOf m = lanesThat p :=
  List.filter_congr fun l hl => h l (List.mem_range.1 hl)

theorem lowest_eq_head? (m : LaneMask) : lowest m = (lanesOf m).head? := by
  simp [lowest, lanesOf]

section Members
variable {s : State} {m l : Nat}

theorem getLsbD_members (hl : l < 64) : (members s m).getLsbD l = rdP s.old m l := getLsbD_maskOf _ hl

theorem getLsbD_recv (hl : l < 64) : (recv s m).getLsbD l = (s.iss.active.getLsbD l && rdP s.old m l) := by
  rw [recv, BitVec.getLsbD_and, getLsbD_members hl]

/-- R146, R255: a lane receives if the word acts on it and it is a member. -/
theorem getLsbD_recvLive (hl : l < 64) : (recvLive s m).getLsbD l = ((liveMask s).getLsbD l && rdP s.old m l) := by
  simp only [recvLive, liveMask, BitVec.getLsbD_and, getLsbD_recv hl]
  exact Bool.and_right_comm ..

/-- R151: the report names the members that are not Active. -/
theorem report_eq (s : State) (m : Nat) :
    report s m = withReport s fun l => rdP s.old m l && !s.iss.active.getLsbD l := by
  have hbit (l : Nat) : (members s m &&& ~~~s.iss.active).getLsbD l =
      (decide (l < 64) && (rdP s.old m l && !s.iss.active.getLsbD l)) := by
    by_cases hl : l < 64
    · simp only [BitVec.getLsbD_and, BitVec.getLsbD_not, getLsbD_members hl, hl, decide_true, Bool.true_and]
    · simp [hl]
  have hlanes := lanesOf_eq (m := members s m &&& ~~~s.iss.active) fun l hl => by rw [hbit, decide_eq_true hl, Bool.true_and]
  simp only [report, withReport, hbit, lowest_eq_head?, hlanes, List.headD_eq_head?_getD]
  rfl

end Members

theorem bad_ps {W m : Nat} (h : m < 8) : Field.bad W (ps m) = false := (bad_p ..).trans (decide_eq_false (Nat.not_le.2 h))

/-- A word between lanes whose effect is a result for its target and a report writes both. -/
theorem exec_report {i : Instr} {s : State} {t : Target} {ws : List RegWrite} {fl : FpFlags} {fp : Bool} {m : Nat}
    (ht : targetOf i = some t) (h : Leaves i s (report (addPend s i ws fl fp 0 false) m)) :
    exec i s = .next (withReport (withResult s t (laOf i) 0 ws fl fp) fun l => rdP s.old m l && !s.iss.active.getLsbD l) := by
  rw [h.exec_eq, addPend_some ht, report_eq]
  rfl

/-! ### Shuffles (R113, R148) -/

/-- R113: a member's register, and nothing of a lane that is no member or lies outside the warp. -/
theorem srcVal_eq {s : State} {m d : Nat} {j : Int} (hlen : s.old.lanes.length = 64) :
    srcVal s m d j = if 0 ≤ j ∧ j < 64 ∧ rdP s.old m j.toNat = true then some (rdV s.old d j.toNat) else none := by
  unfold srcVal
  by_cases hj : 0 ≤ j ∧ j < 64
  · have hn : j.toNat < 64 := by omega
    simp only [getLsbD_members hn, hlen, hn, and_true]
  · rw [if_neg (by tauto), if_neg (by tauto)]

/-- R148: what a shuffle writes to the lanes that receive, and its report. -/
theorem shuffle_eq {s : State} {i : Instr} {m d : Nat} (src : Nat → Int) (hlen : s.old.lanes.length = 64) :
    shuffle s i d m src = report (addPend s i
      ((lanesThat fun l => (liveMask s).getLsbD l && rdP s.old m l).flatMap fun l =>
        if 0 ≤ src l ∧ src l < 64 ∧ rdP s.old m (src l).toNat = true then [.v l d (rdV s.old d (src l).toNat)] else [])
      0 false 0 false) m := by
  rw [shuffle, laneWrites, lanesOf_eq fun l hl => getLsbD_recvLive hl]
  refine congrArg (fun ws => report (addPend s i ws 0 false 0 false) m) (List.flatMap_congr fun l _ => ?_)
  rw [srcVal_eq hlen]
  split_ifs <;> rfl

theorem exec_shuffle {i : Instr} {s : State} {t : Target} {m d : Nat} {src : Nat → Int} (hlen : s.old.lanes.length = 64)
    (ht : targetOf i = some t) (h : Leaves i s (shuffle s i d m src)) :
    exec i s = .next (withReport (withResult s t (laOf i) 0
      ((lanesThat fun l => (liveMask s).getLsbD l && rdP s.old m l).flatMap fun l =>
        if 0 ≤ src l ∧ src l < 64 ∧ rdP s.old m (src l).toNat = true then [.v l d (rdV s.old d (src l).toNat)] else []) 0 false)
      fun l => rdP s.old m l && !s.iss.active.getLsbD l) :=
  exec_report ht (shuffle_eq src hlen ▸ h)

/-- Settles O22: each word is a shuffle by its own source lanes. -/
theorem shufflesTakeTheirSourceLane : Obligations.ShufflesTakeTheirSourceLane := by
  intro s la d ua m hlen hm member absent n answers
  have hm : Field.bad s.w.window (ps m) = false := bad_ps (by omega)
  refine ⟨fun hd hua => ?_, fun hd => ?_⟩
  · have hd : Field.bad s.w.window (vx d).t = false := bad_vn _ _ _ (Nat.mod_one d) hd
    have hua : Field.bad s.w.window (us ua) = false := (bad_s ..).trans (decide_eq_false (Nat.not_le.2 hua))
    refine ⟨?_, ?_, ?_, ?_⟩
    all_goals
      exact exec_shuffle hlen rfl ⟨by simp, by simp [regrange, hd, hua, hm], _, by rfl, rfl⟩
  · have hd : Field.bad s.w.window (vx d 2).t = false := bad_vn _ _ _ hd.1 hd.2
    exact exec_shuffle hlen rfl ⟨by simp, by simp [regrange, hd, hm], _, by rfl, rfl⟩

/-! ### Votes and the ballot (R149) -/

section Votes
variable {s : State} {m p : Nat}

theorem mem_recv {l : Nat} : l ∈ lanesOf (recv s m) ↔ l < 64 ∧ (s.iss.active.getLsbD l && rdP s.old m l) = true := by
  rw [lanesOf_eq fun l hl => getLsbD_recv hl, lanesThat, List.mem_filter, List.mem_range]

theorem vote_any : (lanesOf (recv s m)).any (rdP s.old p) = true ↔
    ∃ l < 64, (s.iss.active.getLsbD l && rdP s.old m l) = true ∧ rdP s.old p l = true := by
  simp only [List.any_eq_true, mem_recv, and_assoc]

theorem vote_all : (lanesOf (recv s m)).all (rdP s.old p) = true ↔
    ∀ l < 64, (s.iss.active.getLsbD l && rdP s.old m l) = true → rdP s.old p l = true := by
  simp only [List.all_eq_true, mem_recv, and_imp]

/-- R149: a vote writes its bit to every lane that receives. -/
theorem vote_writes (s : State) (m d : Nat) (r : Bool) : (laneWrites (recvLive s m) fun l => [.p l d r]) =
    (lanesThat fun l => (liveMask s).getLsbD l && rdP s.old m l).map fun l => .p l d r := by
  rw [laneWrites, lanesOf_eq fun l hl => getLsbD_recvLive hl, List.map_eq_flatMap]

end Votes

/-- Settles O23: the lanes that count are those that receive; the votes ask them for `any` and `all`, the ballot for their mask. -/
theorem votesAndBallotsCountActiveMembers : Obligations.VotesAndBallotsCountActiveMembers := by
  intro s la d p m hp hm member counts absent bits
  have hp : Field.bad s.w.window (ps p) = false := bad_ps hp
  have hm : Field.bad s.w.window (ps m) = false := bad_ps (by omega)
  refine ⟨fun hd => ?_, fun ha hd => ?_⟩
  · have hd : Field.bad s.w.window (pw d).t = false := (bad_p ..).trans (decide_eq_false (Nat.not_le.2 hd))
    refine ⟨⟨_, vote_any, ?_⟩, ⟨_, vote_all, ?_⟩⟩
    all_goals
      refine (exec_report rfl ⟨by simp, by simp [regrange, hd, hp, hm], _, by rfl, rfl⟩).trans ?_
      rw [vote_writes]
      rfl
  · have hd : Field.bad s.w.window (uw d 2).t = false := bad_sn _ _ _ ha hd
    refine ⟨maskOf fun l => (recv s m).getLsbD l && rdP s.old p l, fun l hl => ?_, ?_⟩
    · rw [getLsbD_maskOf _ hl, getLsbD_recv hl]
    · exact exec_report rfl ⟨by simp, by simp [regrange, hd, hp, hm], _, by rfl, rfl⟩

end Sys2Proof.Machine
end

section
/-! SUPPORT. The release of crew barriers (R115, R116). -/

namespace Sys2Proof.Machine

/-! ### Lanes that wait, and their release -/

theorem waitsOn_eq_true {wt : Wait} {w : Warp} :
    waitsOn wt w = true ↔ ∃ ln ∈ w.lanes, ln.st = .waiting ∧ ln.wait = wt := by
  simp [waitsOn]

theorem waitsOn_of_lane {wt : Wait} {w : Warp} {l : Nat} (hl : l < w.lanes.length)
    (h : (w.lane l).st = .waiting ∧ (w.lane l).wait = wt) : waitsOn wt w = true := by
  have hmem : w.lane l ∈ w.lanes := by simp [Warp.lane, List.getD_eq_getElem?_getD, hl]
  exact waitsOn_eq_true.2 ⟨_, hmem, h⟩

/-- A lane that still waits after a release waited before it. -/
theorem waitsOn_releaseWarp {wt : Wait} {p : Wait → Bool} {w : Warp}
    (h : waitsOn wt (releaseWarp p (fun _ ln => ln) w) = true) : waitsOn wt w = true := by
  obtain ⟨ln', hmem, hw⟩ := waitsOn_eq_true.1 h
  obtain ⟨ln, hln, rfl⟩ := List.mem_map.1 hmem
  refine waitsOn_eq_true.2 ⟨ln, hln, ?_⟩
  unfold releaseLane at hw
  split at hw
  · simp at hw
  · exact hw

theorem lane_releaseWarp {p : Wait → Bool} {f : Wait → Lane → Lane} {w : Warp} {l : Nat} (hl : l < w.lanes.length) :
    (releaseWarp p f w).lane l = releaseLane p f (w.lane l) := by
  simp [releaseWarp, closeWaits, Warp.lane, List.getD_eq_getElem?_getD, hl]

/-! ### The check of one barrier, and of all -/

/-- The check of one barrier. -/
def checkBar (k : Crew) (n : Nat) : Crew :=
  if k.warps.any (waitsOn (.bar n)) && k.warps.all (arrivedAt (.bar n)) then
    { k with warps := k.warps.map (releaseWarp (· == .bar n) fun _ ln => ln) }
  else k

theorem checkCrewBars_eq (k : Crew) : checkCrewBars k = (List.range 16).foldl checkBar k := rfl

/-- No lane of the crew waits at barrier `m`. -/
def NoWaiter (k : Crew) (m : Nat) : Prop := ∀ w ∈ k.warps, waitsOn (.bar m) w = false

theorem checkBar_of_noWaiter {k : Crew} {m : Nat} (h : NoWaiter k m) : checkBar k m = k := by
  have hany : k.warps.any (waitsOn (.bar m)) = false := by simpa [NoWaiter] using h
  simp [checkBar, hany]

theorem noWaiter_checkBar {k : Crew} {m : Nat} (n : Nat) (h : NoWaiter k m) : NoWaiter (checkBar k n) m := by
  unfold checkBar
  split
  · intro w' hw'
    obtain ⟨w, hw, rfl⟩ := List.mem_map.1 hw'
    exact Bool.eq_false_iff.2 fun hwait => Bool.eq_false_iff.1 (h w hw) (waitsOn_releaseWarp hwait)
  · exact h

theorem foldl_checkBar_of_noWaiter {k : Crew} {ms : List Nat} (h : ∀ m ∈ ms, NoWaiter k m) : ms.foldl checkBar k = k := by
  induction ms with
  | nil => rfl
  | cons m ms ih =>
    rw [List.foldl_cons, checkBar_of_noWaiter (h m (by simp)), ih fun m' hm' => h m' (by simp [hm'])]

/-- Where lanes wait at no other barrier, the check of all barriers is that of the one. -/
theorem checkCrewBars_of_one {k : Crew} {n : Nat} (hn : n < 16) (h : ∀ m < 16, m ≠ n → NoWaiter k m) :
    checkCrewBars k = checkBar k n := by
  obtain ⟨before, after, hsplit⟩ := List.append_of_mem (List.mem_range.2 hn)
  have hnodup : (before ++ n :: after).Nodup := hsplit ▸ List.nodup_range
  have hother : ∀ m ∈ before ++ after, NoWaiter k m := by
    intro m hm
    have hmem : m ∈ List.range 16 := by
      rw [hsplit, List.perm_middle.mem_iff]
      exact List.mem_cons_of_mem n hm
    refine h m (List.mem_range.1 hmem) ?_
    rintro rfl
    exact (List.nodup_middle.1 hnodup).notMem hm
  rw [checkCrewBars_eq, hsplit, List.foldl_append, List.foldl_cons,
    foldl_checkBar_of_noWaiter fun m hm => hother m (by simp [hm]),
    foldl_checkBar_of_noWaiter fun m hm => noWaiter_checkBar n (hother m (by simp [hm]))]

theorem warps_length_checkBar (k : Crew) (n : Nat) : (checkBar k n).warps.length = k.warps.length := by
  unfold checkBar
  split <;> simp

/-- R116: what the check of a barrier makes of each lane. -/
theorem lane_checkBar {k : Crew} {w : Warp} {n x l : Nat} (hw : k.warps[x]? = some w) (hl : l < w.lanes.length) :
    ∃ w', (checkBar k n).warps[x]? = some w' ∧
      w'.lane l = if (∀ v ∈ k.warps, arrivedAt (.bar n) v = true) ∧ (w.lane l).st = .waiting ∧ (w.lane l).wait = .bar n
        then { w.lane l with st := .run, pc := (w.lane l).resume, wait := .none } else w.lane l := by
  have hmem : w ∈ k.warps := List.mem_of_getElem? hw
  unfold checkBar
  split
  case isTrue h =>
    have hall : ∀ v ∈ k.warps, arrivedAt (.bar n) v = true := by
      rw [Bool.and_eq_true] at h
      exact List.all_eq_true.1 h.2
    refine ⟨_, by rw [List.getElem?_map, hw]; rfl, ?_⟩
    rw [lane_releaseWarp hl]
    simp only [releaseLane, Bool.and_eq_true, decide_eq_true_eq, beq_iff_eq, iff_true_intro hall, true_and]
  case isFalse h =>
    refine ⟨w, hw, (if_neg ?_).symm⟩
    rintro ⟨hall, hwait⟩
    have hany : k.warps.any (waitsOn (.bar n)) = true := List.any_eq_true.2 ⟨w, hmem, waitsOn_of_lane hl hwait⟩
    exact h (by rw [hany, List.all_eq_true.2 hall, Bool.and_self])

/-- Settles O28: only the check of barrier `n` finds lanes that wait. -/
theorem crewBarriersOpenWhenEveryWarpHasArrived : Obligations.CrewBarriersOpenWhenEveryWarpHasArrived := by
  intro k n x l hn hother
  rw [checkCrewBars_of_one hn hother]
  exact ⟨warps_length_checkBar k n, fun w hw hl => lane_checkBar hw hl⟩

end Sys2Proof.Machine
end

section
/-! SUPPORT. The words that move registers between a window and the crew's pool (R143, R156). -/

namespace Sys2Proof.Machine

/-! ### Delivering results -/

/-- Writing registers does not resize the window. -/
theorem applyWrite_window (w : Warp) (x : RegWrite) : (applyWrite w x).window = w.window := by
  cases x with
  | v l r x => rfl
  | p l r x => simp only [applyWrite]; split <;> simp
  | s r x => simp only [applyWrite]; split <;> simp

theorem arrive_window (w : Warp) (p : Pend) : (arrive w p).window = w.window :=
  List.foldlRecOn (motive := fun u : Warp => u.window = w.window) p.writes applyWrite rfl
    fun u hu x _ => (applyWrite_window u x).trans hu

theorem deliver_window (w : Warp) (id : Nat) : (deliver w id).window = w.window := by
  unfold deliver
  split
  · split
    · exact arrive_window w _
    · rfl
  · rfl

theorem deliverAll_window (f : Pend → Bool) (w : Warp) : (deliverAll f w).window = w.window := by
  refine List.foldlRecOn (motive := fun u : Warp => u.window = w.window) _ _ rfl fun u hu p _ => ?_
  split
  · exact (deliver_window u p.id).trans hu
  · exact hu

/-! ### The checks of the two words -/

section Checks
variable {n : Nat} {s : State}

theorem killOf_rgive : killOf (.rgive n) s = if s.w.window < 8 * n + 8 then some .regrange else none := by
  simp [killOf, regrange, privBad]

theorem killOf_rclaim : killOf (.rclaim n) s = if 128 < s.w.window + 8 * n then some .regrange else none := by
  simp [killOf, regrange, privBad]

/-- `rgive` waits for a result of an earlier bundle that is not known. -/
theorem stallOf_rgive (h : ∀ p ∈ s.w.pend, p.id < s.old.nextId → p.arrived = true ∨ (p.need = 0 ∧ p.open_ = false)) :
    stallOf (.rgive n) s = false := by
  have hpend : ∀ p ∈ s.w.pend, ¬ (decide (p.id < s.old.nextId) && !p.arrived && !p.ready) = true := by
    intro p hp hwait
    simp only [Bool.and_eq_true, Bool.not_eq_true', decide_eq_true_eq] at hwait
    obtain ⟨⟨hid, harr⟩, hready⟩ := hwait
    rcases h p hp hid with ha | ⟨hn, ho⟩
    · simp [ha] at harr
    · simp [Pend.ready, hn, ho] at hready
  exact List.any_eq_false.2 hpend

theorem stallOf_rclaim : stallOf (.rclaim n) s = false := rfl

theorem exec_rgive_fits (h : 8 * n + 8 ≤ s.w.window)
    (hp : ∀ p ∈ s.w.pend, p.id < s.old.nextId → p.arrived = true ∨ (p.need = 0 ∧ p.open_ = false)) :
    exec (.rgive n) s = .next (giveRegs s (8 * n)) := by
  have hk : killOf (.rgive n) s = none := by rw [killOf_rgive, if_neg (Nat.not_lt.2 h)]
  rw [exec_rgive, execRgive, issue_ready _ hk (stallOf_rgive hp)]

theorem exec_rclaim_fits (h : s.w.window + 8 * n ≤ 128) : exec (.rclaim n) s = .next (claimRegs s (8 * n)) := by
  have hk : killOf (.rclaim n) s = none := by rw [killOf_rclaim, if_neg (Nat.not_lt.2 h)]
  rw [exec_rclaim, execRclaim, issue_ready _ hk stallOf_rclaim]

end Checks

/-! ### What they do -/

theorem giveRegs_eq (s : State) (n : Nat) : giveRegs s n =
    let w := deliverAll (fun _ => true) s.w
    { withWarp s { w with window := s.w.window - n, lanes := w.lanes.map fun ln => { ln with v := ln.v.take (s.w.window - n) } }
        with c := { s.c with pool := s.c.pool + n } } := by
  simp only [giveRegs, deliverAll_window]
  rfl

theorem claimRegs_granted {s : State} {n : Nat} (hc : s.c.claims = []) (hp : n ≤ s.c.pool) :
    claimRegs s n = { withWarp s (grow s.w n) with c := { s.c with pool := s.c.pool - n } } := by
  simp [claimRegs, hc, hp, withWarp]

theorem claimRegs_queued {s : State} {n : Nat} (h : s.c.claims ≠ [] ∨ s.c.pool < n) : claimRegs s n =
    waitLanes { s with c := { s.c with claims := s.c.claims ++ [(s.w.idx, n, liveMask s)] } } (.claim n) := by
  refine if_neg ?_
  rw [Bool.and_eq_true, List.isEmpty_iff, decide_eq_true_eq]
  rintro ⟨hc, hp⟩
  rcases h with h | h
  · exact h hc
  · omega

/-- Settles O29: by the window `rgive` and `rclaim` kill or act, and by the pool and the queue a claim is granted or waits. -/
theorem registerWordsMoveTheWindow : Obligations.RegisterWordsMoveTheWindow := by
  intro s n
  refine ⟨fun hw hpend => ?_, fun hw => ?_, fun hw hc hp => ?_, fun hw h => ?_, fun hw => ?_⟩
  · exact (exec_rgive_fits hw hpend).trans (congrArg _ (giveRegs_eq s (8 * n)))
  · rw [exec_rgive, execRgive, issue_kill _ (killOf_rgive.trans (if_pos hw))]
  · rw [exec_rclaim_fits hw, claimRegs_granted hc hp]
    rfl
  · rw [exec_rclaim_fits hw, claimRegs_queued h]
    rfl
  · rw [exec_rclaim, execRclaim, issue_kill _ (killOf_rclaim.trans (if_pos hw))]

end Sys2Proof.Machine
end

section
/-! SUPPORT. The launch hardware's events: acceptance, walks, tiles, ends and aborts (R121 to R128, R133, R134, R141, R309). -/

namespace Sys2Proof.Machine

/-! ### Launch queues (R121, R124, R309) -/

section Queue
variable {s : State} {fn q : Nat} (hfn : fn < s.vfs.length) (hq : q < (vfAt s fn).lq.length) (f : LaunchQueue → LaunchQueue)
include hfn hq

theorem lq_setLq : (vfAt (setLq s fn q f) fn).lq.getD q {} = f ((vfAt s fn).lq.getD q {}) := by
  simp only [vfAt, List.getD_eq_getElem?_getD, List.getElem?_eq_getElem hfn, Option.getD_some] at hq
  simp [setLq, updVf, vfAt, List.getD_eq_getElem?_getD, hfn, hq]

end Queue

theorem lqTailWrite_eq {s : State} {fn q : Nat} (v : Nat) (hq : q < lqCount s fn) (hfn : fn < s.vfs.length)
    (hl : q < (vfAt s fn).lq.length) : lqTailWrite s fn q v =
    let x := (vfAt s fn).lq.getD q {}
    let u := setLq s fn q fun x => { x with tail := v % 2 ^ 32 }
    if 12 < x.log2n then u
    else if 2 ^ x.log2n < (v % 2 ^ 32 + 2 ^ 32 - x.head) % 2 ^ 32 then queueError u fn q
    else setLq u fn q fun x => { x with err := false } := by
  have hcount : lqCount s fn ≤ 16 := by
    unfold lqCount Vf.lqMax
    split
    · exact le_rfl
    · exact Nat.min_le_right _ _
  have hin : ¬ (lqCount s fn ≤ q ∨ 16 ≤ q) := by omega
  simp only [lqTailWrite, if_neg hin, lq_setLq hfn hl]

/-- A descriptor that breaks no rule is kept as a PENDING launch. -/
theorem acceptDesc_pending {s : State} {vf : Nat} {bs : List Byte} {td : TDesc}
    (ht : tableDesc s vf (parseLaunch bs).tensor = .ok td)
    (hc : checkLaunch s vf (s.nextLaunch % 2 ^ 32) (parseLaunch bs) true = 0) :
    acceptDesc s vf (some bs) = some (s.nextLaunch % 2 ^ 32, { s with
      nextLaunch := s.nextLaunch + 1
      launches := s.launches ++ [{ seq := s.nextLaunch, vf := vf, st := .pending, status := 0, desc := bs }] }) := by
  simp only [acceptDesc, Option.getD_some, Option.isNone_some, Bool.false_eq_true, if_false, ht, hc, if_true]

/-- The queue whose turn it is hands over the descriptor at its HEAD. -/
theorem launchAccept_accepts {s u : State} {vf q id : Nat} {bs : List Byte} (hvf : nextVf s = some vf)
    (hq : nextQueue s vf = some q) (hhost : q ≠ 16)
    (hbs : readVa s vf (((vfAt s vf).lq.getD q {}).base +
      128 * (((vfAt s vf).lq.getD q {}).head % 2 ^ ((vfAt s vf).lq.getD q {}).log2n)) 128 = .ok bs)
    (hacc : acceptDesc s vf (some bs) = some (id, u)) : launchAccept s vf q = updVf
      { setLq u vf q (fun x => { x with head := (x.head + 1) % 2 ^ 32 }) with lastVf := vf } vf fun v => { v with lastQ := q } := by
  have hturn : ¬ (nextVf s ≠ some vf ∨ nextQueue s vf ≠ some q) := by simp [hvf, hq]
  simp only [launchAccept, if_neg hturn, if_neg hhost, hbs, hacc]

/-! ### Walks (R125, R133, R134) -/

theorem tryWalk_begins {s : State} {l : Launch} (ht : tableDesc s l.vf (parseLaunch l.desc).tensor ≠ .error 0)
    (hw : ∀ td, tableDesc s l.vf (parseLaunch l.desc).tensor = .ok td → tableWaits s l.vf td = false) :
    tryWalk s l = some (beginWalk s l) := by
  unfold tryWalk
  split
  case h_1 h => exact absurd h ht
  case h_2 => rfl
  case h_3 td h => rw [if_neg (by simp [hw td h])]

section Launch
variable {s : State} {seq : Nat} {l : Launch} (hl : findLaunch s seq = some l)
include hl

theorem walkStart_begins (hst : l.st = .pending) (hab : l.aborting = false)
    (hpred : ∀ p ∈ (parseLaunch l.desc).predIds, predDone s p = true) (hwin : (vfAt s l.vf).windows = [])
    (hwalk : tryWalk s l = some (beginWalk s l)) : walkStart s seq =
    walkOver (if (parseLaunch l.desc).pers then persistentCrews (beginWalk s l) l else beginWalk s l) seq := by
  have hall : (parseLaunch l.desc).predIds.all (predDone s) = true := List.all_eq_true.2 hpred
  have hbegun : (LaunchState.pending == .walking) = false := rfl
  simp [walkStart, hl, hab, hst, hall, hwin, hwalk, hbegun]

/-- A Tiller whose walk has not stopped and that holds no tiles evaluates its next record. -/
theorem evaluateReach_record {die i : Nat} {w : DieWalk} {rest : List Nat} (hst : l.st = .walking) (hab : l.aborting = false)
    (hdie : (dieAt s die).st = .active) (hw : l.walks.find? (·.die == die) = some w) (hstop : w.stop = none)
    (hcur : w.cur = none) (htodo : w.todo = i :: rest) :
    evaluateReach s seq die = walkOver (evalRecord s l w i rest) seq := by
  simp [evaluateReach, hl, hab, hst, hdie, hw, hstop, hcur, htodo]

theorem tillerPush_pushes {die home reps gen t : Nat} {ts : List Nat} {w : DieWalk} {v u : State}
    (hpers : (parseLaunch l.desc).pers = true) (hab : l.aborting = false) (hw : l.walks.find? (·.die == die) = some w)
    (hcur : w.cur = some (home, reps, gen, t :: ts))
    (hclear : queueClear s true l.vf (parseLaunch l.desc).queue = (true, v))
    (hpush : tillerPushEntry v l.vf (parseLaunch l.desc).queue
      (workEntry (parseLaunch l.desc).tensor gen seq home (tileOfIndex l.grid t)) = some u) :
    tillerPush s seq die = walkOver (updWalk u seq die fun w =>
      { w with cur := if ts = [] then none else some (home, reps, gen, ts) }) seq := by
  simp [tillerPush, hl, hw, hcur, hpers, hab, hclear, hpush]

/-! ### The end of a launch (R126, R128) -/

theorem launchDone_eq : launchDone s seq =
    if l.closing = true ∧ l.aborting = false then tryClose s l
    else if launchClear s seq = false then s
    else if l.aborting = true then finishLaunch s seq .aborted 8
    else if l.st = .draining then finishLaunch (dropCopies s) seq .done 0
    else s := by
  simp only [launchDone, hl, Bool.and_eq_true, Bool.not_eq_true']

end Launch

/-! ### The evaluation of one record (R133) -/

section Record
variable {s : State} {l : Launch} {w : DieWalk} {i : Nat} {rest : List Nat}

theorem evalRecord_stops {c : Nat} (h : readReach s l i = some (.error c)) : evalRecord s l w i rest = stopWalk s l w.die i c := by
  simp only [evalRecord, h]

variable {r : ReachRec} (hr : readReach s l i = some (.ok r))
include hr

/-- A record that is MIGRATING is put off until the others are done. -/
theorem evalRecord_defers (hst : r.st = 2) (hsec : w.second = false) : evalRecord s l w i rest =
    updWalk s l.seq w.die fun w => { w with deferred := insertIdx i w.deferred, todo := rest } := by
  simp [evalRecord, hr, migrating, hst, hsec]

variable (hst : r.st = 1) (hdie : (dieAt s r.hdie).st = .active)
include hst hdie

theorem evalRecord_valid : evalRecord s l w i rest =
    if r.hdie ≠ w.die then
      updWalk (updWalk s l.seq w.die fun w => { w with todo := rest }) l.seq r.hdie (passRecord s l i)
    else if r.stamp = l.seq then updWalk s l.seq w.die fun w => { w with todo := rest }
    else stampReach s l w.die i r rest := by
  simp [evalRecord, hr, migrating, hst, hdie]

end Record

section Stamp
variable {s v : State} {l : Launch} {die i : Nat} {r : ReachRec} {rest : List Nat}

theorem stampReach_waits (h : spanClear s l.vf (l.place + 32 * i) 8 = (false, v)) : stampReach s l die i r rest = v := by
  simp [stampReach, h]

/-- The record is stamped, and crews are made for its tiles that lie inside the grid. -/
theorem stampReach_makes {u : State} (hpers : (parseLaunch l.desc).pers = false)
    (h : spanClear s l.vf (l.place + 32 * i) 8 = (true, v))
    (hw : writeVa v l.vf (l.place + 32 * i) (bytesOfNat 8 l.seq) = .ok u) : stampReach s l die i r rest =
    makeCrews (updWalk u l.seq die fun w => { w with
      todo := rest
      cur := some (r.hdie * 8 + r.hbay, r.replicas, r.gen,
        ((List.range r.count).map (r.first + ·)).filter fun t => decide (t < gridTiles l.grid)) }) l die (r.count + 1) := by
  simp [stampReach, h, hw, hpers]

end Stamp

theorem labortWrite_aborts {s : State} {fn id : Nat} {l : Launch} (hl : launchOf s (id % 2 ^ 32) = some l) (hf : l.vf = fn) :
    labortWrite s fn id = abortLaunch (updVf s fn fun v => { v with labort := id % 2 ^ 32 }) l := by
  have hu : launchOf (updVf s fn fun v => { v with labort := id % 2 ^ 32 }) (id % 2 ^ 32) = some l := hl
  simp only [labortWrite, hu, if_pos hf]

/-- A function aborts none but its own launches. -/
theorem labortWrite_other {s : State} {fn id : Nat} (h : ∀ l, launchOf s (id % 2 ^ 32) = some l → l.vf ≠ fn) :
    labortWrite s fn id = updVf s fn fun v => { v with labort := id % 2 ^ 32 } := by
  unfold labortWrite
  dsimp only
  split
  case h_1 l hl => exact if_neg (h l hl)
  case h_2 => rfl

/-- Settles O49: each event of the launch hardware by its rule. -/
theorem launchEventsTakeEffect : Obligations.LaunchEventsTakeEffect := by
  intro s hh
  refine ⟨fun fn q v hq hfn hl => ?_, fun vf q hvf hq hhost => ?_, fun vf bs td => acceptDesc_pending, fun seq l hl => ?_,
    fun fn id => ⟨fun l hlo hf => ?_, fun h => ?_⟩⟩
  · rw [exec_lqTailWrite, execLqTailWrite, live_on _ hh, lqTailWrite_eq v hq hfn hl]
    exact ⟨fun h => congrArg _ (if_pos h), fun h hnear => congrArg _ ((if_neg (Nat.not_lt.2 h)).trans (if_neg hnear)),
      fun h hfar => congrArg _ ((if_neg (Nat.not_lt.2 h)).trans (if_pos hfar))⟩
  · intro x bs id u hbs hacc
    rw [exec_launchAccept, execLaunchAccept, live_on _ hh, launchAccept_accepts hvf hq hhost hbs hacc]
  · rw [exec_launchWalkStart, execLaunchWalkStart, live_on _ hh, exec_launchDone, execLaunchDone, live_on _ hh, launchDone_eq hl]
    refine ⟨fun hst hab hpred hwin ht hwait => ?_, fun die w i rest r hst hab hdie hw hwd hstop hcur htodo hr => ?_,
      fun die w i rest c hst hab hdie hw hwd hstop hcur htodo hr => ?_,
      fun die w home reps gen t ts v u hpers hab hw hcur hclear hpush => ?_,
      fun hclear => ⟨fun hab => ?_, fun hab hcl hst => ?_⟩, fun hab hcl => ?_, fun hclear h => ?_⟩
    · rw [walkStart_begins hl hst hab hpred hwin (tryWalk_begins ht hwait)]
    · rw [exec_tillerEvaluateReach, execTillerEvaluateReach, live_on _ hh,
        evaluateReach_record hl hst hab hdie hw hstop hcur htodo]
      subst hwd
      refine ⟨fun hd hs ha => ?_, fun hd hs hsec => ?_, fun hd hs hstamp => ?_, fun v hd hs hstamp hclear => ?_,
        fun v u hd hs hstamp hpers hclear hwrite => ?_⟩
      · rw [evalRecord_valid hr hs ha, if_pos hd]
      · rw [evalRecord_defers hr hs hsec]
      · rw [evalRecord_valid hr hs (hd ▸ hdie), if_neg (not_not.2 hd), if_pos hstamp]
      · rw [evalRecord_valid hr hs (hd ▸ hdie), if_neg (not_not.2 hd), if_neg hstamp, stampReach_waits hclear]
      · rw [evalRecord_valid hr hs (hd ▸ hdie), if_neg (not_not.2 hd), if_neg hstamp, stampReach_makes hpers hclear hwrite]
    · rw [exec_tillerEvaluateReach, execTillerEvaluateReach, live_on _ hh,
        evaluateReach_record hl hst hab hdie hw hstop hcur htodo, evalRecord_stops hr, hwd]
    · rw [exec_tillerPush, execTillerPush, live_on _ hh, tillerPush_pushes hl hpers hab hw hcur hclear hpush]
    · simp [hclear, hab]
    · simp [hclear, hab, hcl, hst]
    · simp [hab, hcl]
    · have hopen : ¬ (l.closing = true ∧ l.aborting = false) := by
        rintro ⟨hc, ha⟩
        rcases h with h | h
        · exact Bool.false_ne_true (ha.symm.trans h)
        · exact Bool.false_ne_true (h.symm.trans hc)
      rw [if_neg hopen, if_pos hclear]
  · rw [exec_labortWrite, execLabortWrite, live_on _ hh, labortWrite_aborts hlo hf]
  · rw [exec_labortWrite, execLabortWrite, live_on _ hh, labortWrite_other h]

end Sys2Proof.Machine
end

section
/-! SUPPORT. The package's events: draining, resetting and returning dies, device reset, moving reaches (R132, R304, R313 to R315). -/

namespace Sys2Proof.Machine

/-! ### Dies -/

theorem dieAt_updDie_same {s : State} {d : Nat} (h : d < s.dies.length) (f : Die → Die) : dieAt (updDie s d f) d = f (dieAt s d) := by
  simp [dieAt, updDie, List.getD_eq_getElem?_getD, h]

theorem dieAt_updDie_other {s : State} {d e : Nat} (h : e ≠ d) (f : Die → Die) : dieAt (updDie s d f) e = dieAt s e := by
  simp [dieAt, updDie, List.getD_eq_getElem?_getD, Ne.symm h]

theorem dieAt_mem {s : State} {d : Nat} (h : d < s.dies.length) : dieAt s d ∈ s.dies := by
  simp [dieAt, List.getD_eq_getElem?_getD, h]

theorem dieAt_beyond {s : State} {d : Nat} (h : s.dies.length ≤ d) : dieAt s d = {} := by
  simp [dieAt, List.getD_eq_getElem?_getD, h]

/-- A die's state stands after an update that keeps it. -/
theorem dieAt_updDie_st {s : State} {d e : Nat} {f : Die → Die} (h : ∀ x, (f x).st = x.st) :
    (dieAt (updDie s d f) e).st = (dieAt s e).st := by
  by_cases he : e = d
  · subst he
    by_cases hl : e < s.dies.length
    · rw [dieAt_updDie_same hl, h]
    · rw [dieAt_beyond (by simpa [updDie] using hl), dieAt_beyond (Nat.not_lt.1 hl)]
  · rw [dieAt_updDie_other he]

/-- Asking crews to save changes no die. -/
theorem dieAt_askSave (s : State) (c : SaveCause) (f : Crew → Bool) (d : Nat) : dieAt (askSave s c f) d = dieAt s d := by
  simp [dieAt, askSave]

/-! ### Draining (R314) -/

theorem beginEmptying_settled {s : State} {die : Nat} (h : (dieAt s die).moving = none) : beginEmptying s die = s := by
  simp only [beginEmptying, h]

theorem beginEmptying_moving {s : State} {die : Nat} {save : Bool} (h : (dieAt s die).moving = some save) :
    beginEmptying s die = if reachesMoved s die = true then
      let u := updDie s die fun d => { d with moving := none }
      if save then askSave u .drain fun k => k.core / 128 == die else u
    else s := by
  unfold beginEmptying
  rw [h]
  by_cases hm : reachesMoved s die = true
  · simp only [hm, Bool.not_true, Bool.false_eq_true, if_false, if_true]
    rfl
  · simp [hm]

/-- A drain that goes on to its second step leaves the die DRAINING. -/
theorem dieAt_beginEmptying_st (s : State) (die e : Nat) : (dieAt (beginEmptying s die) e).st = (dieAt s e).st := by
  cases h : (dieAt s die).moving with
  | none => rw [beginEmptying_settled h]
  | some save =>
    have hu : (dieAt (updDie s die fun d => { d with moving := none }) e).st = (dieAt s e).st := dieAt_updDie_st fun _ => rfl
    rw [beginEmptying_moving h]
    split
    · cases save
      · exact hu
      · exact (congrArg Die.st (dieAt_askSave ..)).trans hu
    · rfl

section Drain
variable {s : State} {die : Nat}

theorem drainDie_active (op : Nat) (hd : die < 8) (h : (dieAt s die).st = .active) :
    drainDie s op die = startDrain (requestBegins s op die true) die (op == 1) := by
  have hn : ¬ ((dieAt s die).st ≠ .active ∨ Config.dies ≤ die) := not_or.2 ⟨not_not.2 h, Nat.not_le.2 hd⟩
  rw [drainDie, if_neg hn]

theorem drainDie_other (op : Nat) (h : (dieAt s die).st ≠ .active) : drainDie s op die = requestBegins s op die false :=
  if_pos (.inl h)

theorem dieFails_active (hd : die < 8) (h : (dieAt s die).st = .active) : dieFails s die = startDrain s die true := by
  have hn : ¬ ((dieAt s die).st ≠ .active ∨ Config.dies ≤ die) := not_or.2 ⟨not_not.2 h, Nat.not_le.2 hd⟩
  rw [dieFails, if_neg hn]

theorem dieFails_other (h : (dieAt s die).st ≠ .active) : dieFails s die = s := if_pos (.inl h)

theorem drainComplete_waits (h : drainOver (beginEmptying s die) die = false) : drainComplete s die = beginEmptying s die :=
  if_pos (.inr (by rw [h]; rfl))

/-- Every copy goes, whether or not a core or a bay holds one. -/
theorem dropCopies_eq (s : State) : dropCopies s = { s with
    cores := s.cores.map fun k => { k with copies := [] }
    bays := s.bays.map fun b => { b with copies := [] }
    fabric := { s.fabric with peerCopies := [] } } := by
  have hc : (fun k : Core => if k.copies.isEmpty then k else { k with copies := [] }) = fun k => { k with copies := [] } := by
    funext k
    split
    case isTrue h => rw [← List.isEmpty_iff.1 h]
    case isFalse => rfl
  have hb : (fun b : Bay => if b.copies.isEmpty then b else { b with copies := [] }) = fun b => { b with copies := [] } := by
    funext b
    split
    case isTrue h => rw [← List.isEmpty_iff.1 h]
    case isFalse => rfl
  rw [dropCopies, hc, hb]

theorem drainComplete_over (hst : (dieAt s die).st = .draining) (h : drainOver (beginEmptying s die) die = true) :
    drainComplete s die = logEvent (requestOver
      (updDie (dropCopies (beginEmptying s die)) die fun d => { d with st := .drained }) die) 8 die := by
  have hst' : (dieAt (beginEmptying s die) die).st = .draining := (dieAt_beginEmptying_st s die die).trans hst
  simp [drainComplete, hst', h]

/-! ### Reset and return (R314, R315) -/

theorem resetDie_drained (hd : die < 8) (h : (dieAt s die).st = .drained) :
    let t := resetDie s die
    t.drOp = 2 ∧ t.drDie = die ∧ t.drGo = true ∧ t.drRun = some die ∧ t.mem = s.mem ∧ t.crews = s.crews ∧
    t.dies = (updDie s die fun d =>
      { d with st := .resetting, ws := [], descs := [], walks := [], misses := [], epoch := s.cycle, auth := false }).dies ∧
    t.cores = s.cores.mapIdx (fun i k => if i / 128 = die then { k with copies := [], tlb := [] } else k) ∧
    t.bays = s.bays.mapIdx fun i b => if i / 8 = die then { b with tlb := [], copies := [] } else b := by
  have hn : ¬ ((dieAt s die).st ≠ .drained ∨ Config.dies ≤ die) := not_or.2 ⟨not_not.2 h, Nat.not_le.2 hd⟩
  rw [resetDie, if_neg hn]
  exact ⟨rfl, rfl, rfl, rfl, rfl, rfl, rfl, rfl, rfl⟩

theorem resetDie_other (h : (dieAt s die).st ≠ .drained) : resetDie s die = requestBegins s 2 die false := if_pos (.inl h)

theorem returnDie_drained (hd : die < 8) (h : (dieAt s die).st = .drained) :
    returnDie s die = requestBegins (updDie s die fun d => { d with auth := true }) 3 die true := by
  have hn : ¬ ((dieAt s die).st ≠ .drained ∨ Config.dies ≤ die) := not_or.2 ⟨not_not.2 h, Nat.not_le.2 hd⟩
  rw [returnDie, if_neg hn]

theorem returnDie_other (h : (dieAt s die).st ≠ .drained) : returnDie s die = requestBegins s 3 die false := if_pos (.inl h)

theorem resetDone_resetting (h : (dieAt s die).st = .resetting) :
    resetDone s die = requestOver (updDie s die fun d => { d with st := .drained }) die := if_neg (not_not.2 h)

theorem authenticated_refused (h : (dieAt s die).auth = true) : authenticated s die false =
    logEvent (requestOver (updDie s die fun d => { d with auth := false, st := d.st }) die) 8 die := by
  simp [authenticated, h]

/-- What waited for the die goes on. -/
theorem authenticated_genuine (h : (dieAt s die).auth = true) : authenticated s die true =
    settleFabric ((List.range 193).foldl (fun t v => retryService (retryStatus t v) v)
      (dieLinks (logEvent (requestOver (updDie s die fun d => { d with auth := false, st := .active }) die) 8 die) die)) := by
  simp [authenticated, h]

end Drain

/-! ### Device reset (R304) -/

/-- An entry of the event log changes the log and the count of free values alone. -/
theorem foldl_logEvent_frame (kind : Nat) (ds : List Nat) (s : State) : ∃ c tp,
    ds.foldl (fun s d => logEvent s kind d) s = { s with freeCtr := c, towpath := tp } := by
  induction ds generalizing s with
  | nil => exact ⟨s.freeCtr, s.towpath, rfl⟩
  | cons d ds ih =>
    obtain ⟨c, tp, h⟩ := ih (logEvent s kind d)
    exact ⟨c, tp, h⟩

/-- The dies that pass their authentication are ACTIVE, the others FENCED; memory keeps its contents. -/
theorem resetDevice_spec (s : State) (genuine : List Bool) :
    let t := resetDevice s genuine
    t.crews = [] ∧ t.frags = [] ∧ t.launches = [] ∧ t.lines = [] ∧ t.armed = [] ∧ t.cores = State.reset.cores ∧
    t.quads = State.reset.quads ∧ t.bays = State.reset.bays ∧ t.mem = s.mem ∧ t.hostMem = s.hostMem ∧ t.dies.length = 8 ∧
    ∀ d < 8, (dieAt t d).st = if genuine.getD d false then .active else .fenced := by
  dsimp only
  unfold resetDevice
  obtain ⟨c, tp, h⟩ := foldl_logEvent_frame 3 _ _
  rw [h]
  refine ⟨rfl, rfl, rfl, rfl, rfl, rfl, rfl, rfl, rfl, rfl, ?_, fun d hd => ?_⟩
  · simp [Config.dies]
  · simp [dieAt, Config.dies, List.getD_eq_getElem?_getD, hd]

/-! ### Moving reaches (R132, R314) -/

section Move
variable {s v : State} {vf addr hdie hbay : Nat} {bs : List Byte} (hbs : readVa v vf addr 32 = .ok bs)
include hbs

theorem moveRecord_moves {u : State} (hd : hdie < 8) (hb : hbay < 8) (hst : (parseReach bs).st = 1)
    (ht : (dieAt s (parseReach bs).hdie).st = .active ∨ targetDie s vf = some hdie)
    (hc : spanClear v vf (addr + 0x10) 8 = (true, u)) : moveRecord s v vf addr hdie hbay =
    let r := parseReach bs
    putReach (putReach u vf addr { r with st := 2, gen := (r.gen + 1) % 2 ^ 32 }) vf addr
      { r with hdie := hdie, hbay := hbay, gen := (r.gen + 2) % 2 ^ 32 } := by
  have hgo : ¬ ((parseReach bs).st ≠ 1 ∨ 8 ≤ hdie ∨ 8 ≤ hbay ∨
      ((dieAt s (parseReach bs).hdie).st ≠ .active ∧ targetDie s vf ≠ some hdie)) := by
    rintro (h | h | h | ⟨ha, htd⟩)
    · exact h hst
    · omega
    · omega
    · exact ht.elim ha htd
  simp only [moveRecord, hbs, if_neg hgo, hc, Bool.not_true, Bool.false_eq_true, if_false]

/-- Only a VALID reach moves. -/
theorem moveRecord_other (hst : (parseReach bs).st ≠ 1) : moveRecord s v vf addr hdie hbay = v := by
  simp only [moveRecord, hbs, if_pos (Or.inl hst : (parseReach bs).st ≠ 1 ∨ _)]

end Move

section Undrained
variable {s : State} (h : ∀ d ∈ s.dies, d.st ≠ .draining ∧ d.moving = none)
include h

theorem no_die_drains : s.dies.any (·.st == .draining) = false := by
  simpa using fun d hd => (h d hd).1

/-- Where no die is being drained, the migration service sees the machine as it is. -/
theorem serving_undrained (p : Nat → Bool) : serving s p = s := by simp [serving, no_die_drains h]

theorem served_undrained (t : State) : served s t = t := by simp [served, no_die_drains h]

theorem beginEmptying_undrained (die : Nat) : beginEmptying s die = s := by
  by_cases hd : die < s.dies.length
  · exact beginEmptying_settled (h _ (dieAt_mem hd)).2
  · exact beginEmptying_settled (by rw [dieAt_beyond (Nat.not_lt.1 hd)])

end Undrained

/-- Settles O53: each event of the package by its rule. -/
theorem packageEventsTakeEffect : Obligations.PackageEventsTakeEffect := by
  intro s hh
  refine ⟨fun die hd => ?_, fun genuine => ⟨_, rfl, resetDevice_spec s genuine⟩, fun vf addr hdie hbay bs => ?_⟩
  · intro d empties drains asked nothing
    have hempties : empties = fun t => beginEmptying t die := by
      funext t
      simp only [empties]
      split
      case h_1 h => rw [beginEmptying_settled h]
      case h_2 save h => rw [beginEmptying_moving h]
    have hdrains (t : State) (save : Bool) : drains t save = startDrain t die save := by
      simp only [drains, hempties, startDrain]
    refine ⟨fun hst => ⟨?_, ?_, ?_⟩, fun hst => ⟨?_, ?_, ?_⟩, fun hst => ?_, fun hst => ⟨?_, ?_⟩, fun hst => ⟨?_, ?_⟩,
      fun hst => ?_, fun hauth => ⟨?_, ?_⟩⟩
    · rw [exec_drainFinish, execDrainFinish, live_on _ hh, drainDie_active 0 hd hst, hdrains]
      rfl
    · rw [exec_drainSave, execDrainSave, live_on _ hh, drainDie_active 1 hd hst, hdrains]
      rfl
    · rw [exec_dieFailsInService, execDieFailsInService, live_on _ hh, dieFails_active hd hst, hdrains]
    · rw [exec_drainFinish, execDrainFinish, live_on _ hh, drainDie_other 0 hst]
      rfl
    · rw [exec_drainSave, execDrainSave, live_on _ hh, drainDie_other 1 hst]
      rfl
    · rw [exec_dieFailsInService, execDieFailsInService, live_on _ hh, dieFails_other hst]
    · rw [hempties, exec_dieDrainComplete, execDieDrainComplete, live_on _ hh]
      refine ⟨fun h => ?_, fun h => ?_⟩
      · rw [drainComplete_over hst h, dropCopies_eq]
      · rw [drainComplete_waits h]
    · rw [exec_reset, execReset, live_on _ hh]
      obtain ⟨hop, hdie, hgo, hrun, hmem, hcrews, hdies, hcores, hbays⟩ := resetDie_drained hd hst
      have hat (e : Nat) : dieAt (resetDie s die) e = dieAt (updDie s die fun d =>
          { d with st := .resetting, ws := [], descs := [], walks := [], misses := [], epoch := s.cycle, auth := false }) e := by
        rw [dieAt, hdies]
        rfl
      refine ⟨_, rfl, hop, hdie, hgo, hrun, hmem, hcrews, fun hl => ?_, fun e he => ?_, fun c hc => ?_, fun b hb => ?_⟩
      · rw [hat, dieAt_updDie_same hl]
      · rw [hat, dieAt_updDie_other he]
      · simp [coreAt, hcores, List.getD_eq_getElem?_getD, hc]
      · simp [bayAt, hbays, List.getD_eq_getElem?_getD, hb]
    · rw [exec_return_, execReturn_, live_on _ hh, returnDie_drained hd hst]
      rfl
    · rw [exec_reset, execReset, live_on _ hh, resetDie_other hst]
      rfl
    · rw [exec_return_, execReturn_, live_on _ hh, returnDie_other hst]
      rfl
    · rw [exec_dieResetComplete, execDieResetComplete, live_on _ hh, resetDone_resetting hst]
    · rw [exec_dieAuthenticated, execDieAuthenticated, live_on _ hh, authenticated_refused hauth]
    · rw [exec_dieAuthenticated, execDieAuthenticated, live_on _ hh, authenticated_genuine hauth]
  · intro v goOn r hbs hd hb
    rw [exec_migrationServiceMove, execMigrationServiceMove, live_on _ hh, moveReach]
    refine ⟨fun hst ht u hc => ?_, fun hst => ?_, fun h => ?_⟩
    · rw [moveRecord_moves hbs hd hb hst ht hc]
      rfl
    · rw [moveRecord_other hbs hst]
      rfl
    · have hv : v = s := serving_undrained h _
      refine ⟨hv, ?_⟩
      simp only [goOn, served_undrained h]
      exact List.foldl_fixed' (beginEmptying_undrained h) _

end Sys2Proof.Machine
end

section
/-! SUPPORT. Reduction and scan steps: what they write, and the exceptions of the lanes that have a result (R41, R113, R150). -/

namespace Sys2Proof.Machine

/-- A list of the elements that satisfy `q`, each as `g` says. -/
theorem flatMap_if_singleton {α β : Type} (xs : List α) (q : α → Bool) (g : α → β) :
    (xs.flatMap fun x => if q x = true then [g x] else []) = (xs.filter q).map g := by
  induction xs with
  | nil => rfl
  | cons x xs ih => cases hq : q x <;> simp [hq, ih]

/-- Of two results that agree on equal words it does not matter which of them equal words take. -/
theorem ite_slt_eq {x y a b : Word} (h : x = y → a = b) :
    (if x.slt y = true then a else b) = if x.toInt ≤ y.toInt then a else b := by
  simp only [BitVec.slt_eq_decide, decide_eq_true_eq]
  rcases lt_trichotomy x.toInt y.toInt with hlt | heq | hgt
  · rw [if_pos hlt, if_pos hlt.le]
  · rw [h (BitVec.toInt_inj.1 heq), ite_self, ite_self]
  · rw [if_neg hgt.not_gt, if_neg hgt.not_ge]

/-- R113: lane `j` has a value to give: it lies in the warp and is a member. -/
def hasValue (s : State) (m : Nat) (j : Int) : Bool := decide (0 ≤ j ∧ j < 64) && rdP s.old m j.toNat

section Step
variable {s : State} {m d : Nat} {i : Instr}

theorem srcVal_eq_hasValue {j : Int} (hlen : s.old.lanes.length = 64) :
    srcVal s m d j = if hasValue s m j = true then some (rdV s.old d j.toNat) else none := by
  simp only [srcVal_eq hlen, hasValue, Bool.and_eq_true, decide_eq_true_eq, and_assoc]

/-- R150: a step writes to the lanes that receive and whose source has a value, and raises the exceptions of these. -/
theorem stepOp'_eq (hlen : s.old.lanes.length = 64) (op : StepOp) (src : Nat → Int) (f : Word → Word → Word × FpFlags) :
    let r (l : Nat) := f (rdV s.old d l) (rdV s.old d (src l).toNat)
    stepOp' s i op d m src f = report (addPend s i
      ((lanesThat fun l => (liveMask s).getLsbD l && rdP s.old m l && hasValue s m (src l)).map fun l => .v l d (r l).1)
      (unionFlags (recvLive s m) fun l => if hasValue s m (src l) = true then (r l).2 else 0) (op == .addF32) 0 false) m := by
  intro r
  have hlanes : (lanesThat fun l => (liveMask s).getLsbD l && rdP s.old m l && hasValue s m (src l)) =
      (lanesOf (recvLive s m)).filter fun l => hasValue s m (src l) := by
    rw [lanesOf_eq fun l hl => getLsbD_recvLive hl, lanesThat, lanesThat, List.filter_filter]
    exact List.filter_congr fun l _ => Bool.and_comm ..
  rw [hlanes, ← flatMap_if_singleton]
  refine congrArg₂ (fun ws fl => report (addPend s i ws fl (op == .addF32) 0 false) m)
    (congrArg (laneWrites (recvLive s m)) (funext fun l => ?_)) (congrArg (unionFlags (recvLive s m)) (funext fun l => ?_))
  all_goals
    beta_reduce
    rw [srcVal_eq_hasValue hlen]
    split_ifs <;> rfl

/-- R41: of the lanes that a step acts on, those raise an exception that receive and whose source has a value. -/
theorem raisedBy_recvLive (q : Nat → Bool) (f : Nat → FpFlags) :
    RaisedBy (liveMask s) (fun l => if (rdP s.old m l && q l) = true then f l else 0)
      (unionFlags (recvLive s m) fun l => if q l = true then f l else 0) := by
  intro e he
  rw [raisedBy_unionFlags _ _ e he]
  refine exists_congr fun l => and_congr_right fun hl => ?_
  rw [getLsbD_recvLive hl]
  cases hm : rdP s.old m l <;> simp [hm]

/-- A step leaves its results, the exceptions of the lanes that have one, and the report. -/
theorem exec_step {t : Target} {op : StepOp} {src : Nat → Int} {f : Word → Word → Word × FpFlags}
    (hlen : s.old.lanes.length = 64) (ht : targetOf i = some t) (h : Leaves i s (stepOp' s i op d m src f)) :
    let r (l : Nat) := f (rdV s.old d l) (rdV s.old d (src l).toNat)
    ∃ fl, RaisedBy (liveMask s) (fun l => if (rdP s.old m l && hasValue s m (src l)) = true then (r l).2 else 0) fl ∧
      exec i s = .next (withReport (withResult s t (laOf i) 0
        ((lanesThat fun l => (liveMask s).getLsbD l && rdP s.old m l && hasValue s m (src l)).map fun l => .v l d (r l).1) fl
        (op == .addF32)) fun l => rdP s.old m l && !s.iss.active.getLsbD l) :=
  ⟨_, raisedBy_recvLive _ _, exec_report ht (stepOp'_eq hlen op src f ▸ h)⟩

end Step

/-- Settles O24: each word is a step by its own source lanes, with its own value as the first or as the second operand. -/
theorem reductionAndScanStepsCombineTwoLanes : Obligations.ReductionAndScanStepsCombineTwoLanes := by
  intro s la d ua m op hlen hm hd hua member absent f answers
  have hf : f = stepRes s op := by
    funext x y
    cases op
    case addO32 | addF32 => rfl
    case minI32 => exact congrArg (·, 0) (ite_slt_eq id).symm
    case maxI32 => exact congrArg (·, 0) (ite_slt_eq Eq.symm).symm
  have hm : Field.bad s.w.window (ps m) = false := bad_ps (by omega)
  have hd : Field.bad s.w.window (vx d).t = false := bad_vn _ _ _ (Nat.mod_one d) hd
  have hua : Field.bad s.w.window (us ua) = false := (bad_s ..).trans (decide_eq_false (Nat.not_le.2 hua))
  have hred := exec_step (i := .vredStep la d ua op m) hlen rfl
    ⟨by simp, by simp [regrange, hd, hua, hm], _, exec_vredStep la d ua op m s, rfl⟩
  have hscan := exec_step (i := .vscanStep la d ua op m) hlen rfl
    ⟨by simp, by simp [regrange, hd, hua, hm], _, exec_vscanStep la d ua op m s, rfl⟩
  rw [hf]
  exact ⟨hred, hscan⟩

end Sys2Proof.Machine
end

section
/-! SUPPORT. Branch votes: the offset of a branch, the lanes that take it, the vote's outcome and what it does (R74, R152). -/

namespace Sys2Proof.Machine

/-! ### The target of a branch (R74) -/

/-- The 20-bit offset of a branch is sign-extended. -/
theorem off20_eq_signExtend {off : Nat} (h : off < 2 ^ 20) :
    (if off < 2 ^ 19 then w32 off else w32 (off + 2 ^ 32 - 2 ^ 20)) = (BitVec.ofNat 20 off).signExtend 32 := by
  apply BitVec.eq_of_toNat_eq
  have hmod : off % 1048576 = off := Nat.mod_eq_of_lt h
  by_cases hs : off < 524288
  · simp [w32, BitVec.toNat_signExtend, BitVec.msb_eq_decide, hmod, hs, Nat.not_le.2 hs]
  · simp [w32, BitVec.toNat_signExtend, BitVec.msb_eq_decide, hmod, hs, Nat.not_lt.1 hs]
    omega

/-- A branch sends to its target the lanes of a mask that do not fault. -/
theorem jump_eq (s : State) {t : LaneMask} {p : Nat → Bool} {off : Nat} (ht : ∀ l < 64, (t &&& ~~~s.iss.faulted).getLsbD l = p l)
    (hoff : off < 2 ^ 20) : jump s t off = withTargets s ((lanesThat p).map fun l =>
      (l, s.iss.pc + BitVec.ofNat 32 s.iss.pos + (BitVec.ofNat 20 off).signExtend 32)) := by
  rw [jump, off20_eq_signExtend hoff, lanesOf_eq ht]
  rfl

/-! ### The lanes that take a branch, and the outcome of a vote (R152) -/

section Vote
variable {s : State} {p : Nat}

theorem getLsbD_takers {l : Nat} (hl : l < 64) : (takers s p).getLsbD l = (s.iss.active.getLsbD l && rdP s.old p l) :=
  getLsbD_maskOf _ hl

theorem takers_eq_active : takers s p = s.iss.active ↔ ∀ l < 64, s.iss.active.getLsbD l = true → rdP s.old p l = true := by
  refine BitVec.eq_of_getLsbD_eq_iff.trans (forall₂_congr fun l hl => ?_)
  rw [getLsbD_takers hl, Bool.and_eq_left_iff_imp]

theorem takers_eq_zero : takers s p = 0 ↔ ¬ ∃ l < 64, s.iss.active.getLsbD l = true ∧ rdP s.old p l = true := by
  refine BitVec.eq_of_getLsbD_eq_iff.trans ?_
  push Not
  refine forall₂_congr fun l hl => ?_
  rw [getLsbD_takers hl]
  simp

/-- The outcome of a vote: uniformly taken, uniformly not taken, divergent. -/
def voteOutcome (s : State) (p : Nat) : Nat := if takers s p = s.iss.active then 1 else if takers s p = 0 then 2 else 3

theorem voteOutcome_cases : voteOutcome s p = 1 ∧ takers s p = s.iss.active ∨
    voteOutcome s p = 2 ∧ takers s p ≠ s.iss.active ∧ takers s p = 0 ∨
    voteOutcome s p = 3 ∧ takers s p ≠ s.iss.active ∧ takers s p ≠ 0 := by
  unfold voteOutcome
  split_ifs with hall hnone
  · exact .inl ⟨rfl, hall⟩
  · exact .inr (.inl ⟨rfl, hall, hnone⟩)
  · exact .inr (.inr ⟨rfl, hall, hnone⟩)

/-- The lanes that a policy sends to the target: at a divergent vote `bv.any` all of them, `bv.split` those that take it. -/
def voteGo (s : State) (pol p : Nat) : LaneMask :=
  let out := voteOutcome s p
  if out = 1 then s.iss.active
  else if out = 3 then (if pol = 1 then s.iss.active else if pol = 0 then takers s p else 0) else 0

theorem getLsbD_voteGo (pol : Nat) {l : Nat} (hl : l < 64) : (voteGo s pol p &&& ~~~s.iss.faulted).getLsbD l =
    ((liveMask s).getLsbD l &&
      (voteOutcome s p == 1 || (voteOutcome s p == 3 && (pol == 1 || (pol == 0 && rdP s.old p l))))) := by
  have hlive : (liveMask s).getLsbD l = (s.iss.active.getLsbD l && (~~~s.iss.faulted).getLsbD l) := BitVec.getLsbD_and
  rw [BitVec.getLsbD_and, hlive, voteGo]
  obtain ⟨hout, _⟩ | ⟨hout, _⟩ | ⟨hout, _⟩ := voteOutcome_cases (s := s) (p := p)
  · simp [hout]
  · simp [hout]
  · obtain rfl | rfl | hpol : pol = 0 ∨ pol = 1 ∨ 2 ≤ pol := by omega
    · simp only [hout, getLsbD_takers hl, Nat.reduceEqDiff, if_true, if_false, Nat.reduceBEq, Bool.false_or, Bool.true_and]
      exact Bool.and_right_comm ..
    · simp [hout]
    · simp [hout, show pol ≠ 0 by omega, show pol ≠ 1 by omega]

/-- A vote sends its lanes to the target and leaves its policy and its outcome in `%vote`. -/
theorem voteBranch_eq (pol : Nat) {off : Nat} (hoff : off < 2 ^ 20) : voteBranch s pol p off = withWarp
    (withTargets s ((lanesThat fun l => (liveMask s).getLsbD l &&
      (voteOutcome s p == 1 || (voteOutcome s p == 3 && (pol == 1 || (pol == 0 && rdP s.old p l))))).map fun l =>
        (l, s.iss.pc + BitVec.ofNat 32 s.iss.pos + (BitVec.ofNat 20 off).signExtend 32)))
    { s.w with vote := (s.w.vote &&& 0xFFFFFFF0) ||| BitVec.ofNat 32 (4 * pol + voteOutcome s p) } := by
  rw [← jump_eq s (fun l hl => getLsbD_voteGo pol hl) hoff, Nat.mul_comm]
  rfl

/-! ### The words -/

theorem voteOutcome_eq_three : voteOutcome s p = 3 ↔ takers s p ≠ s.iss.active ∧ takers s p ≠ 0 := by
  unfold voteOutcome
  split_ifs with hall hnone
  · exact iff_of_false (by decide) fun h => h.1 hall
  · exact iff_of_false (by decide) fun h => h.2 hnone
  · exact iff_of_true rfl ⟨hall, hnone⟩

theorem killOf_bvUni (off : Nat) (hp : p < 8) :
    killOf (.bvUni p off) s = if voteOutcome s p = 3 then some .vote else none := by
  have hr : regrange s.w.window (.bvUni p off) = false := by simp [regrange, bad_ps hp]
  simp only [voteOutcome_eq_three, killOf, hr, Bool.false_eq_true, if_false, Bool.and_eq_true, bne_iff_ne]
  rfl

theorem killOf_bv (off : Nat) (hp : p < 8) :
    ∀ i ∈ [Instr.bvSplit p off, .bvAny p off, .bvAll p off], killOf i s = none := by
  simp [killOf, privBad, regrange, bad_ps hp]

/-- A vote takes effect, but for a divergent `bv.uni`. -/
theorem exec_bv (off : Nat) (hp : p < 8) :
    ∀ q ∈ [(Instr.bvSplit p off, 0), (.bvAny p off, 1), (.bvAll p off, 2), (.bvUni p off, 3)],
      (q.2 = 3 → voteOutcome s p ≠ 3) → exec q.1 s = .next (voteBranch s q.2 p off) := by
  have hk := killOf_bv (s := s) off hp
  rw [List.forall_mem_cons, List.forall_mem_cons, List.forall_mem_cons, List.forall_mem_singleton]
  refine ⟨fun _ => ?_, fun _ => ?_, fun _ => ?_, fun h => ?_⟩
  · rw [exec_bvSplit, execBvSplit, issue_ready _ (hk _ (by simp)) (stallOf_plain _ s (by simp))]
  · rw [exec_bvAny, execBvAny, issue_ready _ (hk _ (by simp)) (stallOf_plain _ s (by simp))]
  · rw [exec_bvAll, execBvAll, issue_ready _ (hk _ (by simp)) (stallOf_plain _ s (by simp))]
  · rw [exec_bvUni, execBvUni, issue_ready _ ((killOf_bvUni off hp).trans (if_neg (h rfl))) (stallOf_plain _ s (by simp))]

theorem exec_bvUni_divergent {off : Nat} (hp : p < 8) (h : voteOutcome s p = 3) : exec (.bvUni p off) s = .next (kill .vote s) := by
  rw [exec_bvUni, execBvUni, issue_kill _ ((killOf_bvUni off hp).trans (if_pos h))]

end Vote

/-- Settles O26: the outcome says how the lanes that take the branch stand to the Active set, and the words act by it. -/
theorem voteBranchesFollowTheirPolicy : Obligations.VoteBranchesFollowTheirPolicy := by
  intro s p off hp hoff target all some'
  refine ⟨voteOutcome s p, ?_, fun hout => ?_, fun q hq hdiv => ?_⟩
  · have hall : takers s p = s.iss.active ↔ all := takers_eq_active
    have hsome : some' ↔ takers s p ≠ 0 := (not_iff_comm.1 takers_eq_zero.symm).symm
    rw [← hall, hsome, not_not]
    exact voteOutcome_cases
  · exact exec_bvUni_divergent hp hout
  · rw [exec_bv off hp q hq hdiv, voteBranch_eq q.2 hoff]

end Sys2Proof.Machine
end

section
/-! SUPPORT. The words of WORKQ and LNCH, queue fences and `drain` (R158, R159, R226, R233, R234, R238 to R241). -/

namespace Sys2Proof.Machine

/-! ### Words that wait for their pipe -/

/-- A memory or engine word, its registers in range, takes effect once its pipe is free. -/
theorem exec_pipeFree {i : Instr} {s : State} {f : State → State} (hx : exec i s = issue i s f) (hp : PipeFree s)
    (hm : majorOf i ∉ [0x1D, 0x37, 0x3C, 0x3D, 0x3E]) (hr : regrange s.w.window i = false) : exec i s = .next (f s) :=
  hx.trans (issue_memory f hm hp.1 hp.2 hr)

/-- The open window of a word whose result an engine gives later. -/
theorem addPend_open {i : Instr} {t : Target} (ht : targetOf i = some t) (s : State) :
    addPend s i [] 0 false 0 true = withOpenResult s t (laOf i) := addPend_some ht ..

/-! ### What a word asks for -/

theorem shRead_ownShare (s : State) (o n : Nat) : shRead s (ownShare s) o n = shareBytes s o n := rfl

/-- R238, R239: a push, or by the top bits of the word the beginning or the end of a binding. -/
theorem pushKind_eq (s : State) (word off : Nat) : pushKind s word off =
    if word / 2 ^ 30 = 1 then .bind off s.w.nextId
    else if word / 2 ^ 30 = 2 then .unbind off s.w.nextId
    else .push (if off % 32 = 0 ∧ off + 32 ≤ s.c.shareSize then shareBytes s off 32 else []) s.w.nextId := by
  unfold pushKind
  split
  case h_1 h => rw [if_pos h]
  case h_2 h => rw [if_neg (by omega), if_pos h]
  case h_3 h1 h2 =>
    rw [if_neg h1, if_neg h2, shRead_ownShare]
    refine congrArg (WqKind.push · s.w.nextId) ?_
    by_cases h : off % 32 = 0 ∧ off + 32 ≤ s.c.shareSize
    · rw [if_pos h, if_neg (by omega)]
    · rw [if_neg h, if_pos (by omega)]

/-- R240: the lanes' offsets are those that the bundle read, whatever requests have gone before. -/
theorem foldl_pop {w₀ : Warp} (d ua : Nat) (ls : List Nat) {s : State} (h : s.old = w₀) :
    ls.foldl (fun t l => sendReq t (.pop (rdV t.old d l).toNat) (rdS t.old ua)) s =
      ls.foldl (fun t l => sendReq t (.pop (rdV w₀ d l).toNat) (rdS w₀ ua)) s := by
  induction ls generalizing s with
  | nil => rfl
  | cons l ls ih =>
    rw [List.foldl_cons, List.foldl_cons, h]
    exact ih h

/-- R158: the descriptor is copied, none where it does not lie in the share at a multiple of 128. -/
theorem postLaunch_eq {i : Instr} {t : Target} (ht : targetOf i = some t) (s : State) (off : Nat) : postLaunch s i off =
    withOpenResult (updVf s s.c.vf fun v => { v with posts := v.posts ++ [{
      desc := if off % 128 = 0 ∧ off + 128 ≤ s.c.shareSize then some (shareBytes s off 128) else none
      crew := s.c.id, warp := s.w.idx, pend := s.w.nextId }] }) t (laOf i) := by
  rw [postLaunch, addPend_open ht, shRead_ownShare]
  by_cases h : off % 128 = 0 ∧ off + 128 ≤ s.c.shareSize
  · rw [if_pos h, if_neg (by omega)]
  · rw [if_neg h, if_pos (by omega)]

/-! ### Fences and `drain` -/

/-- A fence on channels that all have room joins each of them. -/
theorem placeFence_channels {s : State} {mask : Nat}
    (hroom : ∀ c < 16, bitB mask c = true → (chanAt s (s.c.core / 16) c).entries.length < Config.chanEntries)
    (hq : bitB mask 16 = false) : placeFence s mask =
      ((List.range 16).filter fun c => bitB mask c).foldl (fun t c =>
        updChan t (s.c.core / 16) c fun ch => { ch with entries := ch.entries ++ [{
          kind := .fence, op := s.opSeq, crew := s.c.id, vf := s.c.vf, core := s.c.core, shareBase := s.c.shareBase,
          shareSize := s.c.shareSize, flat := s.c.flat, formed := true, ref := s.opSeq }] }) { s with opSeq := s.opSeq + 1 } := by
  have hfull : ((fenceChans mask).any fun c =>
      decide (Config.chanEntries ≤ (chanAt s (bayOfCore s.c.core) c).entries.length)) = false := by
    refine List.any_eq_false.2 fun c hc => ?_
    obtain ⟨hlt, hb⟩ := List.mem_filter.1 hc
    rw [decide_eq_true_eq, Nat.not_le]
    exact hroom c (List.mem_range.1 hlt) hb
  simp only [placeFence, hfull, hq, Bool.false_and, Bool.or_false, Bool.false_eq_true, if_false]
  rfl

/-- Entries that join channels move no crew. -/
theorem foldl_updChan_c (bay : Nat) (f : Channel → Channel) (cs : List Nat) (s : State) :
    (cs.foldl (fun t c => updChan t bay c f) s).c = s.c := by
  induction cs generalizing s with
  | nil => rfl
  | cons c cs ih => exact ih _

/-- R234: the crews that a `drain` counts lie in its scope, of a quad, a bay, a die or the device. -/
theorem inScope_eq (scope core other : Nat) : inScope scope core other =
    if scope = 1 then other / 4 == core / 4 else if scope = 2 then other / 16 == core / 16
    else if scope = 3 then other / 128 == core / 128 else true := by
  unfold inScope
  split
  case h_1 => exact BEq.comm
  case h_2 => exact BEq.comm
  case h_3 => exact BEq.comm
  case h_4 h1 h2 h3 => rw [if_neg h1, if_neg h2, if_neg h3]

/-! ### Waiting for a launch (R159) -/

section Launch
variable {s : State} {id : Nat} {l : Launch}

theorem waitLaunch_unknown (h : launchOf s id = none) : waitLaunch s id = s := by simp [waitLaunch, h]

theorem waitLaunch_ended (h : launchOf s id = some l) (hl : l.st.final = true) : waitLaunch s id = syncCore s s.c.core := by
  simp [waitLaunch, h, hl]

theorem waitLaunch_running (h : launchOf s id = some l) (hl : l.st.final = false) (hn : s.nextLaunch - 1 ≤ l.seq + 2 ^ 20) :
    waitLaunch s id = withWait s (.launch id) := by
  have hkept : l.forgotten (s.nextLaunch - 1) = false := by
    rw [Launch.forgotten, decide_eq_false_iff_not]
    omega
  simp only [waitLaunch, h, hl, hkept, Bool.or_false, Bool.false_eq_true, if_false]
  rfl

end Launch

/-- Settles O40: each word takes effect with its pipe free, and does what its operation does. -/
theorem queueAndLaunchWordsHandOverRequests : Obligations.QueueAndLaunchWordsHandOverRequests := by
  intro s la d ua scope hp hua w home req asked off
  have hu : Field.bad s.w.window (us ua) = false := (bad_s ..).trans (decide_eq_false (Nat.not_le.2 hua))
  have hu2 (ha : ua % 2 = 0) : Field.bad s.w.window (us ua 2) = false := bad_sn _ _ _ ha (by omega)
  have hd (hd : d < 64) : Field.bad s.w.window (uw d).t = false := (bad_s ..).trans (decide_eq_false (Nat.not_le.2 hd))
  have hlwait : exec (.lwait ua) s = .next (waitLaunch s w.toNat) :=
    exec_pipeFree (exec_lwait ua s) hp (by simp) (by simp [regrange, hu])
  refine ⟨fun ha hd64 => ?_, fun ha => ?_, fun hv => ?_, fun _ => rfl, fun hd64 => ?_, ?_, fun hroom hq => ?_, ?_, fun hd64 => ?_,
    fun h => ?_, fun l h => ⟨fun hl => ?_, fun hl hn => ?_⟩⟩
  · refine (exec_pipeFree (exec_qpush la d ua s) hp (by simp) (by simp [regrange, hu2 ha, hd hd64])).trans ?_
    rw [addPend_open rfl, pushKind_eq]
    rfl
  · exact exec_pipeFree (exec_qpop ua s) hp (by simp) (by simp [regrange, hu2 ha])
  · refine (exec_pipeFree (exec_qpopLanes d ua s) hp (by simp) (by simp [regrange, hu, bad_inWindow (inWindow_one.2 hv)])).trans ?_
    rw [foldl_pop d ua _ rfl]
    rfl
  · refine (exec_pipeFree (exec_qstat la d ua s) hp (by simp) (by simp [regrange, hu, hd hd64])).trans ?_
    rw [addPend_open rfl]
    rfl
  · exact exec_pipeFree (exec_qclose ua s) hp (by simp) (by simp [regrange, hu])
  · refine (exec_pipeFree (exec_qfence ua s) hp (by simp) (by simp [regrange, hu])).trans ?_
    rw [placeFence_channels hroom hq]
    dsimp only
    rw [foldl_updChan_c]
    rfl
  · refine (exec_pipeFree (exec_drain scope s) hp (by simp) (by simp [regrange])).trans ?_
    simp only [drainCrews, inScope_eq]
    rfl
  · refine (exec_pipeFree (exec_launch la d ua s) hp (by simp) (by simp [regrange, hu, hd hd64])).trans ?_
    rw [postLaunch_eq rfl]
    rfl
  · rw [hlwait, waitLaunch_unknown h]
  · rw [hlwait, waitLaunch_ended h hl]
  · rw [hlwait, waitLaunch_running h hl hn]

end Sys2Proof.Machine
end

section
/-! SUPPORT. Bytes at places: sectors and their keys, stores to places, and what reads back (R171, R174, R176, R316, R317). -/

namespace Sys2Proof.Machine

/-! ### Bytes of device memory (R317) -/

/-- A byte of a span reads as it was last written. -/
theorem memGet_memWrite_at {bs : List Byte} {i : Nat} (m : List Host.Cell) (k : Nat) (h : Memory.wf m = true) (hi : i < bs.length) :
    memGet (memWrite m k bs) (k + i) = bs[i] := by
  induction bs generalizing m k i with
  | nil => simp at hi
  | cons b bs ih =>
    cases i with
    | zero => exact (memGet_memWrite_below _ _ _ _ (Nat.lt_succ_self k)).trans (memGet_memSet_same m k b h)
    | succ i =>
      rw [memWrite, ← Nat.add_assoc, Nat.add_right_comm, ih _ _ (memSet_wf m k b h) (by simpa using hi)]
      rfl

section Dev
variable {s : State} (fn : Nat)

/-- What claiming a sector does: it gives a sector without a key the writer's, and one under another key its bytes too. -/
theorem claimSector_cases (s : State) (k : Nat) :
    (ownerOf s k = none ∧ claimSector s fn k = { s with owners := (k / 128, keyOf s fn) :: s.owners }) ∨
    (ownerOf s k = some (keyOf s fn) ∧ claimSector s fn k = s) ∨
    ∃ o, ownerOf s k = some o ∧ o ≠ keyOf s fn ∧ claimSector s fn k = { s with
      mem := memWrite s.mem (k / 128 * 128) (devRead s fn (k / 128 * 128) 128)
      owners := (k / 128, keyOf s fn) :: s.owners.filter (·.1 != k / 128) } := by
  cases h : ownerOf s k with
  | none => exact .inl ⟨rfl, by simp [claimSector, h]⟩
  | some o =>
    by_cases ho : o = keyOf s fn
    · exact .inr (.inl ⟨by rw [ho], by simp [claimSector, h, ho]⟩)
    · exact .inr (.inr ⟨o, rfl, ho, by simp [claimSector, h, ho]⟩)

theorem claimSector_frame (s : State) (k : Nat) : ∃ mem owners, claimSector s fn k = { s with mem := mem, owners := owners } := by
  obtain ⟨-, h⟩ | ⟨-, h⟩ | ⟨-, -, -, h⟩ := claimSector_cases fn s k <;> exact ⟨_, _, h⟩

theorem keyOf_claimSector (s : State) (k : Nat) : keyOf (claimSector s fn k) fn = keyOf s fn := by
  obtain ⟨_, _, h⟩ := claimSector_frame fn s k
  rw [h]
  rfl

theorem claimSector_wf (k : Nat) (hm : Memory.wf s.mem = true) : Memory.wf (claimSector s fn k).mem = true := by
  obtain ⟨-, h⟩ | ⟨-, h⟩ | ⟨-, -, -, h⟩ := claimSector_cases fn s k <;> rw [h]
  · exact hm
  · exact hm
  · simpa only using memWrite_wf s.mem (k / 128 * 128) (devRead s fn (k / 128 * 128) 128) hm

/-- The sector is the writer's; the others belong to whom they did. -/
theorem ownerOf_claimSector (s : State) (k j : Nat) :
    ownerOf (claimSector s fn k) j = if j / 128 = k / 128 then some (keyOf s fn) else ownerOf s j := by
  by_cases hj : j / 128 = k / 128
  · rw [if_pos hj]
    obtain ⟨-, h⟩ | ⟨ho, h⟩ | ⟨-, -, -, h⟩ := claimSector_cases fn s k
    · simp [h, ownerOf, hj]
    · rw [h, ← ho, ownerOf, ownerOf, hj]
    · simp [h, ownerOf, hj]
  · have hk : ¬ k / 128 = j / 128 := fun e => hj e.symm
    rw [if_neg hj]
    obtain ⟨-, h⟩ | ⟨-, h⟩ | ⟨-, -, -, h⟩ := claimSector_cases fn s k <;> rw [h]
    · simp [ownerOf, hk]
    · have hp : (fun x : Nat × Nat => decide ((x.1 != k / 128) = true ∧ (x.1 == j / 128) = true)) = fun x => x.1 == j / 128 := by
        funext x
        by_cases hx : x.1 = j / 128 <;> simp [hx, hj]
      simp only [ownerOf, List.find?_cons, List.find?_filter, hp, beq_eq_false_iff_ne.2 hk]

/-- The bytes of the sector are those that the function read there; the others stay. -/
theorem memGet_claimSector (hm : Memory.wf s.mem = true) (k j : Nat) :
    memGet (claimSector s fn k).mem j = if j / 128 = k / 128 then devGet s fn j else memGet s.mem j := by
  by_cases hj : j / 128 = k / 128
  · have ho : ownerOf s j = ownerOf s k := by simp only [ownerOf, hj]
    rw [if_pos hj]
    obtain ⟨hn, h⟩ | ⟨hn, h⟩ | ⟨-, -, -, h⟩ := claimSector_cases fn s k <;> rw [h]
    · simp only [devGet, ho, hn]
    · simp only [devGet, ho, hn, if_true]
    · have hi : j % 128 < (devRead s fn (k / 128 * 128) 128).length := by
        simpa [devRead] using Nat.mod_lt j (by decide)
      have hs : k / 128 * 128 + j % 128 = j := by omega
      have := memGet_memWrite_at s.mem (k / 128 * 128) hm hi
      simpa only [devRead, hs, List.getElem_map, List.getElem_range] using this
  · rw [if_neg hj]
    obtain ⟨-, h⟩ | ⟨-, h⟩ | ⟨-, -, -, h⟩ := claimSector_cases fn s k <;> rw [h]
    have hl : (devRead s fn (k / 128 * 128) 128).length = 128 := by simp [devRead]
    simpa only using memGet_memWrite_outside s.mem j (k / 128 * 128) _ (by rw [hl]; omega)

/-- A sector that comes under a function's key reads for that function as before. -/
theorem devGet_claimSector (hm : Memory.wf s.mem = true) (k j : Nat) : devGet (claimSector s fn k) fn j = devGet s fn j := by
  rw [devGet, keyOf_claimSector, ownerOf_claimSector, memGet_claimSector fn hm]
  by_cases hj : j / 128 = k / 128
  · simp only [if_pos hj, if_true]
  · simp only [if_neg hj, devGet]

theorem devGet_devPut_same (hm : Memory.wf s.mem = true) (k : Nat) (b : Byte) : devGet (devPut s fn k b) fn k = b := by
  have ho : ownerOf (devPut s fn k b) k = some (keyOf s fn) := (ownerOf_claimSector fn s k k).trans (if_pos rfl)
  have hk : keyOf (devPut s fn k b) fn = keyOf s fn := keyOf_claimSector fn s k
  rw [devGet, ho, hk]
  exact (if_pos rfl).trans (memGet_memSet_same _ _ _ (claimSector_wf fn k hm))

theorem devGet_devPut_other (hm : Memory.wf s.mem = true) {k j : Nat} (h : j ≠ k) (b : Byte) :
    devGet (devPut s fn k b) fn j = devGet s fn j := by
  rw [← devGet_claimSector fn hm k j]
  simp only [devGet, devPut, memGet_memSet_other _ _ _ _ h]
  rfl

end Dev

/-! ### Entries of a list that change -/

section Modify
variable {α : Type} {xs : List α} {n : Nat}

theorem getD_modify (m : Nat) (f : α → α) (d : α) :
    (xs.modify n f).getD m d = if m = n ∧ m < xs.length then f (xs.getD m d) else xs.getD m d := by
  by_cases h : m = n
  · subst h
    by_cases hl : m < xs.length <;> simp [List.getD_eq_getElem?_getD, hl]
  · simp [List.getD_eq_getElem?_getD, h, Ne.symm h]

theorem forall_mem_modify {p : α → Prop} {f : α → α} (h : ∀ a ∈ xs, p a) (hf : ∀ a, p a → p (f a)) (n : Nat) :
    ∀ a ∈ xs.modify n f, p a := by
  intro a ha
  obtain ⟨i, hi⟩ := List.mem_iff_getElem?.1 ha
  rw [List.getElem?_modify] at hi
  obtain ⟨b, hb, rfl⟩ := Option.map_eq_some_iff.1 hi
  have hpb := h b (List.mem_of_getElem? hb)
  split
  · exact hf b hpb
  · exact hpb

end Modify

theorem quadAt_updQuad (s : State) (q r : Nat) (f : Quad → Quad) :
    quadAt (updQuad s q f) r = if r = q ∧ r < s.quads.length then f (quadAt s r) else quadAt s r := getD_modify ..

theorem dieAt_updDie (s : State) (d e : Nat) (f : Die → Die) :
    dieAt (updDie s d f) e = if e = d ∧ e < s.dies.length then f (dieAt s e) else dieAt s e := getD_modify ..

theorem quadAt_mem {s : State} {q : Nat} (h : q < s.quads.length) : quadAt s q ∈ s.quads := by
  rw [quadAt, List.getD_eq_getElem _ _ h]
  exact List.getElem_mem h

/-! ### Places after a store -/

/-- The crews stand as they did, those listed and the one in issue. -/
def SameCrews (s t : State) : Prop := t.crews = s.crews ∧ t.c = s.c ∧ t.w = s.w

theorem SameCrews.trans {s t u : State} (h : SameCrews s t) (h' : SameCrews t u) : SameCrews s u :=
  ⟨h'.1.trans h.1, h'.2.1.trans h.2.1, h'.2.2.trans h.2.2⟩

theorem SameCrews.findWarp_eq {s t : State} (h : SameCrews s t) (c x : Nat) : findWarp t c x = findWarp s c x := by
  obtain ⟨hk, hc, hw⟩ := h
  simp only [findWarp, findCrew, merged, hk, hc, hw]

section Put
variable {s : State} (fn : Nat)

theorem locGet_dev (s : State) (k : Nat) : locGet s fn (.dev k) = devGet s fn k := rfl
theorem locGet_host (s : State) (g : Nat) : locGet s fn (.host g) = memGet s.hostMem g := rfl
theorem locGet_sp (s : State) (q o : Nat) : locGet s fn (.sp q o) = memGet (quadAt s q).sp o := rfl
theorem locGet_ws (s : State) (d o : Nat) : locGet s fn (.ws d o) = memGet (dieAt s d).ws o := rfl

theorem locPut_dev (s : State) (k : Nat) (b : Byte) : locPut s fn (.dev k) b =
    { claimSector s fn k with mem := memSet (claimSector s fn k).mem k b } := rfl
theorem locPut_sp (s : State) (q o : Nat) (b : Byte) : locPut s fn (.sp q o) b =
    updQuad s q fun t => { t with sp := memSet t.sp o b } := rfl
theorem locPut_ws (s : State) (d o : Nat) (b : Byte) : locPut s fn (.ws d o) b =
    updDie s d fun t => { t with ws := memSet t.ws o b } := rfl

theorem putLocs_cons (s : State) (x : Loc × Byte) (bs : List (Loc × Byte)) :
    putLocs s fn (x :: bs) = putLocs (locPut s fn x.1 x.2) fn bs := rfl

theorem memoriesOk_locPut (hm : MemoriesOk s) (l : Loc) (b : Byte) : MemoriesOk (locPut s fn l b) := by
  obtain ⟨hmem, hhost, hsp, hws⟩ := hm
  cases l with
  | dev k =>
    obtain ⟨_, _, hc⟩ := claimSector_frame fn s k
    have hw := memSet_wf _ k b (claimSector_wf fn k hmem)
    rw [locPut_dev]
    rw [hc] at hw ⊢
    exact ⟨hw, hhost, hsp, hws⟩
  | host g => exact ⟨hmem, memSet_wf _ g b hhost, hsp, hws⟩
  | sp q o => exact ⟨hmem, hhost, forall_mem_modify hsp (fun t ht => memSet_wf t.sp o b ht) q, hws⟩
  | ws d o => exact ⟨hmem, hhost, hsp, forall_mem_modify hws (fun t ht => memSet_wf t.ws o b ht) d⟩
  | peer x => exact ⟨hmem, hhost, hsp, hws⟩

theorem placed_locPut (l l' : Loc) (b : Byte) : Placed (locPut s fn l b) l' ↔ Placed s l' := by
  have hl : (locPut s fn l b).quads.length = s.quads.length ∧ (locPut s fn l b).dies.length = s.dies.length := by
    cases l with
    | dev k =>
      obtain ⟨_, _, hc⟩ := claimSector_frame fn s k
      rw [locPut_dev, hc]
      exact ⟨rfl, rfl⟩
    | host g => exact ⟨rfl, rfl⟩
    | sp q o => exact ⟨List.length_modify .., rfl⟩
    | ws d o => exact ⟨rfl, List.length_modify ..⟩
    | peer x => exact ⟨rfl, rfl⟩
  cases l' <;> simp only [Placed, hl]

theorem locGet_locPut_same (hm : MemoriesOk s) {l : Loc} (hp : Placed s l) (b : Byte) : locGet (locPut s fn l b) fn l = b := by
  obtain ⟨hmem, hhost, hsp, hws⟩ := hm
  cases l with
  | dev k => exact devGet_devPut_same fn hmem k b
  | host g => exact memGet_memSet_same _ _ _ hhost
  | sp q o =>
    rw [locGet_sp, locPut_sp, quadAt_updQuad, if_pos ⟨rfl, hp⟩]
    exact memGet_memSet_same _ _ _ (hsp _ (quadAt_mem hp))
  | ws d o =>
    rw [locGet_ws, locPut_ws, dieAt_updDie, if_pos ⟨rfl, hp⟩]
    exact memGet_memSet_same _ _ _ (hws _ (dieAt_mem hp))
  | peer x => exact hp.elim

theorem locGet_locPut_other (hm : MemoriesOk s) {l l' : Loc} (h : l' ≠ l) (b : Byte) :
    locGet (locPut s fn l b) fn l' = locGet s fn l' := by
  cases l with
  | dev k =>
    cases l' with
    | dev j => exact devGet_devPut_other fn hm.1 (fun e : j = k => h (by rw [e])) b
    | _ =>
      obtain ⟨_, _, hc⟩ := claimSector_frame fn s k
      rw [locPut_dev, hc]
      rfl
  | host g =>
    cases l' with
    | host j => exact memGet_memSet_other _ _ _ _ fun e => h (by rw [e])
    | _ => rfl
  | sp q o =>
    cases l' with
    | sp r p =>
      rw [locGet_sp, locPut_sp, quadAt_updQuad]
      split
      · rename_i hq
        exact memGet_memSet_other _ _ _ _ fun e => h (by rw [e, hq.1])
      · rfl
    | _ => rfl
  | ws d o =>
    cases l' with
    | ws e p =>
      rw [locGet_ws, locPut_ws, dieAt_updDie]
      split
      · rename_i hd
        exact memGet_memSet_other _ _ _ _ fun e => h (by rw [e, hd.1])
      · rfl
    | _ => rfl
  | peer x => rfl

/-- Stores touch no crew. -/
theorem sameCrews_locPut (s : State) (l : Loc) (b : Byte) : SameCrews s (locPut s fn l b) := by
  cases l with
  | dev k =>
    obtain ⟨_, _, hc⟩ := claimSector_frame fn s k
    rw [locPut_dev, hc]
    exact ⟨rfl, rfl, rfl⟩
  | _ => exact ⟨rfl, rfl, rfl⟩

theorem sameCrews_putLocs (s : State) (bs : List (Loc × Byte)) : SameCrews s (putLocs s fn bs) := by
  induction bs generalizing s with
  | nil => exact ⟨rfl, rfl, rfl⟩
  | cons x bs ih => exact (sameCrews_locPut fn s x.1 x.2).trans (ih _)

/-- Stores leave every place that none of them names. -/
theorem locGet_putLocs_other {l : Loc} {bs : List (Loc × Byte)} (hm : MemoriesOk s) (h : l ∉ bs.map (·.1)) :
    locGet (putLocs s fn bs) fn l = locGet s fn l := by
  induction bs generalizing s with
  | nil => rfl
  | cons x bs ih =>
    rw [List.map_cons, List.mem_cons, not_or] at h
    rw [putLocs_cons, ih (memoriesOk_locPut fn hm x.1 x.2) h.2, locGet_locPut_other fn hm h.1]

/-- Of stores to different places each place takes its byte. -/
theorem locGet_putLocs_mem {x : Loc × Byte} {bs : List (Loc × Byte)} (hm : MemoriesOk s) (hn : (bs.map (·.1)).Nodup)
    (hp : ∀ l ∈ bs.map (·.1), Placed s l) (hx : x ∈ bs) : locGet (putLocs s fn bs) fn x.1 = x.2 := by
  induction bs generalizing s with
  | nil => simp at hx
  | cons y bs ih =>
    rw [List.map_cons, List.nodup_cons] at hn
    rw [List.map_cons, List.forall_mem_cons] at hp
    have hm' := memoriesOk_locPut fn hm y.1 y.2
    rcases List.mem_cons.1 hx with rfl | hx
    · rw [putLocs_cons, locGet_putLocs_other fn hm' hn.1, locGet_locPut_same fn hm hp.1]
    · exact ih hm' hn.2 (fun l hl => (placed_locPut fn y.1 l y.2).2 (hp.2 l hl)) hx

end Put

end Sys2Proof.Machine
end

section
/-! SUPPORT. Performed accesses: the warp they belong to, what they leave alone, their bytes and the registers that take what
was read (R79, R81, R175 to R180, R189). -/

namespace Sys2Proof.Machine

/-! ### Crews and warps between issues -/

section Crews
variable {s t : State} {c : Nat}

theorem spread_crews (s : State) (ks : List Crew) : (spread s ks).crews = ks := by
  unfold spread; split <;> rfl

theorem spread_c_id (s : State) (ks : List Crew) : (spread s ks).c.id = s.c.id := by
  unfold spread
  split
  · rename_i k h
    simpa using List.find?_some h
  · rfl

/-- A crew that is not in issue stands as it is listed. -/
theorem findCrew_eq_find? (h : c ≠ s.c.id) : findCrew s c = s.crews.find? (·.id == c) := by
  have hp : ((fun k : Crew => k.id == c) ∘ fun k => if k.id = s.c.id then { s.c with warps := k.warps.set s.w.idx s.w } else k) =
      fun k => k.id == c := by
    funext k
    by_cases hk : k.id = s.c.id <;> simp [hk]
  rw [findCrew, merged, List.find?_map, hp]
  cases hf : s.crews.find? (·.id == c) with
  | none => rfl
  | some k =>
    have hk : k.id = c := by simpa using List.find?_some hf
    simp [hk, h]

theorem findCrew_mapCrews {g : Crew → Crew} (h : c ≠ s.c.id) (hg : ∀ k, (g k).id = k.id) :
    findCrew (mapCrews s g) c = (findCrew s c).map g := by
  have hp : (fun k : Crew => k.id == c) ∘ g = fun k => k.id == c := funext fun k => by simp [hg]
  rw [mapCrews, findCrew_eq_find? (by rwa [spread_c_id]), spread_crews, List.find?_map, hp, findCrew]

theorem findWarp_updWarp (h : c ≠ s.c.id) (x : Nat) (f : Warp → Warp) :
    findWarp (updWarp s c x f) c x = (findWarp s c x).map f := by
  have hg : ∀ k : Crew, (if k.id = c then { k with warps := k.warps.modify x f } else k).id = k.id := fun k => by split <;> rfl
  rw [findWarp, updWarp, findCrew_mapCrews h hg, findWarp]
  cases hk : findCrew s c with
  | none => rfl
  | some k =>
    have hid : k.id = c := by simpa using List.find?_some hk
    simp [hid]

end Crews

/-! ### What an access leaves alone -/

/-- Every byte reads as it did, and the crews stand as they did. -/
def SameContents (s t : State) : Prop := SameCrews s t ∧ ∀ fn l, locGet t fn l = locGet s fn l

theorem SameContents.crews {s t : State} (h : SameContents s t) : SameCrews s t := h.1
theorem SameContents.bytes {s t : State} (h : SameContents s t) (fn : Nat) (l : Loc) : locGet t fn l = locGet s fn l := h.2 fn l

theorem SameContents.refl (s : State) : SameContents s s := ⟨⟨rfl, rfl, rfl⟩, fun _ _ => rfl⟩

theorem SameContents.trans {s t u : State} (h : SameContents s t) (h' : SameContents t u) : SameContents s u :=
  ⟨h.crews.trans h'.crews, fun fn l => (h'.bytes fn l).trans (h.bytes fn l)⟩

/-- A function's bytes are those of the memories, the sectors' keys and the functions' own. -/
theorem locGet_congr {s t : State} (hm : t.mem = s.mem) (hh : t.hostMem = s.hostMem) (ho : t.owners = s.owners) (hv : t.vfs = s.vfs)
    (hd : t.dies = s.dies) (hq : ∀ q, (quadAt t q).sp = (quadAt s q).sp) (fn : Nat) (l : Loc) : locGet t fn l = locGet s fn l := by
  cases l with
  | dev k => rw [locGet_dev, locGet_dev, devGet, devGet, ownerOf, ownerOf, keyOf, keyOf, vfAt, vfAt, hm, ho, hv]
  | host g => rw [locGet_host, locGet_host, hh]
  | sp q o => rw [locGet_sp, locGet_sp, hq]
  | ws d o => rw [locGet_ws, locGet_ws, dieAt, dieAt, hd]
  | peer x => rfl

theorem writeLines_frame (s : State) (ts : List Tag) (now : Nat) : ∃ lines, writeLines s ts now = { s with lines := lines } := by
  induction ts generalizing s with
  | nil => exact ⟨_, rfl⟩
  | cons t ts ih => exact ih (setLine s t now now)

theorem readLines_frame (s : State) (ts : List Tag) (now lease : Nat) :
    ∃ lines, readLines s ts now lease = { s with lines := lines } := by
  induction ts generalizing s with
  | nil => exact ⟨_, rfl⟩
  | cons t ts ih => exact ih (setLine s t _ _)

section Times
variable (s : State)

theorem sameContents_times (lines : List (Tag × Nat × Nat)) (cores : List Core) :
    SameContents s { s with lines := lines, cores := cores } :=
  ⟨⟨rfl, rfl, rfl⟩, locGet_congr rfl rfl rfl rfl rfl fun _ => rfl⟩

theorem sameContents_writtenBy (core : Nat) (ts : List Tag) (bs : List (Loc × Byte)) : SameContents s (writtenBy s core ts bs) := by
  unfold writtenBy
  split
  · exact .refl s
  · obtain ⟨ls, h⟩ := writeLines_frame s ts (writeTime s ts (ltimeOf s core))
    simp only [h]
    exact sameContents_times s ls _

theorem sameContents_readBy (core : Nat) (ts : List Tag) (lease : Nat) : SameContents s (readBy s core ts lease) := by
  unfold readBy
  split
  · exact .refl s
  · obtain ⟨ls, h⟩ := readLines_frame s ts (readTime s ts (ltimeOf s core)) lease
    simp only [h]
    exact sameContents_times s ls _

theorem unitServes_frame (unit : Option Nat) (rank : Nat) :
    ∃ cycle units, unitServes s unit rank = { s with cycle := cycle, units := units } := by
  cases unit <;> exact ⟨_, _, rfl⟩

theorem sameContents_reportCons (bs : List (Loc × Byte)) : SameContents s (reportCons s bs) := by
  unfold reportCons
  split
  · rename_i q _ _ _
    refine ⟨⟨rfl, rfl, rfl⟩, locGet_congr rfl rfl rfl rfl rfl fun r => ?_⟩
    rw [quadAt_updQuad]
    split <;> rfl
  · exact .refl s

theorem locGet_updWarp (c x : Nat) (f : Warp → Warp) (fn : Nat) (l : Loc) : locGet (updWarp s c x f) fn l = locGet s fn l :=
  locGet_congr (by simp) (by simp) (by simp) (by simp) (by simp) (fun _ => by rw [quadAt, updWarp_quads, quadAt]) fn l

end Times

/-- Nothing waits for an INVACK where no other device holds a line (R328). -/
theorem homeClear_unshared {s : State} {ls : List Loc} (h : Unshared s ls) (fn : Nat) : homeClear s fn ls = (true, s) := by
  have ha : ((homeLines ls).flatMap fun l => (holdersOf s l).map fun d => (d, l)) = [] :=
    List.flatMap_eq_nil_iff.2 fun l hl => by rw [(h l hl).1, List.map_nil]
  have hi : (s.fabric.invals.any fun x => (homeLines ls).contains x.2) = false := by
    simp only [List.any_eq_false, List.contains_iff_mem]
    exact fun x hx hl => (h x.2 hl).2 x hx rfl
  simp only [homeClear, ha, sendInvals, List.foldl_nil, List.append_nil, hi, Bool.not_false, ite_self]

/-! ### Bytes, words and registers (R2, R79, R81) -/

theorem bytesOfNat_succ (n w : Nat) : bytesOfNat (n + 1) w = BitVec.ofNat 8 w :: bytesOfNat n (w / 256) := rfl

@[simp] theorem wordOfBytes_nil : wordOfBytes [] = 0 := rfl

@[simp] theorem wordOfBytes_cons (b : Byte) (bs : List Byte) : wordOfBytes (b :: bs) = b.toNat + 256 * wordOfBytes bs := rfl

theorem bytesOfNat_length (n w : Nat) : (bytesOfNat n w).length = n := by
  induction n generalizing w with
  | zero => rfl
  | succ n ih => rw [bytesOfNat_succ, List.length_cons, ih]

theorem wordOfBytes_bytesOfNat (n w : Nat) : wordOfBytes (bytesOfNat n w) = w % 2 ^ (8 * n) := by
  induction n generalizing w with
  | zero => exact (Nat.mod_one w).symm
  | succ n ih =>
    rw [bytesOfNat_succ, wordOfBytes_cons, ih, BitVec.toNat_ofNat, Nat.mul_succ, Nat.add_comm (8 * n), Nat.pow_add, Nat.mod_mul]

theorem wordOfBytes_lt (bs : List Byte) : wordOfBytes bs < 2 ^ (8 * bs.length) := by
  induction bs with
  | nil => exact Nat.one_pos
  | cons b bs ih =>
    have hb := b.isLt
    rw [wordOfBytes_cons, List.length_cons, Nat.mul_succ, Nat.pow_add]
    omega

theorem wordOfBytes_drop (bs : List Byte) (n : Nat) : wordOfBytes (bs.drop n) = wordOfBytes bs / 2 ^ (8 * n) := by
  induction bs generalizing n with
  | nil => simp
  | cons b bs ih =>
    cases n with
    | zero => simp
    | succ n =>
      have hb : (b.toNat + 256 * wordOfBytes bs) / 2 ^ 8 = wordOfBytes bs := by have := b.isLt; omega
      rw [List.drop_succ_cons, ih, wordOfBytes_cons, Nat.mul_succ, Nat.add_comm (8 * n), Nat.pow_add, ← Nat.div_div_eq_div_mul, hb]

theorem toNat_append_byte {w : Nat} (x : BitVec w) (y : Byte) : (x ++ y).toNat = y.toNat + 256 * x.toNat := by
  rw [BitVec.toNat_append, ← Nat.shiftLeft_add_eq_or_of_lt y.isLt, Nat.shiftLeft_eq, Nat.add_comm, Nat.mul_comm]

/-- The low word of bytes is their first four. -/
theorem w32_wordOfBytes (b₀ b₁ b₂ b₃ : Byte) (bs : List Byte) :
    w32 (wordOfBytes (b₀ :: b₁ :: b₂ :: b₃ :: bs)) = b₃ ++ b₂ ++ b₁ ++ b₀ := by
  apply BitVec.eq_of_toNat_eq
  have h := b₀.isLt
  have h₁ := b₁.isLt
  have h₂ := b₂.isLt
  have h₃ := b₃.isLt
  simp only [w32, BitVec.toNat_ofNat, toNat_append_byte, wordOfBytes_cons]
  omega

/-- A word of the bytes that a load reads. -/
theorem w32_wordOfBytes_range (f : Nat → Byte) {n i : Nat} (h : 4 * i + 4 ≤ n) :
    w32 (wordOfBytes ((List.range n).map f) / 2 ^ (32 * i)) = word4 f i := by
  have hd : ((List.range n).map f).drop (4 * i) =
      f (4 * i) :: f (4 * i + 1) :: f (4 * i + 2) :: f (4 * i + 3) :: ((List.range n).map f).drop (4 * i + 4) := by
    rw [List.drop_eq_getElem_cons (by simp; omega), List.drop_eq_getElem_cons (by simp; omega),
      List.drop_eq_getElem_cons (by simp; omega), List.drop_eq_getElem_cons (by simp; omega)]
    simp
  rw [show 32 * i = 8 * (4 * i) by omega, ← wordOfBytes_drop, hd, w32_wordOfBytes, word4]

/-- A number of `n` bits, its top bit carried upward, as a word. -/
theorem w32_signExtend {n : Nat} (h : n ≤ 32) (x : BitVec n) :
    (if 2 ^ (n - 1) ≤ x.toNat then w32 (x.toNat + 2 ^ 32 - 2 ^ n) else w32 x.toNat) = x.signExtend 32 := by
  apply BitVec.eq_of_toNat_eq
  have hp : 2 ^ n ≤ 2 ^ 32 := Nat.pow_le_pow_right two_pos h
  have hx := x.isLt
  have hs : (x.setWidth 32).toNat = x.toNat := by
    rw [BitVec.toNat_setWidth, Nat.mod_eq_of_lt (by omega)]
  rw [BitVec.toNat_signExtend, hs, BitVec.msb_eq_decide]
  split <;> simp only [w32, BitVec.toNat_ofNat, *, decide_true, decide_false, if_true, Bool.false_eq_true, if_false] <;> omega

section Load
variable (sx : Bool) (d l : Nat) (f : Nat → Byte)

/-- A load of whole words fills a register with each. -/
theorem loadRegs_words {sz : Size} (h : 4 ≤ Size.bytes sz) :
    loadRegs sz sx ((List.range (Size.bytes sz)).map f) = (List.range (Size.bytes sz / 4)).map (word4 f) := by
  simp only [loadRegs, if_neg (Nat.not_lt.2 h)]
  refine List.map_congr_left fun i hi => w32_wordOfBytes_range f ?_
  have := List.mem_range.1 hi
  omega

/-- A load of less than a word fills one register. -/
theorem loadRegs_part {sz : Size} {n : Nat} (hn : 8 * Size.bytes sz = n) (h : n < 32) {x : BitVec n} {bs : List Byte}
    (hx : wordOfBytes bs = x.toNat) : loadRegs sz sx bs = [if sx then x.signExtend 32 else x.setWidth 32] := by
  subst hn
  have he := w32_signExtend h.le x
  have hw : w32 x.toNat = x.setWidth 32 := BitVec.ofNat_toNat ..
  simp only [loadRegs, if_pos (show Size.bytes sz < 4 by omega), hx, ← he, ← hw, Bool.and_eq_true, decide_eq_true_eq]
  cases sx <;> simp

/-- The registers that a load fills, by its bytes. -/
theorem regWrites_loadRegs (sz : Size) :
    regWrites d l (loadRegs sz sx ((List.range (Size.bytes sz)).map f)) = loadedRegs sz sx d l f := by
  cases sz with
  | b => rw [loadRegs_part sx (sz := .b) (x := f 0) rfl (by decide) (by simp [Size.bytes])]; rfl
  | h =>
    have hx : wordOfBytes ((List.range (Size.bytes .h)).map f) = (f 1 ++ f 0).toNat := by
      rw [toNat_append_byte]
      simp [Size.bytes, List.range_succ]
    rw [loadRegs_part sx (sz := .h) rfl (by decide) hx]
    rfl
  | w => rw [loadRegs_words sx f (by decide)]; rfl
  | d => rw [loadRegs_words sx f (by decide)]; rfl
  | q => rw [loadRegs_words sx f (by decide)]; rfl

end Load

/-! ### Performing an access (R175, R176, R180, R189) -/

theorem locGet_units (s : State) (cycle : Nat) (units : List (Nat × Nat × Nat)) (fn : Nat) :
    locGet { s with cycle := cycle, units := units } fn = locGet s fn :=
  funext (locGet_congr rfl rfl rfl rfl rfl (fun _ => rfl) fn)

theorem placed_units {s : State} {l : Loc} (cycle : Nat) (units : List (Nat × Nat × Nat)) (h : Placed s l) :
    Placed { s with cycle := cycle, units := units } l := by
  cases l <;> exact h

/-- Places that take a list of bytes hold them. -/
theorem map_locGet_putLocs_zip {s : State} (fn : Nat) {ls : List Loc} {bs : List Byte} (hm : MemoriesOk s) (hn : ls.Nodup)
    (hp : ∀ l ∈ ls, Placed s l) (hl : ls.length = bs.length) : ls.map (locGet (putLocs s fn (ls.zip bs)) fn) = bs := by
  have hf : (ls.zip bs).map (·.1) = ls := List.map_fst_zip hl.le
  have hs : (ls.zip bs).map (·.2) = bs := List.map_snd_zip hl.ge
  calc ls.map (locGet (putLocs s fn (ls.zip bs)) fn)
      = ((ls.zip bs).map (·.1)).map (locGet (putLocs s fn (ls.zip bs)) fn) := by rw [hf]
    _ = (ls.zip bs).map fun x => locGet (putLocs s fn (ls.zip bs)) fn x.1 := List.map_map ..
    _ = (ls.zip bs).map (·.2) :=
        List.map_congr_left fun x hx => locGet_putLocs_mem fn hm (hf.symm ▸ hn) (hf.symm ▸ hp) hx
    _ = bs := hs

section Perform
variable {s : State} (k : Crew)

/-- The oldest access of a warp leaves its queue, and what was read joins its result. -/
def afterHead (r : Option (Nat × List RegWrite)) (w : Warp) : Warp :=
  let w := { w with memq := w.memq.drop 1 }
  match r with
  | some v => takeOld w v
  | none => w

/-- The head of a warp's queue is performed where nothing holds it back. -/
theorem performHead_eq {c x : Nat} {k : Crew} {w : Warp} {o : MemOp} {rest : List MemOp} (hk : findCrew s c = some k)
    (hw : findWarp s c x = some w) (hq : w.memq = o :: rest) (hb : o.blocked s (dieOfCore k.core) = false)
    (hu : Unshared s o.locs) : performHead s c x = updWarp (performOp s k o).1 c x (afterHead (performOp s k o).2) := by
  simp only [performHead, hk, hw, hq, homeClear_unshared hu, hb, Bool.false_eq_true, if_false, Bool.not_true]
  rfl

/-- What a store leaves in its places: their bytes, each with the new bits under its mask. -/
def storedBytes (s : State) (fn : Nat) (bs : List (Loc × Byte × Byte)) : List (Loc × Byte) :=
  bs.map fun b => (b.1, (locGet s fn b.1 &&& ~~~b.2.2) ||| (b.2.1 &&& b.2.2))

theorem performOp_store (id lane : Nat) (ts : List Tag) (bs : List (Loc × Byte × Byte)) :
    (performOp s k (.store id lane ts bs)).2 = none ∧
    SameContents (putLocs s k.vf (storedBytes s k.vf bs)) (performOp s k (.store id lane ts bs)).1 :=
  ⟨rfl, (sameContents_writtenBy ..).trans (sameContents_reportCons ..)⟩

theorem performOp_wread (id lane d : Nat) (sz : Size) (sx : Bool) (ls : List Loc) (ts : List Tag) :
    (performOp s k (.wread id lane d sz sx ls ts)).2 = some (id, regWrites d lane (loadRegs sz sx (ls.map (locGet s k.vf)))) ∧
    SameContents s (performOp s k (.wread id lane d sz sx ls ts)).1 :=
  ⟨rfl, sameContents_readBy ..⟩

theorem performOp_rmw (id lane d : Nat) (op : RmwOp) (size : Nat) (ls : List Loc) (ts : List Tag) (y z : Nat) :
    let old := wordOfBytes (ls.map (locGet s k.vf))
    let new := bytesOfNat size (rmwNew op (8 * size) old y z)
    ∃ cycle units, let u : State := { s with cycle := cycle, units := units }
    (performOp s k (.rmw id lane d op size ls ts y z)).2 = some (id, regWrites d lane (oldRegs size old)) ∧
    SameContents (if op = .cas ∧ old ≠ y then u else putLocs u k.vf (ls.zip new))
      (performOp s k (.rmw id lane d op size ls ts y z)).1 := by
  intro old new
  obtain ⟨cycle, units, hu⟩ := unitServes_frame s (atomUnit ls ts)
    (((atomUnit ls ts).map fun u => sourceRank u (dieOfCore k.core)).getD 0)
  have hl := locGet_units s cycle units k.vf
  refine ⟨cycle, units, ?_⟩
  simp only [performOp, hu, hl, Bool.and_eq_true, decide_eq_true_eq, bne_iff_ne]
  refine ⟨rfl, ?_⟩
  split
  · exact sameContents_readBy ..
  · exact sameContents_writtenBy ..

variable (o : MemOp)

/-- Performing an access touches no crew. -/
theorem sameCrews_performOp : SameCrews s (performOp s k o).1 := by
  cases o with
  | store id lane ts bs => exact (sameCrews_putLocs ..).trans (performOp_store k id lane ts bs).2.crews
  | wread id lane d sz sx ls ts => exact (performOp_wread k id lane d sz sx ls ts).2.crews
  | rmw id lane d op size ls ts y z =>
    obtain ⟨cycle, units, -, h⟩ := performOp_rmw (s := s) k id lane d op size ls ts y z
    have hu : SameCrews s { s with cycle := cycle, units := units } := ⟨rfl, rfl, rfl⟩
    refine hu.trans (SameCrews.trans ?_ h.crews)
    split
    · exact ⟨rfl, rfl, rfl⟩
    · exact sameCrews_putLocs ..

/-- An access changes its own bytes and no other. -/
theorem locGet_performOp_other (hm : MemoriesOk s) {l : Loc} (hl : l ∉ o.locs) :
    locGet (performOp s k o).1 k.vf l = locGet s k.vf l := by
  cases o with
  | store id lane ts bs =>
    rw [(performOp_store k id lane ts bs).2.bytes]
    exact locGet_putLocs_other k.vf hm (by simpa [storedBytes, MemOp.locs, Function.comp_def] using hl)
  | wread id lane d sz sx ls ts => exact (performOp_wread k id lane d sz sx ls ts).2.bytes k.vf l
  | rmw id lane d op size ls ts y z =>
    obtain ⟨cycle, units, -, h⟩ := performOp_rmw (s := s) k id lane d op size ls ts y z
    rw [h.bytes, ← locGet_units s cycle units]
    split
    · rfl
    · refine locGet_putLocs_other k.vf hm fun hx => hl ?_
      obtain ⟨p, hp, rfl⟩ := List.mem_map.1 hx
      exact (List.of_mem_zip hp).1

/-- A store's places take their bytes. -/
theorem locGet_performOp_store (id lane : Nat) (ts : List Tag) {bs : List (Loc × Byte × Byte)} (hm : MemoriesOk s)
    (hn : (bs.map (·.1)).Nodup) (hp : ∀ l ∈ bs.map (·.1), Placed s l) {b : Loc × Byte × Byte} (hb : b ∈ bs) :
    locGet (performOp s k (.store id lane ts bs)).1 k.vf b.1 = (locGet s k.vf b.1 &&& ~~~b.2.2) ||| (b.2.1 &&& b.2.2) := by
  have hf : (storedBytes s k.vf bs).map (·.1) = bs.map (·.1) := by simp [storedBytes, Function.comp_def]
  rw [(performOp_store k id lane ts bs).2.bytes]
  exact locGet_putLocs_mem k.vf hm (hf ▸ hn) (hf ▸ hp) (List.mem_map_of_mem hb)

/-- An atomic's places hold its operation's value; those of a compare-and-swap that fails keep the old one. -/
theorem wordOfBytes_performOp_rmw (id lane d : Nat) (op : RmwOp) {size : Nat} {ls : List Loc} (ts : List Tag) (y z : Nat)
    (hm : MemoriesOk s) (hn : ls.Nodup) (hp : ∀ l ∈ ls, Placed s l) (hl : ls.length = size) :
    wordOfBytes (ls.map (locGet (performOp s k (.rmw id lane d op size ls ts y z)).1 k.vf)) =
      rmwNew op (8 * size) (wordOfBytes (ls.map (locGet s k.vf))) y z % 2 ^ (8 * size) := by
  obtain ⟨cycle, units, -, h⟩ := performOp_rmw (s := s) k id lane d op size ls ts y z
  have hu := locGet_units s cycle units k.vf
  rw [funext (h.bytes k.vf)]
  split
  · rename_i hc
    have hlt := wordOfBytes_lt (ls.map (locGet s k.vf))
    rw [List.length_map, hl] at hlt
    rw [hu, hc.1, rmwNew, if_neg hc.2, Nat.mod_eq_of_lt hlt]
  · rw [map_locGet_putLocs_zip (s := { s with cycle := cycle, units := units }) k.vf hm hn
      (fun l h => placed_units cycle units (hp l h)) (by rw [bytesOfNat_length, hl]), wordOfBytes_bytesOfNat]

/-- An event that performs the head of a queue does so where the head is of its kind. -/
theorem performIf_head {c x : Nat} {w : Warp} {o : MemOp} {rest : List MemOp} {f : MemOp → Bool} (hw : findWarp s c x = some w)
    (hq : w.memq = o :: rest) (hf : f o = true) : performIf s c x f = reap (checkBars (performHead s c x)) := by
  simp only [performIf, hw, Option.bind_some, hq, List.head?_cons, hf, if_true]

end Perform

theorem regWrites_oldRegs (d lane size old : Nat) : regWrites d lane (oldRegs size old) = .v lane d (BitVec.ofNat 32 old) ::
    if size = 8 then [.v lane (d + 1) (BitVec.ofNat 32 (old / 2 ^ 32))] else [] := by
  unfold oldRegs
  split <;> rfl

/-- A list by its entries. -/
theorem map_eq_map_range {α β : Type} {xs : List α} {n : Nat} (h : xs.length = n) (g : α → β) (a : α) :
    xs.map g = (List.range n).map fun i => g (xs.getD i a) := by
  subst h
  apply List.ext_getElem (by simp)
  intro i hi _
  have hx : i < xs.length := by simpa using hi
  simp [List.getElem?_eq_getElem hx]

/-- Settles O34: the head of the queue is performed, its places take their bytes, and what it read joins its result. -/
theorem performedAccessesChangeTheirBytes : Obligations.PerformedAccessesChangeTheirBytes := by
  intro s c x k w o rest hidle hc hh hm hk hx hq hb hn hp hu t
  have hw : findWarp s c x = some w := by rw [findWarp, hk, Option.bind_some, hx]
  have ht : t = updWarp (performOp s k o).1 c x (afterHead (performOp s k o).2) := performHead_eq hk hw hq hb hu
  have hget : ∀ l, locGet t k.vf l = locGet (performOp s k o).1 k.vf l := fun l => by rw [ht, locGet_updWarp]
  have hcrews := sameCrews_performOp (s := s) k o
  have hid : (performOp s k o).1.c.id = 0 := by rw [hcrews.2.1, hidle.1]
  have hwarp : findWarp t c x = some (afterHead (performOp s k o).2 w) := by
    rw [ht, findWarp_updWarp (by rwa [hid]), hcrews.findWarp_eq, hw, Option.map_some]
  refine ⟨fun l hl => (hget l).trans (locGet_performOp_other k o hm hl), ?_⟩
  cases o with
  | store id lane ts bs =>
    refine ⟨?_, fun b hb => (hget _).trans (locGet_performOp_store k id lane ts hm hn hp hb), ?_⟩
    · rw [exec_storePerformed, execStorePerformed, live_on _ hh, performIf_head hw hq rfl]
    · rw [hwarp]
      simp [(performOp_store k id lane ts bs).1, afterHead, hq]
  | rmw id lane d op size ls ts y z =>
    obtain ⟨_, _, hr, -⟩ := performOp_rmw (s := s) k id lane d op size ls ts y z
    refine ⟨?_, fun hl => ?_, ?_⟩
    · rw [exec_atomicPerformed, execAtomicPerformed, live_on _ hh, performIf_head hw hq rfl]
    · rw [funext hget]
      exact wordOfBytes_performOp_rmw k id lane d op ts y z hm hn hp hl
    · rw [hwarp, hr, regWrites_oldRegs]
      simp [afterHead, takeOld, hq]
  | wread id lane d sz sx ls ts =>
    obtain ⟨hr, hs⟩ := performOp_wread (s := s) k id lane d sz sx ls ts
    refine ⟨fun l => (hget l).trans (hs.bytes k.vf l), fun hl => ?_⟩
    rw [hwarp, hr, map_eq_map_range hl _ (.dev 0), regWrites_loadRegs]
    simp [afterHead, takeOld, hq]

end Sys2Proof.Machine
end

section
/-! SUPPORT. The host's events: memory through BAR2, and the registers of the functions (R179, R262, R263, R304, R308 to R317). -/

namespace Sys2Proof.Machine

/-! ### Memory through BAR2 (R179) -/

theorem vfAt_updVf (s : State) (v u : Nat) (f : Vf → Vf) :
    vfAt (updVf s v f) u = if u = v ∧ u < s.vfs.length then f (vfAt s u) else vfAt s u := getD_modify ..

/-- A write's time is not before the time it is asked for. -/
theorem le_writeTime (s : State) (ts : List Tag) (now : Nat) : now ≤ writeTime s ts now := by
  induction ts generalizing now with
  | nil => exact le_rfl
  | cons t ts ih => exact (le_max_left ..).trans (ih _)

section Stamp
variable (s : State) (fn : Nat)

/-- The lines of a function that a host write counts as written, and the logical time of the write. -/
def hostLines : List Tag := (s.lines.filter fun x => x.1.vf == fn && decide (x.1.tensor < 2 ^ 16)).map (·.1)
def hostStampTime : Nat := max (writeTime s (hostLines s fn) (engTime s)) ((vfAt s fn).hostTime + 1)

theorem hostStamp_eq : hostStamp s fn = { updVf (writeLines s (hostLines s fn) (hostStampTime s fn)) fn
    (fun v => { v with hostTime := hostStampTime s fn }) with etime := hostStampTime s fn } := rfl

theorem etime_le_hostStampTime : s.etime ≤ hostStampTime s fn :=
  (le_max_left ..).trans ((le_writeTime ..).trans (le_max_left ..))

theorem hostTime_lt_hostStampTime : (vfAt s fn).hostTime < hostStampTime s fn := Nat.lt_of_succ_le (le_max_right ..)

theorem hostTime_hostStamp {s : State} {fn : Nat} (h : fn < s.vfs.length) :
    (vfAt (hostStamp s fn) fn).hostTime = hostStampTime s fn := by
  obtain ⟨ls, hs⟩ := writeLines_frame s (hostLines s fn) (hostStampTime s fn)
  rw [hostStamp_eq, hs]
  exact congrArg Vf.hostTime ((vfAt_updVf { s with lines := ls } fn fn _).trans (if_pos ⟨rfl, h⟩))

end Stamp

section Access
variable {s v : State} {fn gpa : Nat} {data : List Byte} {ls : List (Option Loc)}

theorem hostWrite_host (h : 2 ^ 51 ≤ gpa) :
    hostWrite s fn gpa data = { s with hostMem := memWrite s.hostMem (gpa % 2 ^ 51) data } := if_pos h

theorem hostWrite_waits (h : gpa < 2 ^ 51) (hl : hostLocs s fn gpa true data.length = none) : hostWrite s fn gpa data = s :=
  (if_neg (Nat.not_le.2 h)).trans (by rw [hl])

theorem hostWrite_shared (h : gpa < 2 ^ 51) (hl : hostLocs s fn gpa true data.length = some ls)
    (hc : homeClear s fn (ls.filterMap id) = (false, v)) : hostWrite s fn gpa data = v :=
  (if_neg (Nat.not_le.2 h)).trans (by simp only [hl, hc, Bool.not_false, if_true])

theorem hostWrite_clear (h : gpa < 2 ^ 51) (hl : hostLocs s fn gpa true data.length = some ls)
    (hc : homeClear s fn (ls.filterMap id) = (true, v)) : hostWrite s fn gpa data =
      hostStamp (putLocs v fn ((ls.zip data).filterMap fun x => x.1.map fun l => (l, x.2))) fn :=
  (if_neg (Nat.not_le.2 h)).trans (by simp only [hl, hc, Bool.not_true, Bool.false_eq_true, if_false])

theorem hostRead_host {n : Nat} (h : 2 ^ 51 ≤ gpa) :
    hostRead s fn gpa n = { s with hostReadback := memRead s.hostMem (gpa % 2 ^ 51) n } := if_pos h

theorem hostRead_device {n : Nat} (h : gpa < 2 ^ 51) (hl : hostLocs s fn gpa false n = some ls) :
    hostRead s fn gpa n = { s with hostReadback := ls.map fun l => (l.map (locGet s fn)).getD 0xFF } := by
  simp only [hostRead, if_neg (Nat.not_le.2 h), hl]
  congr
  funext l
  cases l <;> rfl

/-- Below 2^52 a read is one of memory. -/
theorem exec_hostRead_memory {n : Nat} (hh : s.halted = false) (h : gpa < 2 ^ 52) :
    exec (.hostRead fn gpa n) s = .next (hostRead s fn gpa n) := by
  rw [exec_hostRead, execHostRead, if_neg (Nat.not_le.2 h), if_neg (by simp [hh])]

end Access

/-! ### What registers read (R304, R308 to R313) -/

theorem noLink_iff {s : State} : noLink s = true ↔ ∀ d ∈ s.dies, d.st = .fenced := by simp [noLink]

theorem noLink_false {s : State} (h : ∃ d ∈ s.dies, d.st ≠ .fenced) : noLink s = false := by
  obtain ⟨d, hd, hs⟩ := h
  exact Bool.eq_false_iff.2 fun hn => hs (noLink_iff.1 hn d hd)

section Registers
variable {s : State} {fn off n : Nat}

theorem exec_hostRead_register (h : ¬ (fn = 0 ∧ 0x8008 < off + n ∧ off < 0x8018)) :
    exec (.hostRead fn (2 ^ 52 + off) n) s = .next (regRead s fn off n) := by
  rw [exec_hostRead, execHostRead, if_pos (Nat.le_add_right ..), Nat.add_sub_cancel_left, if_neg h]

/-- A read that meets DCAP counts the capacities afresh. -/
theorem exec_hostRead_capacities (h : 0x8008 < off + n) (ho : off < 0x8018) :
    exec (.hostRead 0 (2 ^ 52 + off) n) s = .next (regRead (countCaps s) 0 off n) := by
  rw [exec_hostRead, execHostRead, if_pos (Nat.le_add_right ..), Nat.add_sub_cancel_left, if_pos ⟨rfl, h, ho⟩]

theorem regRead_noLink (h : noLink s = true) : regRead s fn off n = { s with hostReadback := [] } := if_pos h

theorem regRead_block (h : noLink s = false) (hh : s.halted = false) (ho : off < 2 ^ 20) : regRead s fn off n =
    { s with hostReadback := (List.range n).map fun i => fieldByte (regFields s fn off) (off + i) } :=
  (if_neg (by simp [h])).trans ((if_neg (Nat.not_le.2 ho)).trans (if_neg (by simp [hh])))

end Registers

/-! ### Fragments (R263) -/

section Fragment
variable {s : State} {id : Nat}

theorem actFrag_none {vf : Option Nat} (h : findFrag s vf id = none) (k : Bool) : actFrag s vf id k = s := by
  simp only [actFrag, h]

/-- Between issues no warp's accesses come first. -/
theorem actFrag_idle {vf : Option Nat} {f : Frag} (h : findFrag s vf id = some f) (hc : s.c.id = 0) (k : Bool) :
    actFrag s vf id k = if k then afterDeaths (killFrag (syncCore s f.core) f) else resumeFrag (syncCore s f.core) f := by
  have hc' : (syncCore s f.core).c.id = 0 := hc
  simp only [actFrag, h, hc', if_true]

end Fragment

/-! ### Service crews (R311) -/

section Service
variable {s : State} {fn a : Nat} {bs : List Byte}

theorem serviceTry_waits {x : Nat × Nat} (h : readVa s fn (a % 2 ^ 56) 128 = .error (0, x)) :
    serviceTry s fn a = updVf s fn fun v => { v with svcPend := v.svcPend ++ [a] } := by
  simp only [serviceTry, h]

theorem serviceTry_starts {b : Nat} (h : readVa s fn (a % 2 ^ 56) 128 = .ok bs)
    (hb : serviceBay s fn (parseLaunch bs) = some b) (hc : (parseLaunch bs).badCode = false) (hs : (parseLaunch bs).badShape = false)
    (hr : (parseLaunch bs).shapeResv = 0) (ha : (parseLaunch bs).badAddr = false) :
    let t := updBay s b fun x => { x with service := x.service ++ [(fn, bs)] }
    serviceTry s fn a = if (bayAt t b).service.length = 1 then placeCrew t b else t := by
  simp only [serviceTry, h, hb, hc, hs, hr, ha, ne_eq, not_true, Bool.false_eq_true, or_self, if_false]

theorem svcStart_full {v : Nat} (h : 4 ≤ serviceCrews (updVf s fn fun x => { x with svcstart := v % 2 ^ 64 }) fn) :
    svcStart s fn v = interrupt (updVf s fn fun x => { x with svcstart := v % 2 ^ 64 }) fn 2 := if_pos h

theorem svcStart_room {v : Nat} (h : serviceCrews (updVf s fn fun x => { x with svcstart := v % 2 ^ 64 }) fn < 4) :
    svcStart s fn v = serviceTry (updVf s fn fun x => { x with svcstart := v % 2 ^ 64 }) fn (v % 2 ^ 64) := if_neg (Nat.not_le.2 h)

end Service

/-! ### Enabling a VF and its quads (R310) -/

/-- A function that is not there is disabled and has no key. -/
theorem vfAt_disabled (t : State) (vf : Nat) :
    let u := vfAt (updVf t vf fun v => { v with en := false, key := none }) vf
    u.en = false ∧ u.key = none := by
  rw [vfAt_updVf]
  split
  · exact ⟨rfl, rfl⟩
  case isFalse h =>
    have hv : vfAt t vf = {} := List.getD_eq_default _ _ (by omega)
    rw [hv]
    exact ⟨rfl, rfl⟩

section Quota
variable {s : State} {vf : Nat} (h1 : 1 ≤ vf) (h2 : vf ≤ 192)
include h1 h2

theorem enableWrite_sets (he : (vfAt s vf).en = false) (hq : queuesFree s vf = true) : enableWrite s vf true =
    logEvent { updVf s vf (fun v => { v with en := true, key := some s.nextKey }) with nextKey := s.nextKey + 1 } 9 vf := by
  have hn : ¬ (vf = 0 ∨ 192 < vf ∨ (vfAt s vf).en = true) := by simp [he]; omega
  exact (if_neg hn).trans ((if_pos rfl).trans (if_neg (by simp [hq])))

/-- Whatever ends with the function, its enable and its key go last. -/
theorem enableWrite_clears (he : (vfAt s vf).en = true) :
    ∃ t, enableWrite s vf false = logEvent (updVf t vf fun v => { v with en := false, key := none }) 9 vf := by
  have hn : ¬ (vf = 0 ∨ 192 < vf ∨ (vfAt s vf).en = false) := by simp [he]; omega
  exact ⟨_, (if_neg hn).trans (if_neg Bool.false_ne_true)⟩

theorem quadsWrite_disabled (he : (vfAt s vf).en = false) (n : Nat) :
    quadsWrite s vf n = updVf s vf fun v => { v with quads := n % 2 ^ 256 } :=
  (if_neg (by omega)).trans (if_pos (by simp [he]))

theorem quadsWrite_enabled (he : (vfAt s vf).en = true) (n : Nat) : quadsWrite s vf n = settleQuads
    (askSave (updVf s vf fun v => { v with quadsNext := some (n % 2 ^ 256) }) .quads
      fun k => k.vf == vf && !bitB (n % 2 ^ 256) (quadOfCore k.core)) vf :=
  (if_neg (by omega)).trans (if_neg (by simp [he]))

end Quota

/-! ### Register writes -/

section Write
variable {s : State} {fn off : Nat} (hh : s.halted = false) (hl : noLink s = false)
include hh hl

/-- The registers of a function's BAR0 below its launch queues. -/
theorem regWrite_function (hf : fn ≤ 192) (ho : off < 0x100) (v : Nat) : regWrite s fn off v =
    if off = 8 then s1rootWrite s fn v
    else if off = 0x28 ∨ off = 0x34 then frWrite s fn off v
    else if off = 0x40 then fragWrite s fn v false
    else if off = 0x44 then fragWrite s fn v true
    else if off = 0x48 then labortWrite s fn v
    else if off = 0x58 then svcStart s fn v
    else updVf s fn fun x => plainWrite x off v := by
  have hn : ¬ (192 < fn ∨ noLink s = true) := by simp [hl, Nat.not_lt.2 hf]
  exact (if_neg hn).trans <| (if_neg (by omega)).trans <| (if_neg (by simp [hh])).trans <| (if_neg (by omega)).trans <|
    if_neg (by omega)

/-- A register without an effect beyond its value. -/
theorem regWrite_plain (hf : fn ≤ 192) (ho : off < 0x100) (hp : off ∉ [8, 0x28, 0x34, 0x40, 0x44, 0x48, 0x58]) (v : Nat) :
    regWrite s fn off v = updVf s fn fun x => plainWrite x off v := by
  simp only [List.mem_cons, List.not_mem_nil, or_false, not_or] at hp
  obtain ⟨h8, h28, h34, h40, h44, h48, h58⟩ := hp
  simp only [regWrite_function hh hl hf ho, h8, h28, h34, h40, h44, h48, h58, or_self, if_false]

theorem regWrite_labort (hf : fn ≤ 192) (v : Nat) : regWrite s fn 0x48 v = labortWrite s fn v :=
  regWrite_function hh hl hf (by decide) v

theorem regWrite_svcstart (hf : fn ≤ 192) (v : Nat) : regWrite s fn 0x58 v = svcStart s fn v :=
  regWrite_function hh hl hf (by decide) v

theorem regWrite_device (h : 0x8000 ≤ off) (ho : off < 0x10000) (v : Nat) : regWrite s 0 off v = deviceWrite s off v := by
  have hn : ¬ (192 < 0 ∨ noLink s = true) := by simp [hl]
  exact (if_neg hn).trans <| (if_neg (by omega)).trans <| (if_neg (by simp [hh])).trans <| (if_pos h).trans <|
    (if_neg (not_not.2 rfl)).trans (if_pos ho)

end Write

theorem regWrite_noLink {s : State} (h : noLink s = true) (fn off v : Nat) : regWrite s fn off v = s := if_pos (.inr h)

/-! ### The host's writes to a module that is not halted -/

section Live
variable {s : State} (hh : s.halted = false)
include hh

theorem exec_hostWrite_live (fn gpa : Nat) (data : List Byte) : exec (.hostWrite fn gpa data) s = .next (hostWrite s fn gpa data) :=
  live_on (hostWrite · fn gpa data) hh

theorem exec_labortWrite_live (fn v : Nat) : exec (.labortWrite fn v) s = .next (labortWrite s fn v) :=
  live_on (labortWrite · fn v) hh

theorem exec_s1rootWrite_live (fn v : Nat) : exec (.s1rootWrite fn v) s = .next (retryRecords (dropTlb
    { updVf s fn (fun x => { x with s1root := v % 2 ^ 64 }) with
      fabric := { s.fabric with exports := s.fabric.exports.filter (·.1 != fn) } } fn isStage1) fn) :=
  live_on (s1rootWrite · fn v) hh

/-- The fault ring's records are tried again after each write of its base or its tail. -/
theorem exec_faultRingConfigWrite_live (fn v : Nat) :
    exec (.faultRingConfigWrite fn 0x28 v) s = .next (retryRecords
      (updVf s fn fun x => { x with frbase := v % 2 ^ 64 / 4096 * 4096, frlog2n := v % 16 }) fn) ∧
    exec (.faultRingConfigWrite fn 0x34 v) s = .next (retryRecords (updVf s fn fun x => { x with frtail := v % 2 ^ 32 }) fn) :=
  ⟨live_on _ hh, live_on _ hh⟩

theorem exec_fresumeWrite_live (fn id : Nat) : exec (.fresumeWrite fn id) s =
    .next (reap (actFrag (updVf s fn fun x => { x with fresume := id % 2 ^ 32 }) (if fn = 0 then none else some fn) (id % 2 ^ 32)
      false)) := live_on (fragWrite · fn id false) hh

theorem exec_fkillWrite_live (fn id : Nat) : exec (.fkillWrite fn id) s =
    .next (reap (actFrag (updVf s fn fun x => { x with fkill := id % 2 ^ 32 }) (if fn = 0 then none else some fn) (id % 2 ^ 32)
      true)) := live_on (fragWrite · fn id true) hh

theorem exec_svcstartWrite_live (fn v : Nat) : exec (.svcstartWrite fn v) s = .next (svcStart s fn v) :=
  live_on (svcStart · fn v) hh

theorem exec_vfEnableWrite_live (vf : Nat) (en : Bool) : exec (.vfEnableWrite vf en) s = .next (enableWrite s vf en) :=
  live_on (enableWrite · vf en) hh

theorem exec_vfQuadsChange_live (vf n : Nat) : exec (.vfQuadsChange vf n) s = .next (quadsWrite s vf n) :=
  live_on (quadsWrite · vf n) hh

theorem exec_registerWrite_function (fn v : Nat) (hf : fn ≤ 192) (hl : noLink s = false) :
    exec (.registerWrite fn 0x10 v) s = .next (updVf s fn fun x => { x with ttbase := v % 2 ^ 64 }) ∧
    exec (.registerWrite fn 0x18 v) s = .next (updVf s fn fun x => { x with qtbase := v % 2 ^ 64 }) ∧
    exec (.registerWrite fn 0x20 v) s = .next (updVf s fn fun x => { x with trapcode := v % 2 ^ 64 }) ∧
    exec (.registerWrite fn 0x38 v) s = .next (updVf s fn fun x => { x with fobj := v % 2 ^ 64 }) ∧
    exec (.registerWrite fn 0x4C v) s = .next (updVf s fn fun x => { x with intst := x.intst &&& ~~~(BitVec.ofNat 4 v) }) ∧
    exec (.registerWrite fn 0x50 v) s = .next (updVf s fn fun x => { x with inten := v % 8 }) ∧
    exec (.registerWrite fn 0x60 v) s = .next (updVf s fn fun x => { x with exbase := v % 2 ^ 64 }) ∧
    exec (.registerWrite fn 0x68 v) s = .next (updVf s fn fun x => { x with imbase := v % 2 ^ 64 }) ∧
    exec (.registerWrite fn 0x48 v) s = exec (.labortWrite fn v) s ∧
    exec (.registerWrite fn 0x58 v) s = exec (.svcstartWrite fn v) s := by
  have plain {off : Nat} (ho : off < 0x100) (hp : off ∉ [8, 0x28, 0x34, 0x40, 0x44, 0x48, 0x58]) :
      exec (.registerWrite fn off v) s = .next (updVf s fn fun x => plainWrite x off v) :=
    congrArg Host.Outcome.next (regWrite_plain hh hl hf ho hp v)
  exact ⟨plain (by decide) (by decide), plain (by decide) (by decide), plain (by decide) (by decide),
    plain (by decide) (by decide), plain (by decide) (by decide), plain (by decide) (by decide), plain (by decide) (by decide),
    plain (by decide) (by decide),
    (congrArg Host.Outcome.next (regWrite_labort hh hl hf v)).trans (exec_labortWrite_live hh fn v).symm,
    (congrArg Host.Outcome.next (regWrite_svcstart hh hl hf v)).trans (exec_svcstartWrite_live hh fn v).symm⟩

theorem exec_registerWrite_device (v : Nat) (hl : noLink s = false) :
    exec (.registerWrite 0 0x8048 v) s = .next { s with tslen := v % 2 ^ 32 } ∧
    exec (.registerWrite 0 0x8054 v) s = .next { s with pod := { s.pod with
      ship := v / 2 ^ 24 % 2 ^ 8, high := v / 2 ^ 12 % 2 ^ 12, low := v % 2 ^ 12 } } := by
  have device {off : Nat} (h : 0x8000 ≤ off) (ho : off < 0x10000) :
      exec (.registerWrite 0 off v) s = .next (deviceWrite s off v) :=
    congrArg Host.Outcome.next (regWrite_device hh hl h ho v)
  refine ⟨device (by decide) (by decide), (device (by decide) (by decide)).trans (congrArg Host.Outcome.next ?_)⟩
  have h0 : fld v 0 12 = v % 2 ^ 12 := by rw [fld, Nat.pow_zero, Nat.div_one]
  exact congrArg (fun l => { s with pod := { s.pod with ship := fld v 24 8, high := fld v 12 12, low := l } }) h0

end Live

/-- The bay of a service crew is the first its launch asks for among those of its function's quads, else the first of them. -/
theorem serviceBay_first {s : State} {fn b : Nat} {d : LDesc} {rest : List Nat} :
    let bays := (List.range Config.bays).filter fun b => (List.range 4).any fun i => holdsQuad s fn (4 * b + i)
    (bays.filter fun b => bitB d.baymask b) ++ bays = b :: rest → serviceBay s fn d = some b := fun h => congrArg List.head? h

/-- Settles O52: a clause at a time, each by the lemma about the function its event calls. -/
theorem hostEventsTakeEffect : Obligations.HostEventsTakeEffect := by
  intro s hh
  refine ⟨?writeHost, ?writeMemory, ?writeWaits, ?readNoLink, ?writeNoLink, ?readBlock, ?readCapacities, ?readHost, ?readMemory,
    exec_s1rootWrite_live hh, exec_faultRingConfigWrite_live hh, ?fragment, ?service, ?enable, ?disable, ?quadsDisabled,
    ?quadsEnabled, fun fn v hf hd => exec_registerWrite_function hh fn v hf (noLink_false hd),
    fun v hd => exec_registerWrite_device hh v (noLink_false hd)⟩
  case writeHost => exact fun fn gpa data h => (exec_hostWrite_live hh ..).trans (congrArg Host.Outcome.next (hostWrite_host h))
  case writeMemory =>
    intro fn gpa data ls h hl
    refine ⟨fun v hc => ⟨?_, etime_le_hostStampTime _ fn, fun hf => ⟨hostTime_hostStamp hf, ?_⟩⟩, fun v hc => ?_⟩
    · exact (exec_hostWrite_live hh ..).trans (congrArg Host.Outcome.next (hostWrite_clear h hl hc))
    · rw [hostTime_hostStamp hf]
      exact hostTime_lt_hostStampTime _ fn
    · exact (exec_hostWrite_live hh ..).trans (congrArg Host.Outcome.next (hostWrite_shared h hl hc))
  case writeWaits => exact fun fn gpa data h hl => (exec_hostWrite_live hh ..).trans (congrArg Host.Outcome.next (hostWrite_waits h hl))
  case readNoLink =>
    intro fn off n hd ho
    rw [exec_hostRead_register (by omega), regRead_noLink (noLink_iff.2 hd)]
  case writeNoLink => exact fun fn off v hd => congrArg Host.Outcome.next (regWrite_noLink (noLink_iff.2 hd) fn off v)
  case readBlock =>
    intro fn off n hd ho hn
    rw [exec_hostRead_register (by omega), regRead_block (noLink_false hd) hh ho]
  case readCapacities =>
    intro off n hd ho hn
    refine ⟨(countCaps s).dcap, rfl, ?_⟩
    have hl : noLink (countCaps s) = false := noLink_false hd
    rw [exec_hostRead_capacities hn ho, regRead_block hl hh (by omega)]
    rfl
  case readHost =>
    intro fn gpa n h h2
    rw [exec_hostRead_memory hh h2, hostRead_host h]
  case readMemory =>
    intro fn gpa n ls h hl
    rw [exec_hostRead_memory hh (by omega), hostRead_device h hl]
  case fragment =>
    intro fn id who u t
    refine ⟨fun hf => ⟨?_, ?_⟩, fun f hf hc => ⟨?_, ?_⟩⟩
    · exact (exec_fresumeWrite_live hh fn id).trans (congrArg (Host.Outcome.next <| reap ·) (actFrag_none (s := u) hf false))
    · exact (exec_fkillWrite_live hh fn id).trans (congrArg (Host.Outcome.next <| reap ·) (actFrag_none (s := t) hf true))
    · exact (exec_fresumeWrite_live hh fn id).trans (congrArg (Host.Outcome.next <| reap ·) (actFrag_idle (s := u) hf hc false))
    · exact (exec_fkillWrite_live hh fn id).trans (congrArg (Host.Outcome.next <| reap ·) (actFrag_idle (s := t) hf hc true))
  case service =>
    intro fn v bs b rest u d bays
    have hm : v % 2 ^ 64 % 2 ^ 56 = v % 2 ^ 56 := Nat.mod_mod_of_dvd v (pow_dvd_pow 2 (by decide))
    refine ⟨fun h => ?_, fun x h hr => ?_, fun h hr hb hc hs h0 ha => ?_⟩
    all_goals rw [exec_svcstartWrite_live hh]
    · rw [svcStart_full h]
    · rw [svcStart_room h, serviceTry_waits (x := x) (by rw [hm]; exact hr)]
    · rw [svcStart_room h, serviceTry_starts (by rw [hm]; exact hr) (serviceBay_first hb) hc hs h0 ha]
  case enable =>
    intro vf h1 h2 he hq
    rw [exec_vfEnableWrite_live hh, enableWrite_sets h1 h2 he hq]
  case disable =>
    intro vf h1 h2 he
    obtain ⟨t, ht⟩ := enableWrite_clears h1 h2 he
    exact ⟨_, (exec_vfEnableWrite_live hh vf false).trans (congrArg Host.Outcome.next ht), vfAt_disabled t vf⟩
  case quadsDisabled =>
    intro vf n h1 h2 he
    rw [exec_vfQuadsChange_live hh, quadsWrite_disabled h1 h2 he]
  case quadsEnabled =>
    intro vf n h1 h2 he
    rw [exec_vfQuadsChange_live hh, quadsWrite_enabled h1 h2 he]
    rfl

end Sys2Proof.Machine
end

section
/-! SUPPORT. The frame of the memory words: register fields, the checks of the lanes, and the accesses of the lanes that pass
(R34, R59, R176, R183, R255, R266). -/

namespace Sys2Proof.Machine

/-! ### Register fields and results -/

theorem bad_aop {s : State} {v : Bool} {a : Nat} (h : AddrInRange s v a) : Field.bad s.w.window (aop v a) = false := by
  cases v
  · exact (bad_s ..).trans (decide_eq_false (Nat.not_le.2 h))
  · exact (bad_v ..).trans (decide_eq_false (Nat.not_le.2 h))

/-- R34: a word with one register field of its own and an address register is in range when both are. -/
theorem regrange_access {i : Instr} {s : State} {f g : Field} (hi : fields i = [f, g]) (hf : Field.bad s.w.window f = false)
    (hg : Field.bad s.w.window g = false) : regrange s.w.window i = false :=
  regrange_false fun x hx => by
    rw [hi, List.mem_pair] at hx
    rcases hx with rfl | rfl <;> assumption

/-- The result of a word in each lane it acts on, known at once. -/
theorem resV_eq {i : Instr} {d la : Nat} (hi : targetOf i = some ⟨.v, d, 1⟩) (hl : laOf i = la) (t : State) (f : Nat → Word) :
    resV t i d f 0 false = withResult t ⟨.v, d, 1⟩ la 0 (perLane (liveMask t) fun l => [.v l d (f l)]) 0 false := by
  rw [resV, addPend_some hi, hl]
  rfl

/-! ### The checks of a word's lanes (R183, R255) -/

/-- The checks of a lane are over, and it neither waits nor has failed. -/
def Reach.passes : Reach → Bool
  | .go _ | .peer _ => true
  | _ => false

/-- The checks of a lane are over: it passes, or it has failed. -/
def Reach.over : Reach → Bool
  | .bad _ => true
  | r => r.passes

theorem passes_of_answered {n : Nat} {r : Reach} (h : Answered n r) : r.passes = true := by
  rcases h with ⟨ls, rfl, -⟩ | ⟨bs, rfl, -⟩ <;> rfl

theorem Reach.over_of_passes {r : Reach} (h : r.passes = true) : r.over = true := by
  cases r <;> first | rfl | cases h

/-- What the checks gave each lane that issues, lowest first. -/
def laneChecks (s : State) (f : Nat → Reach) : List (Nat × Reach) := (lanesOf s.iss.active).map fun l => (l, f l)

section Checks
variable {s : State} {f : Nat → Reach}

theorem mem_lanesOf {m : LaneMask} {l : Nat} : l ∈ lanesOf m ↔ l < 64 ∧ m.getLsbD l = true := by simp [lanesOf]

/-- No lane waits for a walk, a peer or a die: the checks have a result. -/
theorem gather_over (kind : Nat) (ask : Nat → List Byte × List Byte)
    (h : ∀ l < 64, s.iss.active.getLsbD l = true → (f l).over = true) : gather s f kind ask = .ok (laneChecks s f) := by
  have hno (p : Nat × Reach → Bool) (hp : ∀ l, (f l).over = true → p (l, f l) = false) :
      ((lanesOf s.iss.active).map fun l => (l, f l)).any p = false := by
    simp only [List.any_map, List.any_eq_false]
    intro l hl
    obtain ⟨hl, ha⟩ := mem_lanesOf.1 hl
    simp [hp l (h l hl ha)]
  have hwalk := hno (·.2.isWalk) fun l ho => by cases hf : f l <;> simp_all [Reach.over, Reach.passes, Reach.isWalk]
  have hask := hno (·.2.isAsk) fun l ho => by cases hf : f l <;> simp_all [Reach.over, Reach.passes, Reach.isAsk]
  have hhold := hno (·.2 == .hold) fun l ho => by cases hf : f l <;> simp_all [Reach.over, Reach.passes]
  simp only [gather, hwalk, hask, hhold, Bool.false_and, Bool.false_eq_true, if_false]
  rfl

theorem faultsOf_passed (h : ∀ l < 64, s.iss.active.getLsbD l = true → (f l).passes = true) :
    faultsOf (laneChecks s f) = [] := by
  simp only [faultsOf, laneChecks, List.filterMap_map, List.filterMap_eq_nil_iff]
  intro l hl
  obtain ⟨hl, ha⟩ := mem_lanesOf.1 hl
  have := h l hl ha
  cases hf : f l <;> simp_all [Reach.passes]

/-- Where no lane fails, the checks use up what the lanes held for them. -/
theorem closeChecks_passed {rs : List (Nat × Reach)} (h : faultsOf rs = []) : closeChecks s rs = checksOver s := by
  have ho : ofActive s = ownRequest s := funext fun r => by
    unfold ofActive ownRequest
    cases r.who <;> rfl
  simp only [closeChecks, h, wholeFault, List.isEmpty_nil, Bool.not_true, Bool.false_and, Bool.false_eq_true, if_false,
    Bool.not_false, Bool.and_true, faultLanes_nil, ho]
  rfl

/-- A word whose checks have a result ends there if it must wait or the whole warp faults, and else goes on. -/
theorem memOp_over (kind : Nat) (ask : Nat → List Byte × List Byte) (go : State → List (Nat × Reach) → State)
    (h : ∀ l < 64, s.iss.active.getLsbD l = true → (f l).over = true) : memOp s f kind ask go =
      if (closeChecks s (laneChecks s f)).iss.abort || (closeChecks s (laneChecks s f)).iss.stall then closeChecks s (laneChecks s f)
      else go (closeChecks s (laneChecks s f)) (laneChecks s f) := by
  simp only [memOp, gather_over kind ask h]

/-- A memory word all of whose lanes pass goes on to their accesses. -/
theorem memOp_passed (kind : Nat) (ask : Nat → List Byte × List Byte) (go : State → List (Nat × Reach) → State)
    (hs : MemoryReady s) (h : ∀ l < 64, s.iss.active.getLsbD l = true → (f l).passes = true) :
    memOp s f kind ask go = go (checksOver s) (laneChecks s f) := by
  obtain ⟨-, habort, hstall⟩ := hs
  have hr : ((checksOver s).iss.abort || (checksOver s).iss.stall) = false := congrArg₂ or habort hstall
  rw [memOp_over kind ask go fun l hl ha => Reach.over_of_passes (h l hl ha), closeChecks_passed (faultsOf_passed h), hr]
  rfl

/-- The accesses go, lane by lane, over the lanes that passed and do not fault. -/
theorem forGo_laneChecks {α : Type} {g : State → α → Nat → Reach → α × State}
    (hg : ∀ t x l r, (g t x l r).2.iss.faulted = t.iss.faulted) (t : State) (x : α) :
    forGo t (laneChecks s f) x g =
      ((lanesOf s.iss.active).filter fun l => (f l).passes && !t.iss.faulted.getLsbD l).foldl
        (fun y l => g y.2 y.1 l (f l)) (x, t) := by
  simp only [forGo, laneChecks]
  generalize lanesOf s.iss.active = ls
  induction ls generalizing t x with
  | nil => rfl
  | cons l ls ih =>
    rw [List.map_cons, List.foldl_cons, List.filter_cons]
    by_cases hp : ((f l).passes && !t.iss.faulted.getLsbD l) = true
    · have hb : t.iss.faulted.getLsbD l = false := by simp_all
      have := ih (g t x l (f l)).2 (g t x l (f l)).1
      rw [hg] at this
      rw [if_pos hp, List.foldl_cons, ← this]
      cases hf : f l <;> simp_all [Reach.passes]
    · rw [if_neg hp, ← ih t x]
      cases hf : f l <;> simp_all [Reach.passes]

/-- Where every lane passes, those are the lanes that the word acts on. -/
theorem passed_lanes (h : ∀ l < 64, s.iss.active.getLsbD l = true → (f l).passes = true) :
    ((lanesOf s.iss.active).filter fun l => (f l).passes && !s.iss.faulted.getLsbD l) = liveLanes s := by
  rw [lanesOf, List.filter_filter, liveLanes, lanesThat]
  refine List.filter_congr fun l hl => ?_
  have hl := List.mem_range.1 hl
  simp only [liveMask, BitVec.getLsbD_and, BitVec.getLsbD_not, hl, decide_true, Bool.true_and]
  cases ha : s.iss.active.getLsbD l with
  | true => simp [h l hl ha]
  | false => simp

/-- Where every lane passes, the accesses go over the lanes that the word acts on. -/
theorem forGo_passed {α : Type} {g : State → α → Nat → Reach → α × State}
    (hg : ∀ t x l r, (g t x l r).2.iss.faulted = t.iss.faulted)
    (h : ∀ l < 64, s.iss.active.getLsbD l = true → (f l).passes = true) (x : α) :
    forGo (checksOver s) (laneChecks s f) x g = (liveLanes s).foldl (fun y l => g y.2 y.1 l (f l)) (x, checksOver s) := by
  rw [forGo_laneChecks hg, ← passed_lanes h]
  rfl

end Checks

end Sys2Proof.Machine
end

section
/-! SUPPORT. Fragments: the entry that failing lanes take, what taking it changes, and the lanes of a scratchpad load that go on
(R182, R187, R255 to R258, R266). -/

namespace Sys2Proof.Machine

/-! ### The entry of a fault (R257, R262, R266) -/

section Entry
variable (s : State)

/-- The lowest shared entry of the core that is not in use. -/
def freeShared : Option Nat := (List.range Config.sharedFrags).find? fun e => !entryTaken s s.c.core e

/-- A shared entry is to be had: one is free, and the function's quota leaves room for it. -/
def sharedRoom : Bool :=
  decide (sharedHeld s s.c.core s.c.vf < if s.c.vf = 0 then 128 else min (vfAt s s.c.vf).fragq 128) && (freeShared s).isSome

theorem sharedEntry_eq : sharedEntry s s.c.core s.c.vf = if sharedRoom s then some ((freeShared s).getD 0) else none := by
  have hq : fragLimit s s.c.vf = if s.c.vf = 0 then 128 else min (vfAt s s.c.vf).fragq 128 := rfl
  rw [sharedEntry, hq, sharedRoom]
  change (if _ then freeShared s else none) = _
  cases freeShared s <;> simp

theorem faultEntry_eq : faultEntry s = if sharedRoom s then some ((freeShared s).getD 0)
    else if entryTaken s s.c.core (128 + s.w.slot) then none else some (128 + s.w.slot) := by
  rw [faultEntry, sharedEntry_eq]
  cases sharedRoom s <;> rfl

theorem freeShared_lt : (freeShared s).getD 0 < 128 := by
  cases h : freeShared s with
  | none => decide
  | some e => exact List.mem_range.1 (List.mem_of_find?_eq_some h)

end Entry

/-! ### What a fault of lanes changes (R255, R256) -/

section Faults
variable {s : State} {f0 : LaneFault} {fs : List LaneFault} {e : Nat}

/-- The fragment of failing lanes: of the whole warp where the entry is the warp's own. -/
def faultFrag (s : State) (e : Nat) (f0 : LaneFault) (fs : List LaneFault) : Frag where
  core := s.c.core
  entry := e
  gen := (takeEntry s s.c.core e).1
  whole := decide (128 ≤ e)
  intrap := s.w.trapV
  crew := s.c.id
  warp := s.w.idx
  slot := s.w.slot
  vf := s.c.vf
  repk := if s.iss.rep then some (s.w.rep.toNat % 64) else none
  cls := f0.cls
  code := f0.code
  pc := s.iss.pc
  lanes := if decide (128 ≤ e) then s.iss.active else maskOf fun l => (f0 :: fs).any (·.lane == l)
  launch := s.c.launch
  addr := f0.addr
  more := decide (1 < (pagesOf (f0 :: fs)).length)

/-- The state in which a fragment has been formed: its lanes are PARKED and fault, and in whole-warp mode the bundle ends. -/
def parks (s : State) (fr : Frag) (cores : List Core) (vfs : List Vf) : State :=
  { s with
    frags := s.frags ++ [fr], cores := cores, vfs := vfs
    iss := { s.iss with faulted := fr.lanes, abort := fr.whole || s.iss.abort }
    w := mapLanes s.w fr.lanes fun _ ln => { ln with st := .parked, inRep := false } }

theorem faultLanes_parks (he : faultEntry s = some e) :
    ∃ cores vfs, faultLanes s (f0 :: fs) = parks s (faultFrag s e f0 fs) cores vfs := by
  simp only [faultLanes, he]
  exact ⟨_, _, rfl⟩

/-- No entry can be taken: the bundle does not issue (R262). -/
theorem closeChecks_full {rs : List (Nat × Reach)} (hf : faultsOf rs ≠ []) (he : faultEntry s = none) :
    closeChecks s rs = stalled s := by
  simp [closeChecks, hf, he]

/-- Lanes fail and an entry is taken: requests to peers and translations are used up, and the lanes are PARKED. -/
theorem closeChecks_parks {rs : List (Nat × Reach)} (hf : faultsOf rs = f0 :: fs) (he : faultEntry s = some e) :
    ∃ xlat fabric cores vfs, closeChecks s rs =
      parks { s with w := { s.w with xlat := xlat }, fabric := fabric } (faultFrag s e f0 fs) cores vfs := by
  let u : State := dropReqs { s with w := { s.w with xlat := s.w.xlat.filter fun x => !s.iss.active.getLsbD x.lane } } fun r =>
    ofActive s r && !(wholeFault s rs && peerDone r)
  have hc : closeChecks s rs = faultLanes u (f0 :: fs) := by
    simp only [closeChecks, hf, he, Option.isNone_some, Bool.and_false, Bool.false_eq_true, if_false]
    rfl
  obtain ⟨cores, vfs, h⟩ := faultLanes_parks (s := u) (f0 := f0) (fs := fs) he
  exact ⟨_, _, cores, vfs, hc.trans h⟩

end Faults

/-! ### Loads from the scratchpad (R171, R178, R187) -/

/-- `t` differs from `s` at most in the times of lines and in the cores. -/
def SameButCores (s t : State) : Prop := t = { s with lines := t.lines, cores := t.cores }

theorem SameButCores.trans {s t u : State} (h : SameButCores s t) (h' : SameButCores t u) : SameButCores s u := by
  rw [SameButCores] at h h' ⊢
  rw [h', h]

theorem loadHome_places (t : State) (ls : List Loc) (lease : Nat) (ls' : List Loc) :
    SameButCores t (loadHome t (placeFetch ls) lease ls').2 := by
  obtain ⟨lines, h⟩ := readLines_frame t (placeTags ls) (homeTime t (placeFetch ls)) lease
  have hf : fetchHome t (placeFetch ls) lease = { t with lines := lines } := h
  rw [SameButCores, loadHome, hf]
  rfl

/-- Bytes of a scratchpad are never cached: they come from their bank. -/
theorem loadBytes_share (t : State) (q : Nat) (ls : List Nat) (hls : ls ≠ []) (ps : List Loc) (poll : Bool) :
    (loadBytes t (placeFetch ps) poll (ls.map (.sp q))).1 = ls.map (memGet (quadAt t q).sp) ∧
    SameButCores t (loadBytes t (placeFetch ps) poll (ls.map (.sp q))).2 := by
  obtain ⟨o, ls, rfl⟩ := List.exists_cons_of_ne_nil hls
  have hc : copyBytes t (placeFetch ps) poll ((o :: ls).map (.sp q)) = none := by simp [copyBytes]
  simp only [loadBytes, hc]
  refine ⟨?_, loadHome_places ..⟩
  simp only [loadHome, List.map_map]
  rfl

theorem loadBytes_places_iss (t : State) (ps : List Loc) (poll : Bool) (ls : List Loc) :
    (loadBytes t (placeFetch ps) poll ls).2.iss = t.iss := by
  have hh (u : State) (lease : Nat) : (loadHome u (placeFetch ps) lease ls).2.iss = u.iss :=
    (congrArg State.iss (show _ = _ from loadHome_places u ps lease ls) :)
  simp only [loadBytes]
  split
  · split
    · rfl
    · exact hh _ _
  · exact hh _ _

section Share
variable {s : State} {v : Bool} {a l n : Nat}

/-- The bytes of a lane's access lie beyond its share. -/
def beyondShare (s : State) (v : Bool) (a n l : Nat) : Bool := decide (s.c.shareSize < offsetOf s v a l + n)

theorem reachSp_beyond (h : beyondShare s v a n l = true) (arm align : Bool) :
    reachSp s l arm align (offsetOf s v a l) n = .bad ⟨l, 4, 2, offsetOf s v a l, offsetOf s v a l⟩ :=
  if_pos (of_decide_eq_true h)

theorem reachSp_within (h : beyondShare s v a n l = false) : reachSp s l false false (offsetOf s v a l) n =
    .go (((List.range n).map fun i => s.c.shareBase + offsetOf s v a l + i).map (.sp (s.c.core / 4))) := by
  simp only [reachSp, if_neg (of_decide_eq_false h), List.map_map]
  rfl

theorem reachSp_passes : (reachSp s l false false (offsetOf s v a l) n).passes = !beyondShare s v a n l := by
  cases h : beyondShare s v a n l
  · rw [reachSp_within h]; rfl
  · rw [reachSp_beyond h]; rfl

theorem reachSp_over : (reachSp s l false false (offsetOf s v a l) n).over = true := by
  cases h : beyondShare s v a n l
  · rw [reachSp_within h]; rfl
  · rw [reachSp_beyond h]; rfl

end Share

end Sys2Proof.Machine
end

section
/-! SUPPORT. The scratchpad load on which lanes fail (R182, R187, R255 to R258, R266). -/

namespace Sys2Proof.Machine

section Lds
variable {s : State} {la d a n : Nat} {v sx : Bool} {sz : Size}

theorem targetOf_lds : targetOf (.lds la d a v sx sz) = some ⟨.v, d, Size.regs sz⟩ := rfl

/-- The failing lanes of a scratchpad access, and their fault: SHARE, with the lane's offset (R182, R187). -/
def beyondLanes (s : State) (v : Bool) (a n : Nat) : List Nat :=
  lanesThat fun l => s.iss.active.getLsbD l && beyondShare s v a n l
/-- The lanes that load. -/
def loadLanes (s : State) (v : Bool) (a n : Nat) : List Nat :=
  lanesThat fun l => s.iss.active.getLsbD l && !(s.iss.active.getLsbD l && beyondShare s v a n l)
def shareFault (s : State) (v : Bool) (a l : Nat) : LaneFault := ⟨l, 4, 2, offsetOf s v a l, offsetOf s v a l⟩

theorem faultsOf_share : faultsOf (laneChecks s fun l => reachSp s l false false (offsetOf s v a l) n) =
    (beyondLanes s v a n).map (shareFault s v a) := by
  have hb : beyondLanes s v a n = (lanesOf s.iss.active).filter (beyondShare s v a n) := by
    rw [beyondLanes, lanesThat, lanesOf, List.filter_filter]
    exact List.filter_congr fun l _ => Bool.and_comm ..
  rw [hb, faultsOf, laneChecks, List.filterMap_map]
  generalize lanesOf s.iss.active = ls
  induction ls with
  | nil => rfl
  | cons l ls ih =>
    cases h : beyondShare s v a n l with
    | true => simpa [h, reachSp_beyond h, shareFault] using ih
    | false => simpa [h, reachSp_within h] using ih

/-- What a lane of a scratchpad load reads. -/
def shareByte (s : State) (v : Bool) (a l i : Nat) : Byte :=
  memGet (quadAt s (s.c.core / 4)).sp (s.c.shareBase + offsetOf s v a l + i)

/-- The reads of a scratchpad load, lane after lane: the registers they fill, and at most times change. -/
theorem foldl_lds (ls : List Nat) (hls : ∀ l ∈ ls, beyondShare s v a (Size.bytes sz) l = false) (acc : List RegWrite) (t : State)
    (hq : t.quads = s.quads) :
    ∃ u, SameButCores t u ∧ ls.foldl (fun (y : List RegWrite × State) l =>
      match reachSp s l false false (offsetOf s v a l) (Size.bytes sz) with
      | .peer bs => (y.1 ++ regWrites d l (loadRegs sz sx bs), y.2)
      | .go ps => (y.1 ++ regWrites d l (loadRegs sz sx (loadBytes y.2 (placeFetch ps) false ps).1),
          (loadBytes y.2 (placeFetch ps) false ps).2)
      | _ => (y.1, y.2)) (acc, t) = (acc ++ ls.flatMap fun l => loadedRegs sz sx d l (shareByte s v a l), u) := by
  induction ls generalizing acc t with
  | nil => exact ⟨t, rfl, by simp⟩
  | cons l ls ih =>
    have hn : (List.range (Size.bytes sz)).map (fun i => s.c.shareBase + offsetOf s v a l + i) ≠ [] := by
      cases sz <;> simp [Size.bytes]
    obtain ⟨hb, ht⟩ := loadBytes_share t (s.c.core / 4) _ hn
      (((List.range (Size.bytes sz)).map fun i => s.c.shareBase + offsetOf s v a l + i).map (.sp (s.c.core / 4))) false
    have hq' := (congrArg State.quads ht).trans hq
    obtain ⟨u, hu, h⟩ := ih (fun l' hl' => hls l' (List.mem_cons_of_mem _ hl'))
      (acc ++ loadedRegs sz sx d l (shareByte s v a l)) _ hq'
    refine ⟨u, ht.trans hu, ?_⟩
    rw [List.foldl_cons, reachSp_within (hls l List.mem_cons_self), List.flatMap_cons, ← List.append_assoc, ← h]
    have hr : regWrites d l (loadRegs sz sx (((List.range (Size.bytes sz)).map fun i =>
        s.c.shareBase + offsetOf s v a l + i).map (memGet (quadAt t (s.c.core / 4)).sp))) =
        loadedRegs sz sx d l (shareByte s v a l) := by
      rw [List.map_map, quadAt, hq]
      exact regWrites_loadRegs sx d l _ sz
    simp only [hb, hr]

theorem exec_lds_ready (hs : MemoryReady s) (hd : InWindow s d (Size.regs sz)) (ha : AddrInRange s v a) :
    exec (.lds la d a v sx sz) s = .next (loadOp s (.lds la d a v sx sz) d sz sx
      (fun l => reachSp s l false false (offsetOf s v a l) (Size.bytes sz)) fun s _ ls => loadBytes s (placeFetch ls) false ls) :=
  exec_pipeFree (exec_lds ..) hs.1 (by simp [majorOf]) (regrange_access rfl (bad_inWindow hd).2.1 (bad_aop ha))

/-- Lanes fail and no entry can be taken: the bundle does not issue. -/
theorem exec_lds_full (hs : MemoryReady s) (hd : InWindow s d (Size.regs sz)) (ha : AddrInRange s v a)
    (hf : beyondLanes s v a (Size.bytes sz) ≠ []) (he : faultEntry s = none) :
    exec (.lds la d a v sx sz) s = .next (stalled s) := by
  rw [exec_lds_ready hs hd ha, loadOp, memOp_over _ _ _ fun _ _ _ => reachSp_over, closeChecks_full (by simp [faultsOf_share, hf]) he]
  simp [stalled]

/-- The fragment of the failing lanes of a scratchpad load. -/
def shareFrag (s : State) (e : Nat) (v : Bool) (a n : Nat) : Frag :=
  faultFrag s e (shareFault s v a ((beyondLanes s v a n).headD 0)) ((beyondLanes s v a n).tail.map (shareFault s v a))

theorem closeChecks_share {e : Nat} (hf : beyondLanes s v a n ≠ []) (he : faultEntry s = some e) :
    ∃ xlat fabric cores vfs, closeChecks s (laneChecks s fun l => reachSp s l false false (offsetOf s v a l) n) =
      parks { s with w := { s.w with xlat := xlat }, fabric := fabric } (shareFrag s e v a n) cores vfs := by
  obtain ⟨l0, ls, hl⟩ := List.exists_cons_of_ne_nil hf
  have hc := closeChecks_parks (rs := laneChecks s fun l => reachSp s l false false (offsetOf s v a l) n)
    (f0 := shareFault s v a l0) (fs := ls.map (shareFault s v a)) (by rw [faultsOf_share, hl, List.map_cons]) he
  rwa [shareFrag, hl]

theorem lanes_shareFrag {e l : Nat} (hl : l < 64) (hf : beyondLanes s v a n ≠ []) : (shareFrag s e v a n).lanes.getLsbD l =
    if 128 ≤ e then s.iss.active.getLsbD l else s.iss.active.getLsbD l && beyondShare s v a n l := by
  have hcons : shareFault s v a ((beyondLanes s v a n).headD 0) :: (beyondLanes s v a n).tail.map (shareFault s v a) =
      (beyondLanes s v a n).map (shareFault s v a) := by
    obtain ⟨l0, ls, h⟩ := List.exists_cons_of_ne_nil hf
    rw [h]; rfl
  simp only [shareFrag, faultFrag, hcons, decide_eq_true_eq]
  split
  · rfl
  · rw [getLsbD_maskOf _ hl, Bool.eq_iff_iff]
    simp [beyondLanes, lanesThat, shareFault, hl]

/-- Lanes fail and only the warp's own entry is to be had: every Active lane is PARKED, and the bundle ends (R266). -/
theorem exec_lds_whole (hs : MemoryReady s) (hd : InWindow s d (Size.regs sz)) (ha : AddrInRange s v a) {e : Nat}
    (hf : beyondLanes s v a (Size.bytes sz) ≠ []) (he : faultEntry s = some e) (hw : 128 ≤ e) :
    ∃ xlat fabric cores vfs, exec (.lds la d a v sx sz) s = .next
      (parks { s with w := { s.w with xlat := xlat }, fabric := fabric } (shareFrag s e v a (Size.bytes sz)) cores vfs) := by
  obtain ⟨xlat, fabric, cores, vfs, hc⟩ := closeChecks_share hf he
  refine ⟨xlat, fabric, cores, vfs, ?_⟩
  rw [exec_lds_ready hs hd ha, loadOp, memOp_over _ _ _ fun _ _ _ => reachSp_over, hc]
  simp [parks, shareFrag, faultFrag, hw]

/-- Lanes fail and a shared entry is to be had: they are PARKED, and the other lanes load (R255, R256). -/
theorem exec_lds_shared (hs : MemoryReady s) (hd : InWindow s d (Size.regs sz)) (ha : AddrInRange s v a) {e : Nat}
    (hf : beyondLanes s v a (Size.bytes sz) ≠ []) (he : faultEntry s = some e) (hw : e < 128) :
    ∃ xlat fabric cores vfs lines, exec (.lds la d a v sx sz) s = .next (withResult
      { parks { s with w := { s.w with xlat := xlat }, fabric := fabric } (shareFrag s e v a (Size.bytes sz)) cores vfs with
          lines := lines }
      ⟨.v, d, Size.regs sz⟩ la 0
      ((loadLanes s v a (Size.bytes sz)).flatMap fun l => loadedRegs sz sx d l (shareByte s v a l)) 0 false) := by
  obtain ⟨xlat, fabric, cores, vfs, hc⟩ := closeChecks_share hf he
  set fr := shareFrag s e v a (Size.bytes sz) with hfr
  set u := parks { s with w := { s.w with xlat := xlat }, fabric := fabric } fr cores vfs with hu
  have hgo : (u.iss.abort || u.iss.stall) = false := by
    have hwhole : fr.whole = false := decide_eq_false (Nat.not_le.2 hw)
    obtain ⟨-, habort, hstall⟩ := hs
    change (fr.whole || s.iss.abort || s.iss.stall) = false
    rw [hwhole, habort, hstall]; rfl
  have hlanes : ((lanesOf s.iss.active).filter fun l => (reachSp s l false false (offsetOf s v a l) (Size.bytes sz)).passes &&
      !u.iss.faulted.getLsbD l) =
      loadLanes s v a (Size.bytes sz) := by
    rw [lanesOf, List.filter_filter, loadLanes, lanesThat]
    refine List.filter_congr fun l hl => ?_
    have hb : u.iss.faulted.getLsbD l = _ := lanes_shareFrag (e := e) (List.mem_range.1 hl) hf
    rw [hb, if_neg (Nat.not_le.2 hw), reachSp_passes]
    cases s.iss.active.getLsbD l <;> cases beyondShare s v a (Size.bytes sz) l <;> rfl
  have hin : ∀ l ∈ loadLanes s v a (Size.bytes sz),
      beyondShare s v a (Size.bytes sz) l = false := by
    intro l hl
    have := (List.mem_filter.1 hl).2
    cases h : beyondShare s v a (Size.bytes sz) l <;> simp_all
  obtain ⟨t, ht, hfold⟩ := foldl_lds (d := d) (sx := sx) _ hin [] u rfl
  obtain ⟨cores', lines, rfl⟩ : ∃ cores lines, t = { u with lines := lines, cores := cores } := ⟨_, _, ht⟩
  refine ⟨xlat, fabric, cores', vfs, lines, ?_⟩
  rw [exec_lds_ready hs hd ha, loadOp, memOp_over _ _ _ fun _ _ _ => reachSp_over, hc, hgo]
  simp only [Bool.false_eq_true, if_false]
  rw [forGo_laneChecks, hlanes]
  · refine congrArg Host.Outcome.next ((congrArg (fun r : List RegWrite × State =>
      addPend r.2 (.lds la d a v sx sz) r.1 0 false 0 false) hfold).trans ?_)
    rw [List.nil_append, addPend_some targetOf_lds]
    rfl
  · intro t x l r
    cases r <;> first | rfl | exact congrArg Issue.faulted (loadBytes_places_iss ..)

end Lds

/-- A parked lane keeps its registers. -/
theorem lane_parked (w : Warp) (m : LaneMask) {l : Nat} (hl : l < w.lanes.length) :
    let ln := (mapLanes w m fun _ ln => { ln with st := .parked, inRep := false }).lane l
    ln.st = (if m.getLsbD l then .parked else (w.lane l).st) ∧ ln.v = (w.lane l).v ∧ ln.p = (w.lane l).p := by
  intro ln
  have h : ln = if m.getLsbD l then { w.lane l with st := .parked, inRep := false } else w.lane l := lane_mapLanes _ _ _ _ hl
  rw [h]
  split <;> exact ⟨rfl, rfl, rfl⟩

/-- Settles O37: an entry is to be had or not; with one, it is shared or the warp's own, and its fragment says which lanes are
PARKED. -/
theorem failingLanesFormAFragment : Obligations.FailingLanesFormAFragment := by
  intro s la d a v sx sz hs _ hd ha n o bad fs free room held
  have hentry : faultEntry s = if room then some (free.getD 0) else if entryTaken s s.c.core (128 + s.w.slot) then none
    else some (128 + s.w.slot) := faultEntry_eq s
  have hfree : free.getD 0 < 128 := freeShared_lt s
  have habort : s.iss.abort = false := hs.2.1
  refine ⟨fun hf hh => ?_, fun hf hh => ?_⟩
  · refine exec_lds_full hs hd ha hf ?_
    have hr : room = false := by simp_all [held]
    have ht : entryTaken s s.c.core (128 + s.w.slot) = true := by simp_all [held]
    rw [hentry, hr, ht]; rfl
  · cases hr : room with
    | true =>
      have he : faultEntry s = some (free.getD 0) := by rw [hentry, hr]; rfl
      have hlanes : ∀ l < 64, (shareFrag s (free.getD 0) v a n).lanes.getLsbD l = bad l := fun l hl => by
        rw [lanes_shareFrag hl hf, if_neg (Nat.not_le.2 hfree)]; rfl
      obtain ⟨xlat, fabric, cores, vfs, lines, hx⟩ := exec_lds_shared (la := la) (sx := sx) hs hd ha hf he hfree
      have hw : (shareFrag s (free.getD 0) v a n).whole = false := decide_eq_false (Nat.not_le.2 hfree)
      exact ⟨_, shareFrag s (free.getD 0) v a n, hx, rfl, hw, rfl, rfl, rfl, rfl, rfl, rfl, rfl, rfl, rfl, hlanes,
        fun l hl _ => (lane_parked s.w _ hl).1, fun l hl => (lane_parked s.w _ hl).2, rfl, congrArg₂ or hw habort, rfl, rfl, rfl⟩
    | false =>
      have ht : entryTaken s s.c.core (128 + s.w.slot) = false := by simp_all [held]
      have he : faultEntry s = some (128 + s.w.slot) := by rw [hentry, hr, ht]; rfl
      have hlanes : ∀ l < 64, (shareFrag s (128 + s.w.slot) v a n).lanes.getLsbD l = s.iss.active.getLsbD l := fun l hl => by
        rw [lanes_shareFrag hl hf, if_pos (Nat.le_add_right ..)]
      have hw : (shareFrag s (128 + s.w.slot) v a n).whole = true := decide_eq_true (Nat.le_add_right ..)
      obtain ⟨xlat, fabric, cores, vfs, hx⟩ := exec_lds_whole (la := la) (sx := sx) hs hd ha hf he (Nat.le_add_right ..)
      exact ⟨_, shareFrag s (128 + s.w.slot) v a n, hx, rfl, hw, rfl, rfl, rfl, rfl, rfl, rfl, rfl, rfl, rfl, hlanes,
        fun l hl _ => (lane_parked s.w _ hl).1, fun l hl => (lane_parked s.w _ hl).2, rfl, congrArg₂ or hw habort, rfl, rfl,
        (List.append_nil _).symm⟩

end Sys2Proof.Machine
end

section
/-! SUPPORT. The values that atomic operations leave (R189 to R191). -/

namespace Sys2Proof.Machine

section Values
variable {b : Nat}

theorem sgn_toNat (hb : 0 < b) (x : BitVec b) : sgn b x.toNat = x.toInt := by
  have h2 : 2 ^ b = 2 * 2 ^ (b - 1) := (mul_pow_sub_one hb.ne' 2).symm
  have hc : x.toNat < 2 ^ (b - 1) ↔ 2 * x.toNat < 2 ^ b := by omega
  simp only [sgn, BitVec.toInt_eq_toNat_cond, hc, Nat.cast_pow, Nat.cast_ofNat]

/-- The lesser of two words as signed numbers, and the greater. -/
theorem atomNew_min (hb : 0 < b) (x y : BitVec b) : atomNew .min b x.toNat y.toNat = (if x.toInt ≤ y.toInt then x else y).toNat := by
  simp only [atomNew, sgn_toNat hb, ← not_lt, ite_not, apply_ite BitVec.toNat]

theorem atomNew_max (hb : 0 < b) (x y : BitVec b) : atomNew .max b x.toNat y.toNat = (if x.toInt ≤ y.toInt then y else x).toNat := by
  simp only [atomNew, sgn_toNat hb, apply_ite BitVec.toNat]
  rcases lt_trichotomy x.toInt y.toInt with h | h | h
  · rw [if_pos h, if_pos h.le]
  · rw [BitVec.eq_of_toInt_eq h, ite_self, ite_self]
  · rw [if_neg h.not_gt, if_neg h.not_ge]

theorem atomNew_minu (x y : BitVec b) : atomNew .minu b x.toNat y.toNat = (if x.toNat ≤ y.toNat then x else y).toNat :=
  (min_def ..).trans (apply_ite BitVec.toNat ..).symm

theorem atomNew_maxu (x y : BitVec b) : atomNew .maxu b x.toNat y.toNat = (if x.toNat ≤ y.toNat then y else x).toNat :=
  (max_def ..).trans (apply_ite BitVec.toNat ..).symm

/-- A compare-and-swap leaves the new value where the old one is the comparand. -/
theorem rmwNew_cas (x y z : BitVec b) : rmwNew .cas b x.toNat y.toNat z.toNat = (if x = y then z else x).toNat := by
  simp only [rmwNew, BitVec.toNat_inj, apply_ite BitVec.toNat]

end Values

/-- An FP32 sum with a NaN is the canonical NaN. -/
theorem faddF32_nan {x y : Nat} (h : (fp32.decode x).isNan = true ∨ (fp32.decode y).isNan = true) :
    (fp32.add 0 false x y).1 = 0x7FC00000 := by
  have hn : fp32.add 0 false x y = (fp32.nanCode, _) := ops_nan (ftz := false) h 0 _ List.mem_cons_self
  rw [hn]; rfl

/-- Settles O33: each operation's value is the model's own, read on words. -/
theorem atomicOperationsLeaveTheirValue : Obligations.AtomicOperationsLeaveTheirValue := by
  refine ⟨fun x y z => ⟨rfl, rfl, rfl, rfl, faddF32_nan⟩, fun b hb x y z => ?_⟩
  have hb : 0 < b := by omega
  exact ⟨(BitVec.toNat_add x y).symm, atomNew_min hb x y, atomNew_max hb x y, atomNew_minu x y, atomNew_maxu x y,
    (BitVec.toNat_and x y).symm, (BitVec.toNat_or x y).symm, (BitVec.toNat_xor x y).symm, rfl, rmwNew_cas x y z⟩

end Sys2Proof.Machine
end

section
/-! SUPPORT. Atomics as they are issued: the accesses handed over, and the answers that peers have given (R189 to R192). -/

namespace Sys2Proof.Machine

/-- An operand of an atomic: a register, or a pair. -/
def operandOf (s : State) (dbl : Bool) (r l : Nat) : Nat :=
  (rdV s.old r l).toNat + if dbl then 2 ^ 32 * (rdV s.old (r + 1) l).toNat else 0

/-- The size of an atomic's value as a load's. -/
def atomSize (dbl : Bool) : Size := if dbl then .d else .w

theorem bytes_atomSize (dbl : Bool) : Size.bytes (atomSize dbl) = 4 * dreg dbl := by cases dbl <;> rfl

theorem withQueue_withQueue (s : State) (xs ys : List MemOp) : withQueue (withQueue s xs) ys = withQueue s (xs ++ ys) := by
  simp [withQueue, List.append_assoc]

theorem withQueue_nil (s : State) : withQueue s [] = s := by simp [withQueue]

/-- The registers that take the answer of a peer. -/
theorem regWrites_peer (s : State) {dbl : Bool} (d l : Nat) {bs : List Byte} (h : bs.length = 4 * dreg dbl) :
    regWrites d l ((List.range (4 * dreg dbl / 4)).map fun k => w32 (wordOfBytes bs / 2 ^ (32 * k))) =
      loadedRegs (atomSize dbl) false d l (byteOf s (.peer bs)) := by
  have hbs : bs = (List.range (Size.bytes (atomSize dbl))).map (byteOf s (.peer bs)) := by
    conv_lhs => rw [← List.map_id bs]
    exact map_eq_map_range (h.trans (bytes_atomSize dbl).symm) id 0
  rw [← regWrites_loadRegs, ← hbs, loadRegs, bytes_atomSize, if_neg (by cases dbl <;> decide)]

section Rmw
variable {s : State} {i : Instr} {t : Target} {op : RmwOp} {d : Nat} {dbl : Bool} {f g : Nat → Reach}

/-- The access that a lane hands over. -/
def rmwAccess (s : State) (op : RmwOp) (d : Nat) (dbl : Bool) (f : Nat → Reach) (tags : Nat → List Loc → List Tag) (l : Nat) :
    MemOp :=
  .rmw s.w.nextId l d op (4 * dreg dbl) (placesOf (f l)) (tags l (placesOf (f l))) (operandOf s dbl d l)
    (if op = .cas then operandOf s dbl (d + dreg dbl) l else 0)

/-- What a lane's answer from a peer adds to the result. -/
def rmwAnswer (s : State) (d : Nat) (dbl : Bool) (f : Nat → Reach) (l : Nat) : List RegWrite :=
  if placesOf (f l) ≠ [] then [] else loadedRegs (atomSize dbl) false d l (byteOf s (f l))

/-- Lane after lane, an atomic counts and queues the accesses, and collects the answers. -/
theorem foldl_rmw (tags : Nat → List Loc → List Tag) (ls : List Nat)
    (h : ∀ l ∈ ls, f l = g l ∧ Answered (4 * dreg dbl) (g l)) (c : Nat) (ws : List RegWrite) (u : State) :
    ls.foldl (fun (y : (Nat × List RegWrite) × State) l =>
      match f l with
      | .peer bs => ((y.1.1, y.1.2 ++
          regWrites d l ((List.range (4 * dreg dbl / 4)).map fun k => w32 (wordOfBytes bs / 2 ^ (32 * k)))), y.2)
      | .go ps => ((y.1.1 + 1, y.1.2), enqueue y.2 (.rmw s.w.nextId l d op (4 * dreg dbl) ps (tags l ps) (operandOf s dbl d l)
          (if op = .cas then operandOf s dbl (d + dreg dbl) l else 0)))
      | _ => (y.1, y.2)) ((c, ws), u) =
    ((c + ls.countP fun l => placesOf (g l) ≠ [], ws ++ ls.flatMap (rmwAnswer s d dbl g)),
      withQueue u ((ls.filter fun l => placesOf (g l) ≠ []).map (rmwAccess s op d dbl g tags))) := by
  induction ls generalizing c ws u with
  | nil => simp [withQueue_nil]
  | cons l ls ih =>
    have ih := ih fun l' hl' => h l' (List.mem_cons_of_mem _ hl')
    rw [List.foldl_cons, List.flatMap_cons]
    obtain ⟨hf, ⟨ps, hg, hl⟩ | ⟨bs, hg, hl⟩⟩ := h l List.mem_cons_self
    · have hp : placesOf (g l) ≠ [] := by
        rw [hg]
        rintro rfl
        cases dbl <;> cases hl
      have hq : rmwAccess s op d dbl g tags l = .rmw s.w.nextId l d op (4 * dreg dbl) ps (tags l ps) (operandOf s dbl d l)
          (if op = .cas then operandOf s dbl (d + dreg dbl) l else 0) := by rw [rmwAccess, hg]; rfl
      rw [List.countP_cons_of_pos (by simpa using hp), List.filter_cons_of_pos (by simpa using hp), List.map_cons,
        rmwAnswer, if_pos hp, List.nil_append, hq]
      simp only [hf, hg]
      rw [ih, Nat.add_assoc, Nat.add_comm 1]
      exact congrArg (Prod.mk _) (withQueue_withQueue ..)
    · have hp : ¬ placesOf (g l) ≠ [] := by rw [hg]; exact not_not.2 rfl
      rw [List.countP_cons_of_neg (by simpa using hp), List.filter_cons_of_neg (by simpa using hp), rmwAnswer, if_neg hp, hg]
      simp only [hf, hg]
      rw [ih, regWrites_peer s d l hl, List.append_assoc]

/-- An atomic all of whose lanes have places or an answer: what it hands over, and what is still to be performed. -/
theorem rmwOp_answered (tags : Nat → List Loc → List Tag) (ht : targetOf i = some t) (hs : MemoryReady s)
    (h : ∀ l < 64, s.iss.active.getLsbD l = true → f l = g l ∧ Answered (4 * dreg dbl) (g l)) :
    rmwOp s i op d (4 * dreg dbl) tags f = withResult
      (withQueue (checksOver s) (((liveLanes s).filter fun l => placesOf (g l) ≠ []).map (rmwAccess s op d dbl g tags)))
      t (laOf i) ((liveLanes s).countP fun l => placesOf (g l) ≠ []) (perLane (liveMask s) (rmwAnswer s d dbl g)) 0 false := by
  have hpass : ∀ l < 64, s.iss.active.getLsbD l = true → (f l).passes = true := fun l hl ha => by
    rw [(h l hl ha).1]
    exact passes_of_answered (h l hl ha).2
  have hlive : ∀ l ∈ liveLanes s, f l = g l ∧ Answered (4 * dreg dbl) (g l) := fun l hl => by
    obtain ⟨hl, hm⟩ := List.mem_filter.1 hl
    rw [liveMask, BitVec.getLsbD_and, Bool.and_eq_true] at hm
    exact h l (List.mem_range.1 hl) hm.1
  have hfold := foldl_rmw (s := s) (op := op) (d := d) tags (liveLanes s) hlive 0 [] (checksOver s)
  rw [Nat.zero_add, List.nil_append] at hfold
  have hx : ∀ l, (if 4 * dreg dbl = 8 then rdV2 s.old d l else (rdV s.old d l).toNat) = operandOf s dbl d l := fun l => by
    cases dbl <;> rfl
  have hy : ∀ l, (if 4 * dreg dbl = 8 then rdV2 s.old (d + 2) l else (rdV s.old (d + 1) l).toNat) =
      operandOf s dbl (d + dreg dbl) l := fun l => by cases dbl <;> rfl
  rw [rmwOp, memOp_passed _ _ _ hs hpass]
  simp only [hx, hy]
  rw [forGo_passed (h := hpass)]
  · refine (congrArg (fun r : (Nat × List RegWrite) × State => addPend r.2 i r.1.2 0 false r.1.1 false) hfold).trans ?_
    rw [addPend_some ht]
    rfl
  · intro t x l r
    cases r <;> rfl

end Rmw

/-! ### The words -/

section Words
variable {s : State} {a l n : Nat} {v : Bool}

/-- An aligned access is checked byte by byte (R183, R189). -/
theorem reachAtom_aligned (h : offsetOf s v a l % n = 0) :
    reachAtom s l (offsetOf s v a l) n = reachVa s l true true true true (flatBytes s.c (offsetOf s v a l) n) := by
  simp [reachAtom, h]

/-- The places of an access to the share (R171, R187). -/
def sharePlaces (s : State) (v : Bool) (a n l : Nat) : List Loc :=
  (List.range n).map fun i => .sp (s.c.core / 4) (s.c.shareBase + offsetOf s v a l + i)

theorem reachSp_aligned (h : offsetOf s v a l % n = 0) (hn : offsetOf s v a l + n ≤ s.c.shareSize)
    (hz : ∀ z ∈ sharePlaces s v a n l, armedAt s z = false) :
    reachSp s l true true (offsetOf s v a l) n = .go (sharePlaces s v a n l) := by
  have hi : (sharePlaces s v a n l).findIdx? (armedAt s) = none := List.findIdx?_eq_none_iff.2 hz
  rw [sharePlaces] at hi ⊢
  simp only [reachSp, if_neg (Nat.not_lt.2 hn), h, bne_self_eq_false, Bool.and_false, Bool.false_eq_true, if_false, if_true,
    quadOfCore, hi]


/-- An atomic on flat memory (R189 to R191). -/
theorem flatRmw_answered {i : Instr} {t : Target} {d : Nat} {dbl : Bool} (op : RmwOp) (ht : targetOf i = some t) (hs : MemoryReady s)
    (h : ∀ l < 64, s.iss.active.getLsbD l = true → offsetOf s v a l % (4 * dreg dbl) = 0 ∧ Answered (4 * dreg dbl)
      (reachVa s l true true true true (flatBytes s.c (offsetOf s v a l) (4 * dreg dbl)))) :
    let reach (l : Nat) : Reach := reachVa s l true true true true (flatBytes s.c (offsetOf s v a l) (4 * dreg dbl))
    flatRmw s i op d a (4 * dreg dbl) v = withResult (withQueue (checksOver s) (((liveLanes s).filter fun l =>
      placesOf (reach l) ≠ []).map (rmwAccess s op d dbl reach fun l =>
        flatTags s.c.vf (flatBytes s.c (offsetOf s v a l) (4 * dreg dbl)))))
      t (laOf i) ((liveLanes s).countP fun l => placesOf (reach l) ≠ []) (perLane (liveMask s) (rmwAnswer s d dbl reach)) 0 false :=
  rmwOp_answered _ ht hs fun l hl hm => ⟨reachAtom_aligned (h l hl hm).1, (h l hl hm).2⟩

/-- An atomic on the share (R192). -/
theorem spRmw_answered {i : Instr} {t : Target} {d : Nat} {dbl : Bool} (op : RmwOp) (ht : targetOf i = some t) (hs : MemoryReady s)
    (h : ∀ l < 64, s.iss.active.getLsbD l = true → offsetOf s v a l % (4 * dreg dbl) = 0 ∧
      offsetOf s v a l + 4 * dreg dbl ≤ s.c.shareSize ∧ ∀ z ∈ sharePlaces s v a (4 * dreg dbl) l, armedAt s z = false) :
    let reach (l : Nat) : Reach := .go (sharePlaces s v a (4 * dreg dbl) l)
    spRmw s i op d a (4 * dreg dbl) v = withResult (withQueue (checksOver s) (((liveLanes s).filter fun l =>
      placesOf (reach l) ≠ []).map (rmwAccess s op d dbl reach fun _ => placeTags)))
      t (laOf i) ((liveLanes s).countP fun l => placesOf (reach l) ≠ []) (perLane (liveMask s) (rmwAnswer s d dbl reach)) 0 false :=
  rmwOp_answered _ ht hs fun l hl hm =>
    ⟨reachSp_aligned (h l hl hm).1 (h l hl hm).2.1 (h l hl hm).2.2, .inl ⟨_, rfl, by simp [sharePlaces]⟩⟩

end Words

/-- Settles O32: every word is one read-modify-write for each lane, on the places of its flat or share access. -/
theorem atomicsWaitToBePerformed : Obligations.AtomicsWaitToBePerformed := by
  intro s la d a v dbl op fop hs ha o x share n regs does flat line
  have hready {i : Instr} {r : Nat} {f : State → State} (hx : exec i s = issue i s f) (hf : fields i = [(vx d r).t, aop v a])
      (hd : InWindow s d r) (hm : majorOf i ∉ [0x1D, 0x37, 0x3C, 0x3D, 0x3E]) : exec i s = .next (f s) :=
    exec_pipeFree hx hs.1 hm (regrange_access hf (bad_inWindow hd).2.2 (bad_aop ha))
  cases dbl
  all_goals
    refine ⟨fun h => ⟨fun hd => ?_, fun hd => ?_⟩, fun h hd => ?_, fun h => ⟨fun hd => ?_, fun hd => ?_⟩⟩
    · exact Eq.trans (hready (exec_atom ..) rfl hd (by simp [majorOf])) (congrArg _ (flatRmw_answered (.int op) rfl hs h))
    · exact Eq.trans (hready (exec_cas ..) rfl hd (by simp [majorOf])) (congrArg _ (flatRmw_answered .cas rfl hs h))
    · exact Eq.trans (hready (exec_atomf ..) rfl hd (by simp [majorOf]))
        (congrArg _ (flatRmw_answered (dbl := false) (.flt fop) rfl hs h))
    · exact Eq.trans (hready (exec_satom ..) rfl hd (by simp [majorOf])) (congrArg _ (spRmw_answered (.int op) rfl hs h))
    · exact Eq.trans (hready (exec_satomCas ..) rfl hd (by simp [majorOf])) (congrArg _ (spRmw_answered .cas rfl hs h))

end Sys2Proof.Machine
end

section
/-! SUPPORT. Barrier objects: what performing accesses leaves of the word in issue, and the frame of the BOBJ words (R172, R173,
R195 to R199). -/

namespace Sys2Proof.Machine

/-! ### Performing accesses keeps the word in issue -/

/-- `t` has the same word in issue as `s`, with the registers it reads, for the same function on the same core. -/
def SameIssue (s t : State) : Prop := t.old = s.old ∧ t.iss = s.iss ∧ t.c.vf = s.c.vf ∧ t.c.core = s.c.core

theorem SameIssue.refl (s : State) : SameIssue s s := ⟨rfl, rfl, rfl, rfl⟩

section Fields
variable {s t : State} (h : SameIssue s t)
include h

theorem SameIssue.old_eq : t.old = s.old := h.1
theorem SameIssue.iss_eq : t.iss = s.iss := h.2.1
theorem SameIssue.vf_eq : t.c.vf = s.c.vf := h.2.2.1
theorem SameIssue.core_eq : t.c.core = s.c.core := h.2.2.2

end Fields

theorem SameIssue.trans {s t u : State} (h : SameIssue s t) (h' : SameIssue t u) : SameIssue s u :=
  ⟨h'.old_eq.trans h.old_eq, h'.iss_eq.trans h.iss_eq, h'.vf_eq.trans h.vf_eq, h'.core_eq.trans h.core_eq⟩

theorem sameIssue_foldl {α : Type} {f : State → α → State} (h : ∀ s x, SameIssue s (f s x)) (xs : List α) (s : State) :
    SameIssue s (xs.foldl f s) := by
  induction xs generalizing s with
  | nil => exact .refl s
  | cons x xs ih => exact (h s x).trans (ih _)

section Ops
variable (s : State)

theorem sameIssue_mapCrews {f : Crew → Crew} (hf : ∀ k, (f k).id = k.id ∧ (f k).vf = k.vf ∧ (f k).core = k.core) :
    SameIssue s (mapCrews s f) := by
  unfold mapCrews spread
  split
  next k hk =>
    obtain ⟨k', hk', rfl⟩ := List.mem_map.1 (List.mem_of_find?_eq_some hk)
    have hid : k'.id = s.c.id := by simpa [hf k'] using List.find?_some hk
    obtain ⟨k₀, -, h₀⟩ := List.mem_map.1 hk'
    obtain ⟨-, hvf, hcore⟩ := hf k'
    have hc : k'.vf = s.c.vf ∧ k'.core = s.c.core := by
      split at h₀
      · rw [← h₀]; exact ⟨rfl, rfl⟩
      · next hne => exact absurd (h₀ ▸ hid) hne
    exact ⟨rfl, rfl, hvf.trans hc.1, hcore.trans hc.2⟩
  next => exact ⟨rfl, rfl, rfl, rfl⟩

theorem sameIssue_updWarp (c x : Nat) (f : Warp → Warp) : SameIssue s (updWarp s c x f) :=
  sameIssue_mapCrews s fun k => by split <;> exact ⟨rfl, rfl, rfl⟩

theorem sameIssue_notePath (dst hop : Nat) (o : OutFlit) : SameIssue s (notePath s dst hop o) := by
  unfold notePath
  split
  · exact .refl s
  · split
    · exact .refl s
    · exact sameIssue_updWarp ..

theorem sameIssue_trySend {dst : Nat} {o : OutFlit} {t : State} (h : trySend s dst o = some t) : SameIssue s t := by
  unfold trySend at h
  split at h
  · cases h
  · dsimp only at h
    split at h
    · cases h
    · cases h
      exact sameIssue_notePath s _ _ _

theorem sameIssue_flushQ (qs kept : List (Nat × OutFlit)) : SameIssue s (flushQ s qs kept) := by
  induction qs generalizing s kept with
  | nil => exact ⟨rfl, rfl, rfl, rfl⟩
  | cons q qs ih =>
    unfold flushQ
    split
    · exact ih ..
    · split
      next h => exact (sameIssue_trySend s h).trans (ih ..)
      next => exact ih ..

theorem sameIssue_sendFlit (dst : Nat) (o : OutFlit) : SameIssue s (sendFlit s dst o) := sameIssue_flushQ { s with fabric := _ } _ _

theorem sameIssue_sendInvals (vf : Nat) (acks : List (Nat × Nat)) : SameIssue s (sendInvals s vf acks) := by
  refine sameIssue_foldl (fun s a => ?_) acks s
  exact sameIssue_sendFlit (dropHolder (newXid s).2 a.1 a.2) _ _

theorem sameIssue_homeClear (vf : Nat) (ls : List Loc) : SameIssue s (homeClear s vf ls).2 := by
  unfold homeClear
  split
  · exact .refl s
  · exact sameIssue_sendInvals ..

theorem sameIssue_putLocs (vf : Nat) (bs : List (Loc × Byte)) : SameIssue s (putLocs s vf bs) := by
  induction bs generalizing s with
  | nil => exact .refl s
  | cons x bs ih =>
    refine SameIssue.trans ?_ (ih (locPut s vf x.1 x.2))
    cases x.1 with
    | dev k =>
      obtain ⟨_, _, hc⟩ := claimSector_frame vf s k
      rw [locPut_dev, hc]
      exact ⟨rfl, rfl, rfl, rfl⟩
    | _ => exact ⟨rfl, rfl, rfl, rfl⟩

theorem sameIssue_writtenBy (core : Nat) (ts : List Tag) (bs : List (Loc × Byte)) : SameIssue s (writtenBy s core ts bs) := by
  unfold writtenBy
  split
  · exact .refl s
  · obtain ⟨ls, h⟩ := writeLines_frame s ts (writeTime s ts (ltimeOf s core))
    simp only [h]
    exact ⟨rfl, rfl, rfl, rfl⟩

theorem sameIssue_readBy (core : Nat) (ts : List Tag) (lease : Nat) : SameIssue s (readBy s core ts lease) := by
  unfold readBy
  split
  · exact .refl s
  · obtain ⟨ls, h⟩ := readLines_frame s ts (readTime s ts (ltimeOf s core)) lease
    simp only [h]
    exact ⟨rfl, rfl, rfl, rfl⟩

theorem sameIssue_unitServes (unit : Option Nat) (rank : Nat) : SameIssue s (unitServes s unit rank) := by
  cases unit <;> exact ⟨rfl, rfl, rfl, rfl⟩

theorem sameIssue_reportCons (bs : List (Loc × Byte)) : SameIssue s (reportCons s bs) := by
  unfold reportCons
  split <;> exact ⟨rfl, rfl, rfl, rfl⟩

theorem sameIssue_performOp (k : Crew) (o : MemOp) : SameIssue s (performOp s k o).1 := by
  cases o with
  | store id lane ts bs => exact ((sameIssue_putLocs ..).trans (sameIssue_writtenBy ..)).trans (sameIssue_reportCons ..)
  | wread id lane d sz sx ls ts => exact sameIssue_readBy ..
  | rmw id lane d op size ls ts x y =>
    refine (sameIssue_unitServes s (atomUnit ls ts) (((atomUnit ls ts).map fun u => sourceRank u (dieOfCore k.core)).getD 0)).trans ?_
    dsimp only [performOp]
    split
    · exact sameIssue_readBy ..
    · exact (sameIssue_putLocs ..).trans (sameIssue_writtenBy ..)

theorem sameIssue_performHead (c x : Nat) : SameIssue s (performHead s c x) := by
  unfold performHead
  split
  · split
    · exact .refl s
    · dsimp only
      split
      · exact .refl s
      · split
        · exact sameIssue_homeClear ..
        · exact ((sameIssue_homeClear ..).trans (sameIssue_performOp ..)).trans (sameIssue_updWarp ..)
  · exact .refl s

theorem sameIssue_performN (c x n : Nat) : SameIssue s (performN s c x n) := by
  induction n generalizing s with
  | zero => exact .refl s
  | succ n ih => exact (sameIssue_performHead s c x).trans (ih _)

theorem sameIssue_settleAll : SameIssue s (settleAll s) :=
  sameIssue_foldl (fun s k => sameIssue_foldl (fun s x => by
    split
    · split
      · exact .refl s
      · exact sameIssue_performN ..
    · exact .refl s) _ s) _ s

end Ops

/-! ### The frame of the BOBJ words (R195) -/

section Frame
variable {s : State} {i : Instr} {a d la : Nat} {sp : Bool} {ls : List Loc}

theorem lowest_getD (m : LaneMask) : (lowest m).getD 0 = (lanesThat fun l => m.getLsbD l).headD 0 := by
  rw [lowest_eq_head?, List.headD_eq_head?_getD]
  rfl

/-- The state in which the checks are over, the object's atomic unit has served the core, and the core has read the object. -/
def atObject (s : State) (o : ObjRef) : State := sawObj (objServes (checksOver s) o) (some s.c.core) o

theorem sameIssue_atObject (o : ObjRef) : SameIssue s (atObject s o) := by
  refine SameIssue.trans ?_ (sameIssue_readBy (objServes (checksOver s) o) s.c.core o.tags 0)
  unfold objServes
  split
  · exact sameIssue_unitServes (checksOver s) _ _
  · exact ⟨rfl, rfl, rfl, rfl⟩

theorem nextId_atObject (o : ObjRef) : (atObject s o).w.nextId = s.w.nextId := by
  refine (congrArg Warp.nextId (sameContents_readBy (objServes (checksOver s) o) s.c.core o.tags 0).crews.2.2).trans ?_
  unfold objServes
  split <;> rfl

/-- The object that a word names, at the places that its checks gave. -/
def objOf (s : State) (a : Nat) (ls : List Loc) : ObjRef := objAt s.c.vf ((flatBytes s.c (rdS s.old a).toNat 16).headD 0) ls

/-- The lane whose input a word takes. -/
def inputLane (s : State) : Nat := (lanesThat fun l => s.iss.active.getLsbD l).headD 0

/-- A word whose object is reached acts on it there. -/
theorem bobj_go {wr : Bool} (go : State → ObjRef → State) (hr : reachObj s a sp wr (inputLane s) = .go ls)
    (hu : wr = true → Unshared s ls) : bobj s i a sp wr go = go (atObject s (objOf s a ls)) (objOf s a ls) := by
  have hc : closeChecks s [] = checksOver s := closeChecks_passed rfl
  have hh : (if wr = true then homeClear s s.c.vf ls else (true, s)) = (true, s) := by
    cases wr
    · rfl
    · exact homeClear_unshared (hu rfl) s.c.vf
  have hl : (lowest s.iss.active).getD 0 = inputLane s := lowest_getD _
  simp only [bobj, hl, hr, hc, hh]
  rfl

/-- The input of the word is that of the lowest Active lane, also where the object has been reached. -/
theorem bobjIn_eq {t : State} (h : SameIssue s t) :
    bobjIn t d = (rdV s.old d (inputLane s)).toNat := by
  rw [bobjIn, lowest_getD, h.old_eq, h.iss_eq, inputLane]

theorem exec_bobj {f : State → State} (hx : exec i s = issue i s f) (hs : MemoryReady s) (hd : d < s.w.window) (ha : a < 64)
    (hi : fields i = [(vx d).t, us a] ∨ fields i = [(vw d).t, us a]) (hm : majorOf i = 0x2C) : exec i s = .next (f s) := by
  have hv (rd wr t) : Field.bad s.w.window ⟨.v, d, 1, rd, wr, t⟩ = false := (bad_v ..).trans (decide_eq_false (Nat.not_le.2 hd))
  have hu : Field.bad s.w.window (us a) = false := (bad_s ..).trans (decide_eq_false (Nat.not_le.2 ha))
  refine exec_pipeFree hx hs.1 (by simp [hm]) ?_
  rcases hi with hi | hi
  · exact regrange_access hi (hv ..) hu
  · exact regrange_access hi (hv ..) hu

/-- R199: the words of an object, over the lanes. -/
def queryWord (x : Obj) (l : Nat) : Word :=
  if l % 4 = 0 then BitVec.ofNat 32 x.expect else if l % 4 = 1 then BitVec.ofNat 32 x.pending
  else if l % 4 = 2 then BitVec.ofNat 32 x.phase else BitVec.ofNat 32 ((if x.armed then 2 ^ 31 else 0) + x.waiters)

/-- The window of a word whose lanes wait. -/
theorem addWait_some {t : Target} (hi : targetOf i = some t) (hl : laOf i = la) (s : State) :
    addWait s i = withWaitResult s t la := by
  rw [addWait, hi, hl]
  rfl

section Words
variable (hs : MemoryReady s) (hd : d < s.w.window) (ha : a < 64)
include hs hd ha

theorem exec_binit_at (hr : reachObj s a sp true (inputLane s) = .go ls) (hu : Unshared s ls) :
    let o := objOf s a ls
    let r := settleAll (atObject s o)
    let x := objInit r s.c.vf (some s.c.core) o (rdV s.old d (inputLane s)).toNat
    exec (.binit la d a sp) s = .next (if objBusy r o then stalled r else resV x.2 (.binit la d a sp) d (fun _ => x.1) 0 false) := by
  have h := (sameIssue_atObject (s := s) (objOf s a ls)).trans (sameIssue_settleAll _)
  rw [exec_bobj (exec_binit ..) hs hd ha (.inl rfl) rfl, bobj_go _ hr fun _ => hu]
  dsimp only
  rw [h.vf_eq, h.core_eq, bobjIn_eq h]

theorem exec_barrive_at (hr : reachObj s a sp true (inputLane s) = .go ls) (hu : Unshared s ls) :
    let o := objOf s a ls
    let x := objArrive (atObject s o) s.c.vf (some s.c.core) o (rdV s.old d (inputLane s)).toNat
    exec (.barrive la d a sp) s = .next (resV x.2.2 (.barrive la d a sp) d (fun _ => objWord x.1 x.2.1) 0 false) := by
  have h := sameIssue_atObject (s := s) (objOf s a ls)
  rw [exec_bobj (exec_barrive ..) hs hd ha (.inl rfl) rfl, bobj_go _ hr fun _ => hu]
  dsimp only
  rw [h.vf_eq, h.core_eq, bobjIn_eq h]

theorem exec_bwait_at (hr : reachObj s a sp true (inputLane s) = .go ls) (hu : Unshared s ls) :
    let o := objOf s a ls
    let u := atObject s o
    let x := getObj u s.c.vf o
    let n := (rdV s.old d (inputLane s)).toNat
    exec (.bwait la d a sp) s = .next (if !x.armed then resV u (.bwait la d a sp) d (fun _ => objWord 1 x.phase) 0 false
      else if x.phase % 2 ^ 24 ≠ n % 2 ^ 24 then resV u (.bwait la d a sp) d (fun _ => objWord 0 x.phase) 0 false
      else waitLanes (addWait (putObj u s.c.vf (some s.c.core) o { x with waiters := x.waiters + 1 }) (.bwait la d a sp))
        (.obj o.key (n % 2 ^ 24) d s.w.nextId)) := by
  have h := sameIssue_atObject (s := s) (objOf s a ls)
  rw [exec_bobj (exec_bwait ..) hs hd ha (.inl rfl) rfl, bobj_go _ hr fun _ => hu]
  dsimp only
  rw [h.vf_eq, h.core_eq, bobjIn_eq h, nextId_atObject]

theorem exec_bquery_at (hr : reachObj s a sp false (inputLane s) = .go ls) :
    let o := objOf s a ls
    exec (.bquery la d a sp) s =
      .next (resV (atObject s o) (.bquery la d a sp) d (queryWord (getObj (atObject s o) s.c.vf o)) 0 false) := by
  have h := sameIssue_atObject (s := s) (objOf s a ls)
  rw [exec_bobj (exec_bquery ..) hs hd ha (.inr rfl) rfl, bobj_go _ hr (by simp)]
  dsimp only
  rw [h.vf_eq]
  refine congrArg (fun f => Host.Outcome.next (resV _ (.bquery la d a sp) d f 0 false)) (funext fun l => ?_)
  unfold queryWord
  split <;> simp_all [w32]

end Words

end Frame

/-! ### What a word does at its object (R196, R197) -/

section Init
variable {s : State} {vf n : Nat} {core : Option Nat} {o : ObjRef}

theorem objInit_clears (h : n = 0) : objInit s vf core o n = (objWord 0 (getObj s vf o).phase,
    releaseObj (putObj s vf core o { getObj s vf o with expect := 0, pending := 0, armed := false, waiters := 0 }) o
      (objWord 5 (getObj s vf o).phase)) := if_pos h

theorem objInit_armed (h : n ≠ 0) (ha : (getObj s vf o).armed = true) :
    objInit s vf core o n = (objWord 2 (getObj s vf o).phase, s) := by simp only [objInit, if_neg h, ha, if_true]

theorem objInit_full (h : n ≠ 0) (ha : (getObj s vf o).armed = false) (hr : armRoom s o = false) :
    objInit s vf core o n = (objWord 3 (getObj s vf o).phase, s) := by simp [objInit, h, ha, hr]

theorem objInit_arms (h : n ≠ 0) (ha : (getObj s vf o).armed = false) (hr : armRoom s o = true) : objInit s vf core o n =
    (objWord 0 (getObj s vf o).phase,
      putObj s vf core o { getObj s vf o with expect := n, pending := n, armed := true, waiters := 0 }) := by
  simp [objInit, h, ha, hr]

theorem objArrive_unarmed (ha : (getObj s vf o).armed = false) : objArrive s vf core o n = (1, (getObj s vf o).phase, s) := by
  simp [objArrive, ha]

theorem objArrive_zero (ha : (getObj s vf o).armed = true) (h : n = 0) : objArrive s vf core o n = (0, (getObj s vf o).phase, s) := by
  simp [objArrive, ha, h]

theorem objArrive_over (ha : (getObj s vf o).armed = true) (h : (getObj s vf o).pending < n) :
    objArrive s vf core o n = (4, (getObj s vf o).phase, s) := by
  have hn : n ≠ 0 := by omega
  simp [objArrive, ha, h, hn]

theorem objArrive_counts (ha : (getObj s vf o).armed = true) (hn : n ≠ 0) (h : n < (getObj s vf o).pending) :
    objArrive s vf core o n = (0, (getObj s vf o).phase,
      putObj s vf core o { getObj s vf o with pending := (getObj s vf o).pending - n }) := by
  simp [objArrive, ha, hn, h.not_gt, h.ne']

theorem objArrive_releases (ha : (getObj s vf o).armed = true) (hn : n ≠ 0) (h : (getObj s vf o).pending = n) :
    objArrive s vf core o n = (0, (getObj s vf o).phase, releaseObj (putObj s vf core o { getObj s vf o with
      pending := (getObj s vf o).expect, phase := ((getObj s vf o).phase + 1) % 2 ^ 32, waiters := 0 }) o
      (objWord 0 (((getObj s vf o).phase + 1) % 2 ^ 32))) := by
  simp [objArrive, ha, hn, h]

end Init

/-- Settles O36: each word is reached at its object; what it does there is the branch of the object's state and the input. -/
theorem barrierObjectWordsActOnTheirObject : Obligations.BarrierObjectWordsActOnTheirObject := by
  intro s la d a sp ls hs hd ha l0 n o u b set word gives
  have hgives {i : Instr} {t : State} {y : Word} (hi : exec i s = .next (resV t i d (fun _ => y) 0 false))
      (ht : targetOf i = some ⟨.v, d, 1⟩) (hl : laOf i = la) : gives i t fun _ => y :=
    hi.trans (congrArg _ (resV_eq ht hl t _))
  refine ⟨fun hgo hun => ?_, fun hgo => ?_⟩
  · have hinit := exec_binit_at (la := la) hs hd ha hgo hun
    have harrive := exec_barrive_at (la := la) hs hd ha hgo hun
    have hwait := exec_bwait_at (la := la) hs hd ha hgo hun
    have harrives {st ph : Nat} {t : State} (h : objArrive u s.c.vf (some s.c.core) o n = (st, ph, t)) :
        gives (.barrive la d a sp) t fun _ => word st ph :=
      hgives (harrive.trans (congrArg (fun r : Nat × Nat × State => (.next (resV r.2.2 (.barrive la d a sp) d
        (fun _ => objWord r.1 r.2.1) 0 false) : Out)) h)) rfl rfl
    refine ⟨⟨fun hb => hinit.trans (congrArg _ (if_pos hb)), fun hb => ?_⟩, fun h => harrives (objArrive_unarmed h),
      fun h hn => harrives (objArrive_zero h hn), fun h hn => harrives (objArrive_over h hn),
      fun h hn hp => harrives (objArrive_counts h hn hp), fun h hn hp => harrives (objArrive_releases h hn hp),
      fun h => ?_, fun h hp => ?_, fun h hp => ?_⟩
    · have hinits {y : Word} {t : State} (h : objInit (settleAll u) s.c.vf (some s.c.core) o n = (y, t)) :
          gives (.binit la d a sp) t fun _ => y :=
        hgives ((hinit.trans (congrArg _ (if_neg (ne_true_of_eq_false hb)))).trans (congrArg (fun r : Word × State =>
          (.next (resV r.2 (.binit la d a sp) d (fun _ => r.1) 0 false) : Out)) h)) rfl rfl
      exact ⟨fun h => hinits (objInit_clears h), fun h hx => hinits (objInit_armed h hx),
        fun h hx hr => hinits (objInit_full h hx hr), fun h hx hr => hinits (objInit_arms h hx hr)⟩
    · exact hgives (hwait.trans (congrArg _ (if_pos (congrArg not h)))) rfl rfl
    · have hx := ne_true_of_eq_false (congrArg not h)
      exact hgives (hwait.trans (congrArg _ ((if_neg hx).trans (if_pos hp)))) rfl rfl
    · have hx := ne_true_of_eq_false (congrArg not h)
      refine hwait.trans (congrArg _ ((if_neg hx).trans ((if_neg (not_not.2 hp)).trans ?_)))
      rw [addWait_some rfl rfl]
      rfl
  · exact (exec_bquery_at (la := la) hs hd ha hgo).trans (congrArg _ (resV_eq rfl rfl _ _))

end Sys2Proof.Machine
end

section
/-! SUPPORT. The MCTL words: the lines that lanes name, lines fetched into L1, the walks they need, and descriptors read
(R161, R167, R170, R193, R194). -/

namespace Sys2Proof.Machine

/-! ### The lines that lanes name (R193) -/

section Lines
variable (g : Nat → Nat) {ls : List Nat}

/-- The values that `g` gives entries of a list, each with the first entry that has it. -/
def firstOf (ls : List Nat) : List (Nat × Nat) :=
  ls.foldl (fun xs l => if xs.any (·.2 == g l) then xs else xs ++ [(l, g l)]) []

theorem firstOf_append (l : Nat) : firstOf g (ls ++ [l]) =
    if (firstOf g ls).any (·.2 == g l) then firstOf g ls else firstOf g ls ++ [(l, g l)] := by
  rw [firstOf, List.foldl_append]
  rfl

theorem firstOf_mem {x : Nat × Nat} (h : x ∈ firstOf g ls) : x.1 ∈ ls ∧ x.2 = g x.1 := by
  induction ls using List.reverseRecOn with
  | nil => cases h
  | append_singleton ls l ih =>
    rw [firstOf_append] at h
    split at h
    · exact ⟨List.mem_append_left _ (ih h).1, (ih h).2⟩
    · rcases List.mem_append.1 h with h | h
      · exact ⟨List.mem_append_left _ (ih h).1, (ih h).2⟩
      · rw [List.mem_singleton.1 h]
        exact ⟨by simp, rfl⟩

theorem firstOf_nodup : ((firstOf g ls).map (·.2)).Nodup := by
  induction ls using List.reverseRecOn with
  | nil => exact List.nodup_nil
  | append_singleton ls l ih =>
    rw [firstOf_append]
    split
    · exact ih
    next h =>
      rw [List.map_append, List.map_singleton]
      refine List.Nodup.append ih (List.nodup_singleton _) ?_
      simpa using h

theorem firstOf_covers (hs : ls.Pairwise (· < ·)) {l : Nat} (h : l ∈ ls) : ∃ x ∈ firstOf g ls, x.1 ≤ l ∧ x.2 = g l := by
  induction ls using List.reverseRecOn with
  | nil => cases h
  | append_singleton ls l' ih =>
    obtain ⟨hls, -, hlt⟩ := List.pairwise_append.1 hs
    have hsub : ∀ x ∈ firstOf g ls, x ∈ firstOf g (ls ++ [l']) := fun x hx => by
      rw [firstOf_append]
      split
      · exact hx
      · exact List.mem_append_left _ hx
    rcases List.mem_append.1 h with h | h
    · obtain ⟨x, hx, hle⟩ := ih hls h
      exact ⟨x, hsub x hx, hle⟩
    · obtain rfl := List.mem_singleton.1 h
      by_cases hany : (firstOf g ls).any (·.2 == g l) = true
      · obtain ⟨x, hx, he⟩ := List.any_eq_true.1 hany
        exact ⟨x, hsub x hx, (hlt x.1 (firstOf_mem g hx).1 l (by simp)).le, beq_iff_eq.1 he⟩
      · exact ⟨(l, g l), by rw [firstOf_append, if_neg hany]; simp, le_rfl, rfl⟩

end Lines

theorem linesOf_eq (s : State) (v : Bool) (a : Nat) : linesOf s v a = firstOf (lineVa s v a) (liveLanes s) := rfl

theorem liveLanes_sorted (s : State) : (liveLanes s).Pairwise (· < ·) := List.pairwise_lt_range.filter _

/-! ### Lines fetched into L1 (R167, R170) -/

theorem coreAt_updCore (s : State) (c e : Nat) (f : Core → Core) :
    coreAt (updCore s c f) e = if e = c ∧ e < s.cores.length then f (coreAt s e) else coreAt s e := getD_modify ..

/-- `u` is `s` but for the times of lines and the copies and times of the cores. -/
def OnlyFetched (s u : State) : Prop := SameButCores s u ∧ OnlyCaches s u ∧ u.cores.length = s.cores.length

theorem OnlyFetched.refl (s : State) : OnlyFetched s s := ⟨rfl, ⟨fun _ => rfl, fun _ => rfl⟩, rfl⟩

theorem OnlyFetched.trans {s t u : State} (h : OnlyFetched s t) (h' : OnlyFetched t u) : OnlyFetched s u := by
  obtain ⟨hs, ⟨hc, hb⟩, hl⟩ := h
  obtain ⟨hs', ⟨hc', hb'⟩, hl'⟩ := h'
  refine ⟨hs.trans hs', ⟨fun c => ?_, fun b => ?_⟩, hl'.trans hl⟩
  · rw [hc' c, hc c]
  · rw [hb' b, hb b]

theorem OnlyFetched.caches {s u : State} (h : OnlyFetched s u) : OnlyCaches s u := h.2.1
theorem OnlyFetched.cores_length {s u : State} (h : OnlyFetched s u) : u.cores.length = s.cores.length := h.2.2

section Fetched
variable {s t : State} (h : OnlyFetched s t)
include h

/-- What has been fetched changes no translation. -/
theorem threadXl_fetched (home : Option Nat) (lane va : Nat) : threadXl t home lane va = threadXl s home lane va := by
  obtain ⟨hs, ⟨hc, -⟩, -⟩ := h
  obtain ⟨lines, cores, rfl⟩ : ∃ lines cores, t = { s with lines := lines, cores := cores } := ⟨_, _, hs⟩
  have htlb : coreTlbs { s with lines := lines, cores := cores } s.c.core = coreTlbs s s.c.core :=
    congrArg (· ++ _) (congrArg Core.tlb (hc s.c.core) :)
  have h1 (a : Nat) : lane1 { s with lines := lines, cores := cores } lane a = lane1 s lane a := by
    simp only [lane1, htlb]
  simp only [threadXl, h1]
  rfl

theorem devGet_fetched (fn k : Nat) : devGet t fn k = devGet s fn k := by
  rw [h.1]
  rfl

theorem crew_fetched : t.c = s.c := by rw [h.1]

end Fetched

/-- The copies that the issuing core holds. -/
def ownCopies (s : State) : List Copy := (coreAt s s.c.core).copies

/-- A copy holds a line of 1,024 bytes that begins at `k`. -/
def HoldsLine (s : State) (k : Nat) (cp : Copy) : Prop := ∀ i < 1024, (k + i, devGet s s.c.vf (k + i)) ∈ cp.bytes

/-- A fetch of one line puts a copy of it beside those of other lines. -/
theorem fetchHome_line (s : State) (tag : Tag) (k lease : Nat) :
    let t := fetchHome s { tags := [tag], pieces := [(tag, [(k, 1024)])], replica := false } lease
    OnlyFetched s t ∧ (s.c.core < s.cores.length → (∀ cp ∈ ownCopies s, cp.tag ≠ tag → cp ∈ ownCopies t) ∧
      ∃ cp ∈ ownCopies t, cp.tag = tag ∧ HoldsLine s k cp) := by
  intro t
  obtain ⟨lines, hl⟩ := readLines_frame s [tag] (readTime s [tag] (ltimeOf s s.c.core)) lease
  have ht : t = updCore { s with lines := lines } s.c.core fun c =>
      { c with copies := keepCopy s s.c.vf (readTime s [tag] (ltimeOf s s.c.core)) lease c.copies tag [(k, 1024)] } := by
    rw [← hl]
    rfl
  rw [ht]
  refine ⟨⟨rfl, ⟨fun c => ?_, fun _ => rfl⟩, List.length_modify ..⟩, fun hc => ?_⟩
  · rw [coreAt_updCore]
    split <;> rfl
  · have hown : ownCopies (updCore { s with lines := lines } s.c.core fun c =>
        { c with copies := keepCopy s s.c.vf (readTime s [tag] (ltimeOf s s.c.core)) lease c.copies tag [(k, 1024)] }) =
        keepCopy s s.c.vf (readTime s [tag] (ltimeOf s s.c.core)) lease (ownCopies s) tag [(k, 1024)] :=
      (congrArg Core.copies ((coreAt_updCore ..).trans (if_pos ⟨rfl, hc⟩)) :)
    rw [hown]
    refine ⟨fun cp hcp hne => ?_, _, List.mem_cons_self, rfl, fun i hi => ?_⟩
    · exact List.mem_cons_of_mem _ (List.mem_filter.2 ⟨hcp, by simpa using hne⟩)
    · refine List.mem_append_left _ ?_
      simp only [List.flatMap_cons, List.flatMap_nil, List.append_nil, List.mem_map, List.mem_range]
      exact ⟨i, hi, rfl⟩

/-- A prefetch of one line that can be read fetches it; one of another line does nothing. -/
theorem prefetchLine_cases (s : State) (lane va : Nat) :
    (∃ k w p, threadXl s none lane va = some (.ok (.dev k) true w p) ∧ prefetchLine s lane va =
      fetchHome s { tags := [flatTag s.c.vf va], pieces := [(flatTag s.c.vf va, [(k, 1024)])], replica := false } Config.lease) ∨
    (∀ k w p, threadXl s none lane va ≠ some (.ok (.dev k) true w p)) ∧ prefetchLine s lane va = s := by
  unfold prefetchLine
  split
  next k w p h => exact .inl ⟨k, w, p, h, rfl⟩
  next h => exact .inr ⟨h, rfl⟩

theorem prefetchLine_fetched (s : State) (lane va : Nat) : OnlyFetched s (prefetchLine s lane va) := by
  obtain ⟨k, w, p, -, h⟩ | ⟨-, h⟩ := prefetchLine_cases s lane va <;> rw [h]
  · exact (fetchHome_line ..).1
  · exact .refl s

theorem prefetchLine_keeps {s : State} (lane : Nat) {va : Nat} (hc : s.c.core < s.cores.length) {cp : Copy} (h : cp ∈ ownCopies s)
    (ht : cp.tag ≠ flatTag s.c.vf va) : cp ∈ ownCopies (prefetchLine s lane va) := by
  obtain ⟨k, w, p, -, hp⟩ | ⟨-, hp⟩ := prefetchLine_cases s lane va <;> rw [hp]
  · exact ((fetchHome_line ..).2 hc).1 cp h ht
  · exact h

theorem prefetchLine_holds {s : State} {lane va k : Nat} {w : Bool} {p : Nat} (hc : s.c.core < s.cores.length)
    (h : threadXl s none lane va = some (.ok (.dev k) true w p)) :
    ∃ cp ∈ ownCopies (prefetchLine s lane va), cp.tag = flatTag s.c.vf va ∧ HoldsLine s k cp := by
  obtain ⟨k', w', p', h', hp⟩ | ⟨h', -⟩ := prefetchLine_cases s lane va
  · rw [h] at h'
    cases h'
    rw [hp]
    exact ((fetchHome_line ..).2 hc).2
  · exact absurd h (h' k w p)

/-- Lines fetched one after another: the copy of each stays, for no two have one tag. -/
theorem foldl_prefetchLine (xs : List (Nat × Nat)) (hn : (xs.map fun x => x.2 % 2 ^ 56 / 1024).Nodup) (s : State) :
    let t := xs.foldl (fun s x => prefetchLine s x.1 x.2) s
    OnlyFetched s t ∧ (s.c.core < s.cores.length →
      (∀ cp ∈ ownCopies s, (∀ x ∈ xs, cp.tag ≠ flatTag s.c.vf x.2) → cp ∈ ownCopies t) ∧
      ∀ x ∈ xs, ∀ k w p, threadXl s none x.1 x.2 = some (.ok (.dev k) true w p) →
        ∃ cp ∈ ownCopies t, cp.tag = flatTag s.c.vf x.2 ∧ HoldsLine s k cp) := by
  induction xs generalizing s with
  | nil => exact ⟨.refl s, fun _ => ⟨fun _ h _ => h, fun _ h => by cases h⟩⟩
  | cons y ys ih =>
    rw [List.map_cons, List.nodup_cons] at hn
    have hf := prefetchLine_fetched s y.1 y.2
    obtain ⟨ht, hk⟩ := ih hn.2 (prefetchLine s y.1 y.2)
    refine ⟨hf.trans ht, fun hc => ?_⟩
    have hcrew := crew_fetched hf
    obtain ⟨hkeep, hhold⟩ := hk (by rwa [hcrew, hf.cores_length])
    rw [hcrew] at hkeep hhold
    refine ⟨fun cp hcp hne => ?_, fun x hx k w p hok => ?_⟩
    · exact hkeep cp (prefetchLine_keeps y.1 hc hcp (hne y List.mem_cons_self)) fun x hx => hne x (List.mem_cons_of_mem _ hx)
    · rcases List.mem_cons.1 hx with rfl | hx
      · obtain ⟨cp, hcp, htag, hline⟩ := prefetchLine_holds hc hok
        refine ⟨cp, hkeep cp hcp fun x' hx' he => hn.1 ?_, htag, hline⟩
        exact List.mem_map.2 ⟨x', hx', congrArg Tag.row (he.symm.trans htag)⟩
      · obtain ⟨cp, hcp, htag, hline⟩ := hhold x hx k w p (by rwa [threadXl_fetched hf])
        refine ⟨cp, hcp, htag, fun i hi => ?_⟩
        have := hline i hi
        rwa [hcrew, devGet_fetched hf] at this

section Prefetch
variable {s : State} {v : Bool} {a : Nat}

theorem lineVa_eq (l : Nat) : lineVa s v a l = (s.c.flat + offsetOf s v a l) % 2 ^ 56 / 1024 * 1024 := rfl

/-- The lines that lanes name have different rows. -/
theorem linesOf_rows : ((linesOf s v a).map fun x => x.2 % 2 ^ 56 / 1024).Nodup := by
  rw [linesOf_eq]
  have hrow : (firstOf (lineVa s v a) (liveLanes s)).map (fun x => x.2 % 2 ^ 56 / 1024) =
      ((firstOf (lineVa s v a) (liveLanes s)).map (·.2)).map fun y => y % 2 ^ 56 / 1024 := by
    rw [List.map_map]
    rfl
  rw [hrow]
  refine List.Nodup.map_on (fun x hx y hy h => ?_) (firstOf_nodup _)
  obtain ⟨p, hp, rfl⟩ := List.mem_map.1 hx
  obtain ⟨q, hq, rfl⟩ := List.mem_map.1 hy
  have hp := (firstOf_mem _ hp).2
  have hq := (firstOf_mem _ hq).2
  rw [lineVa_eq] at hp hq
  omega

/-- `prefetch` and the words like it read one address register, in a window that has a register. -/
theorem exec_mctl {i : Instr} {f : State → State} (hx : exec i s = issue i s f) (hs : MemoryReady s) (hw : 0 < s.w.window)
    (ha : AddrInRange s v a) (hi : fields i = [⟨.v, 0, 1, false, false, false⟩, aop v a]) (hm : majorOf i = 0x2B) :
    exec i s = .next (f s) :=
  exec_pipeFree hx hs.1 (by simp [hm]) (regrange_access hi ((bad_v ..).trans (decide_eq_false (Nat.not_le.2 hw))) (bad_aop ha))

/-- Every line is translated: `prefetch` fetches the lines. -/
theorem exec_prefetch_fetches (hs : MemoryReady s) (hw : 0 < s.w.window) (ha : AddrInRange s v a)
    (h : ∀ x ∈ linesOf s v a, threadXl s none x.1 x.2 ≠ none) : exec (.prefetch a v) s =
      .next (checksOver ((linesOf s v a).foldl (fun s x => prefetchLine s x.1 x.2) s)) := by
  have hm : ((linesOf s v a).filter fun x => (threadXl s none x.1 x.2).isNone) = [] :=
    List.filter_eq_nil_iff.2 fun x hx => by simpa using h x hx
  rw [exec_mctl (exec_prefetch ..) hs hw ha rfl rfl]
  simp only [hm, List.isEmpty_nil, if_true, closeChecks_passed (rs := []) rfl]

/-! ### Walks (R278) -/

/-- `t` is `s` but for its dies. -/
def SameButDies (s t : State) : Prop := t = { s with dies := t.dies }

theorem SameButDies.trans {s t u : State} (h : SameButDies s t) (h' : SameButDies t u) : SameButDies s u := by
  rw [SameButDies] at h h' ⊢
  rw [h', h]

theorem joinWalk_dies (s : State) (d : Nat) (w : Want) (me : Nat × Nat × Nat) : SameButDies s (joinWalk s d w me) := by
  dsimp only [joinWalk]
  split
  · rfl
  · split
    · rfl
    · split <;> rfl

theorem wantWalk_dies (s : State) (lane : Nat) (w : Want) : SameButDies s (wantWalk s lane w) := by
  dsimp only [wantWalk, wantFor]
  split
  · rfl
  · exact joinWalk_dies ..

theorem foldl_wantWalk_dies (xs : List (Nat × Nat)) (s : State) :
    SameButDies s (xs.foldl (fun s x => wantWalk s x.1 (wantOf s none x.1 x.2)) s) := by
  induction xs generalizing s with
  | nil => rfl
  | cons x xs ih => exact (wantWalk_dies s x.1 _).trans (ih _)

/-- Some line is not translated: `prefetch` asks for the walks and waits. -/
theorem exec_prefetch_walks (hs : MemoryReady s) (hw : 0 < s.w.window) (ha : AddrInRange s v a)
    (h : ∃ x ∈ linesOf s v a, threadXl s none x.1 x.2 = none) :
    ∃ t, SameButDies s t ∧ exec (.prefetch a v) s = .next (stalled t) := by
  obtain ⟨x, hx, hn⟩ := h
  have hm : ((linesOf s v a).filter fun x => (threadXl s none x.1 x.2).isNone).isEmpty = false := by
    rw [List.isEmpty_eq_false_iff]
    exact List.ne_nil_of_mem (List.mem_filter.2 ⟨hx, by rw [hn]; rfl⟩)
  refine ⟨_, foldl_wantWalk_dies ((linesOf s v a).filter fun x => (threadXl s none x.1 x.2).isNone) s, ?_⟩
  rw [exec_mctl (exec_prefetch ..) hs hw ha rfl rfl]
  simp only [hm, Bool.false_eq_true, if_false]

/-! ### Write-back and discard (R193) -/

/-- The checks are over, and the write-back of the lines waits to be performed, where the word acts on a lane. -/
def withWriteback (s : State) (v : Bool) (a : Nat) : State :=
  if liveMask s = 0 then checksOver s else withQueue (checksOver s)
    [.store 0 0 (((linesOf s v a).filter fun x => !inPeerWindow x.2).map fun x => flatTag s.c.vf x.2) []]

theorem cacheOp_passed (hs : MemoryReady s) (drop : Bool) (h : ∀ l < 64, s.iss.active.getLsbD l = true →
      ∃ ls, reachVa s l false true false false [(s.c.flat + offsetOf s v a l) % 2 ^ 56] = .go ls) :
    cacheOp s v a drop = if drop then dropCopies (withWriteback s v a) else withWriteback s v a := by
  have hpass : ∀ l < 64, s.iss.active.getLsbD l = true →
      (reachVa s l false true false false [(s.c.flat + addrOf s v a l) % 2 ^ 56]).passes = true := fun l hl hm => by
    obtain ⟨ls, hg⟩ := h l hl hm
    exact (congrArg Reach.passes hg).trans rfl
  rw [cacheOp, memOp_passed _ _ _ hs hpass]
  rfl

end Prefetch

/-! ### Descriptors (R161, R163, R194) -/

theorem fillDesc_dies {s r : State} {die vf n : Nat} (h : fillDesc s die vf n = some r) : SameButDies s r := by
  unfold fillDesc at h
  split at h
  · cases h; rfl
  · split at h
    · cases h
    · cases h; rfl
    · cases h; rfl

theorem wordOfBytes_zeros (n : Nat) : wordOfBytes (List.replicate n 0) = 0 := by
  induction n with
  | zero => rfl
  | succ n ih => rw [List.replicate_succ, wordOfBytes_cons, ih]; rfl

section Tdesc
variable {s r : State} {la d a n : Nat}

/-- R194: tensor 0. -/
theorem tdescLane_zero (l : Nat) : tdescLane s 0 l = if l = 22 then 1 else 0 := by
  simp only [tdescLane, validDesc, if_true]
  split_ifs <;> first | rfl | omega

/-- R194: a descriptor that cannot be read. -/
theorem tdescLane_unread (hn : n ≠ 0) (h : cachedDesc s (s.c.core / 128) s.c.vf n = some none) (l : Nat) :
    tdescLane s n l = if l = 22 then 2 else 0 := by
  have hz : w32 (leAt (List.replicate 64 0) (4 * l) 4) = 0 := by
    rw [leAt, List.drop_replicate, List.take_replicate, wordOfBytes_zeros]
    rfl
  simp only [tdescLane, validDesc, dieOfCore, h, hn, hz, if_false, Option.isSome_none, Bool.false_eq_true]
  split_ifs <;> first | rfl | omega

/-- A word of a descriptor. -/
def descWord (bs : List Byte) (l : Nat) : Word := w32 (wordOfBytes ((bs.drop (4 * l)).take 4))

/-- R194: a valid descriptor, its grid and its tiles. -/
theorem tdescLane_valid (hn : n ≠ 0) {bs : List Byte} (h : cachedDesc s (s.c.core / 128) s.c.vf n = some (some bs))
    (hv : (parseDesc bs).valid = true) (l : Nat) : tdescLane s n l = if l < 16 then descWord bs l
      else if l < 20 then w32 ((parseDesc bs).grid.getD (l - 16) 0)
      else if l = 20 then w32 (parseDesc bs).q else if l = 21 then w32 (parseDesc bs).tiles else 0 := by
  simp only [tdescLane, validDesc, dieOfCore, h, hn, hv, if_false, if_true, leAt, descWord, Option.isSome_some]
  by_cases h22 : l = 22
  · subst h22; rfl
  · simp only [h22, if_false]

/-- R194: a descriptor that is not valid. -/
theorem tdescLane_invalid (hn : n ≠ 0) {bs : List Byte} (h : cachedDesc s (s.c.core / 128) s.c.vf n = some (some bs))
    (hv : (parseDesc bs).valid = false) (l : Nat) :
    tdescLane s n l = if l < 16 then descWord bs l else if l = 22 then 2 else 0 := by
  simp only [tdescLane, validDesc, dieOfCore, h, hn, hv, if_false, leAt, descWord, Bool.false_eq_true, Option.isSome_none]

theorem exec_tdesc_ready (hs : MemoryReady s) (hd : d < s.w.window) (ha : a < 64) (hn : (rdS s.old a).toNat % 2 ^ 16 = n) :
    exec (.tdesc la d a) s = .next (if n = 0 then resV s (.tdesc la d a) d (tdescLane s n) 0 false
      else match fillDesc s (s.c.core / 128) s.c.vf n with
        | some r => resV r (.tdesc la d a) d (tdescLane r n) 0 false
        | none => stalled s) := by
  subst hn
  have hv : Field.bad s.w.window (vw d).t = false := (bad_v ..).trans (decide_eq_false (Nat.not_le.2 hd))
  have hu : Field.bad s.w.window (us a) = false := (bad_s ..).trans (decide_eq_false (Nat.not_le.2 ha))
  rw [exec_pipeFree (exec_tdesc ..) hs.1 (by simp [majorOf]) (regrange_access rfl hv hu)]
  dsimp only [withDesc, dieOfCore]
  split
  · rfl
  · rfl

end Tdesc

/-- Settles O35: the lines that lanes name, each word through what its checks gave, and `tdesc` by what its die has cached. -/
theorem cacheAndDescriptorWordsDoTheirPart : Obligations.CacheAndDescriptorWordsDoTheirPart := by
  intro s la d a v hs va xs empty
  refine ⟨⟨fun x hx => firstOf_mem _ hx, firstOf_nodup _, fun l hl => firstOf_covers _ (liveLanes_sorted s) hl⟩,
    fun hw ha h => ?_, fun hw ha h => ?_, fun hw ha h => ⟨?_, ?_⟩, ?_⟩
  · obtain ⟨hf, hk⟩ := foldl_prefetchLine (linesOf s v a) linesOf_rows s
    have hx := exec_prefetch_fetches hs hw ha h
    generalize (linesOf s v a).foldl (fun s x => prefetchLine s x.1 x.2) s = t at hf hk hx
    refine ⟨_, hx, congrArg checksOver hf.1, hf.caches, fun x hx k w p hc hok => ?_⟩
    have hcp := (hk hc).2 x hx k w p hok
    rwa [ownCopies, crew_fetched hf] at hcp
  · obtain ⟨t, ht, hx⟩ := exec_prefetch_walks hs hw ha h
    exact ⟨_, hx, congrArg stalled ht⟩
  · exact (exec_mctl (exec_writeback ..) hs hw ha rfl rfl).trans (congrArg _ (cacheOp_passed hs false h))
  · exact (exec_mctl (exec_discard ..) hs hw ha rfl rfl).trans
      (congrArg _ ((cacheOp_passed hs true h).trans (dropCopies_eq (withWriteback s v a))))
  · intro hd ha n gives
    have hx := exec_tdesc_ready (la := la) hs hd ha (n := n) rfl
    have hgives {r : State} {f g : Nat → Word} (hr : SameButDies s r)
        (hi : exec (.tdesc la d a) s = .next (resV r (.tdesc la d a) d f 0 false)) (hfg : ∀ l, f l = g l) : gives r g := by
      have hm : liveMask r = liveMask s := by rw [hr]; rfl
      rw [funext hfg, resV_eq rfl rfl, hm] at hi
      exact hi
    refine ⟨fun hn => ?_, fun hn hr => ?_, fun r hn hr => ?_⟩
    · rw [if_pos hn, hn] at hx
      exact hgives rfl hx tdescLane_zero
    · rw [if_neg hn, hr] at hx
      exact hx
    · rw [if_neg hn, hr] at hx
      have hd := fillDesc_dies hr
      have hc : r.c = s.c := by rw [hd]
      refine ⟨fun hb => hgives hd hx (tdescLane_unread hn (by rwa [hc])), fun bs hb => ?_⟩
      have hb : cachedDesc r (r.c.core / 128) r.c.vf n = some (some bs) := by rwa [hc]
      exact ⟨fun hv => hgives hd hx (tdescLane_valid hn hb hv), fun hv => hgives hd hx (tdescLane_invalid hn hb hv)⟩

end Sys2Proof.Machine
end

section
/-! SUPPORT. The words of XCOPY and CRING: slices supplied to operations, and rings in the issuing crew's share (R202, R205,
R210, R229 to R232). -/

namespace Sys2Proof.Machine

/-! ### Bytes that a word writes into its crew's share (R172, R173, R178) -/

theorem onlyCaches_trans {s t u : State} (h : OnlyCaches s t) (h' : OnlyCaches t u) : OnlyCaches s u := by
  obtain ⟨hc, hb⟩ := h
  obtain ⟨hc', hb'⟩ := h'
  refine ⟨fun c => ?_, fun b => ?_⟩
  · rw [hc' c, hc c]
  · rw [hb' b, hb b]

theorem onlyFetched_raiseTime (s : State) (core now : Nat) : OnlyFetched s (raiseTime s core now) := by
  refine ⟨rfl, ⟨fun c => ?_, fun _ => rfl⟩, List.length_modify ..⟩
  rw [raiseTime, coreAt_updCore]
  split <;> rfl

theorem onlyFetched_dropCopies (s : State) (core : Nat) (f : Copy → Option Copy) :
    OnlyFetched s (updCore s core fun k => { k with copies := k.copies.filterMap f }) := by
  refine ⟨rfl, ⟨fun c => ?_, fun _ => rfl⟩, List.length_modify ..⟩
  rw [coreAt_updCore]
  split <;> rfl

theorem onlyFetched_writtenBy (s : State) (core : Nat) (ts : List Tag) (bs : List (Loc × Byte)) :
    OnlyFetched s (writtenBy s core ts bs) := by
  unfold writtenBy
  split
  · exact .refl s
  · obtain ⟨lines, h⟩ := writeLines_frame s ts (writeTime s ts (ltimeOf s core))
    have hl : OnlyFetched s (writeLines s ts (writeTime s ts (ltimeOf s core))) := by
      rw [h]
      exact ⟨rfl, ⟨fun _ => rfl, fun _ => rfl⟩, rfl⟩
    exact (hl.trans (onlyFetched_raiseTime ..)).trans (onlyFetched_dropCopies ..)

/-- The state with the scratchpad of the issuing crew's quad as `f` gives it. -/
def withPad (s : State) (f : Memory → Memory) : State := updQuad s (s.c.core / 4) fun q => { q with sp := f q.sp }

theorem withPad_withPad (s : State) (f g : Memory → Memory) : withPad (withPad s f) g = withPad s (g ∘ f) :=
  congrArg (fun qs => { s with quads := qs }) (List.modify_modify_eq ..)

/-- The bytes of a scratchpad arm no object. -/
theorem armedAt_withPad (s : State) (f : Memory → Memory) (l : Loc) : armedAt (withPad s f) l = armedAt s l := by
  cases l with
  | sp q o =>
    rw [armedAt, armedAt, withPad, quadAt_updQuad]
    split <;> rfl
  | _ => rfl

theorem foldl_shWrite_own (s : State) (xs : List (Nat × Byte)) (f : Memory → Memory) :
    xs.foldl (fun t x => if shArmed t (ownShare s) x.1 then t else shWrite t (ownShare s) x.1 [x.2]) (withPad s f) =
      withPad s fun m => (xs.map fun x => (s.c.shareBase + x.1, x.2)).foldl
        (fun m x => if armedAt s (.sp (s.c.core / 4) x.1) then m else memWrite m x.1 [x.2]) (f m) := by
  induction xs generalizing f with
  | nil => rfl
  | cons x xs ih =>
    have ha : shArmed (withPad s f) (ownShare s) x.1 = armedAt s (.sp (s.c.core / 4) (s.c.shareBase + x.1)) :=
      armedAt_withPad s f (.sp (s.c.core / 4) (s.c.shareBase + x.1))
    have hw : shWrite (withPad s f) (ownShare s) x.1 [x.2] = withPad s fun m => memWrite (f m) (s.c.shareBase + x.1) [x.2] :=
      withPad_withPad s f fun m => memWrite m (s.c.shareBase + x.1) [x.2]
    simp only [List.foldl_cons, List.map_cons, ha, hw]
    cases armedAt s (.sp (s.c.core / 4) (s.c.shareBase + x.1))
    · exact ih fun m => memWrite (f m) (s.c.shareBase + x.1) [x.2]
    · exact ih f

theorem shFree_own (s : State) (o : Nat) (bs : List Byte) : shFree s (ownShare s) o bs = withPad s (shareWrite s o bs) := by
  have hs : withPad s id = s := congrArg (fun qs => { s with quads := qs }) (List.modify_id ..)
  have h := foldl_shWrite_own s (bs.mapIdx fun i b => (o + i, b)) id
  rw [hs, List.mapIdx_eq_zipIdx_map, List.map_map] at h
  rw [shFree, List.mapIdx_eq_zipIdx_map]
  refine h.trans (congrArg (withPad s) (funext fun m => ?_))
  rw [shareWrite, List.mapIdx_eq_zipIdx_map]
  rfl

theorem shCore_own (s : State) (o : Nat) (bs : List Byte) :
    OnlyFetched (withPad s (shareWrite s o bs)) (shCore s (ownShare s) o bs) := by
  rw [shCore, shFree_own]
  exact onlyFetched_writtenBy ..

section Fetched
variable {s t : State} (h : OnlyFetched s t)
include h

theorem armedAt_fetched (l : Loc) : armedAt t l = armedAt s l := by
  rw [h.1]
  cases l <;> rfl

theorem shareWrite_fetched : shareWrite t = shareWrite s := by
  funext o bs m
  simp only [shareWrite, armedAt_fetched h, crew_fetched h]

theorem withPad_fetched (f : Memory → Memory) : OnlyFetched (withPad s f) (withPad t f) := by
  obtain ⟨hs, hc, hl⟩ := h
  refine ⟨?_, hc, hl⟩
  rw [SameButCores] at hs ⊢
  rw [hs]
  rfl

end Fetched

/-- Two writes into the issuing crew's share, the later one last. -/
theorem shCore_shCore_own (s : State) (o o' : Nat) (bs bs' : List Byte) :
    OnlyFetched (withPad s (shareWrite s o' bs' ∘ shareWrite s o bs))
      (shCore (shCore s (ownShare s) o bs) (ownShare s) o' bs') := by
  have h := shCore_own s o bs
  generalize shCore s (ownShare s) o bs = t at h ⊢
  have hw : shareWrite t = shareWrite s := (shareWrite_fetched h).trans (by
    funext o bs m
    simp only [shareWrite, armedAt_withPad]
    rfl)
  have ho : ownShare t = ownShare s := by rw [ownShare, crew_fetched h]; rfl
  have h' := (withPad_fetched h (shareWrite s o' bs')).trans (hw ▸ shCore_own t o' bs')
  rwa [withPad_withPad, ho] at h'

/-! ### Slices (R205, R229) -/

section Supply
variable {s : State} {i : Instr} {la d ch off : Nat}

/-- The slice that the warp in issue supplies: 32 bytes of its share, none where they do not lie in it at a multiple of 32. -/
def sliceAt (s : State) (off : Nat) : Slice :=
  { warp := s.w.idx, bytes := some (if off % 32 = 0 ∧ off + 32 ≤ s.c.shareSize then shareBytes s off 32 else []), pend := s.w.nextId }

theorem shareSlice_eq (s : State) (off : Nat) :
    (if off % 32 ≠ 0 ∨ (ownShare s).size < off + 32 then [] else shRead s (ownShare s) off 32) =
      if off % 32 = 0 ∧ off + 32 ≤ s.c.shareSize then shareBytes s off 32 else [] := by
  have hs : (ownShare s).size = s.c.shareSize := rfl
  rw [shRead_ownShare, hs]
  by_cases h : off % 32 = 0 ∧ off + 32 ≤ s.c.shareSize
  · rw [if_pos h, if_neg (by omega)]
  · rw [if_neg h, if_pos (by omega)]

/-- The state `t` after a slice has joined a channel: the crew counts it, and the word's result waits for its operation. -/
def withSupplied (s t : State) (d la ch nth : Nat) : State :=
  withOpenResult { syncEngine t s.c.core with c := { t.c with
    supplied := (ch, s.w.idx, nth) :: t.c.supplied.filter fun x => !(x.1 == ch && x.2.1 == s.w.idx) } } ⟨.s, d, 1⟩ la

/-- The operation that a first slice opens. -/
def newCopy (s : State) (off nth : Nat) : ChanEntry := {
  kind := .copy, op := s.opSeq, launch := s.c.launch, crew := s.c.id, vf := s.c.vf, core := s.c.core,
  shareBase := s.c.shareBase, shareSize := s.c.shareSize, flat := s.c.flat, slices := [sliceAt s off], nth := nth }

variable (ht : targetOf i = some ⟨.s, d, 1⟩) (hl : laOf i = la)
include ht hl

theorem supply_opens (hs : xcopyStalls s (s.c.core / 16) ch (suppliedBy s.c ch s.w.idx + 1) = false)
    (hj : joinOp s (s.c.core / 16) ch (suppliedBy s.c ch s.w.idx + 1) = none) : supply s i ch off =
      formOps (withSupplied s (updChan { s with opSeq := s.opSeq + 1 } (s.c.core / 16) ch fun c =>
        { c with entries := c.entries ++ [newCopy s off (suppliedBy s.c ch s.w.idx + 1)] }) d la ch
          (suppliedBy s.c ch s.w.idx + 1)) (s.c.core / 16) := by
  have hb := shareSlice_eq s off
  rw [ownShare] at hb
  simp only [supply, bayOfCore, hs, hj, hb, addPend_open ht, hl]
  rfl

theorem supply_joins {e : ChanEntry} (hs : xcopyStalls s (s.c.core / 16) ch (suppliedBy s.c ch s.w.idx + 1) = false)
    (hj : joinOp s (s.c.core / 16) ch (suppliedBy s.c ch s.w.idx + 1) = some e) : supply s i ch off =
      formOps (withSupplied s (updChan s (s.c.core / 16) ch fun c => { c with entries := c.entries.map fun (x : ChanEntry) =>
        if x.op = e.op then { x with slices := insertSlice (sliceAt s off) x.slices } else x }) d la ch
          (suppliedBy s.c ch s.w.idx + 1)) (s.c.core / 16) := by
  have hb := shareSlice_eq s off
  rw [ownShare] at hb
  simp only [supply, bayOfCore, hs, hj, hb, addPend_open ht, hl]
  rfl

end Supply

/-! ### Records taken from a ring (R231) -/

section Pop
variable {s : State} {i : Instr} {d ring land_ base lg head tail : Nat} {sp : Bool}

theorem popRecord_noRing (h : ringOf s (ownShare s) ring = none) : popRecord s i d ring land_ = resWord s i d (ringWord 2 0) := by
  simp only [popRecord, h]

variable (h : ringOf s (ownShare s) ring = some (base, sp, lg, head, tail))
include h

theorem popRecord_noLanding (hl : ¬ (land_ % 32 = 0 ∧ land_ + 32 ≤ s.c.shareSize)) :
    popRecord s i d ring land_ = resWord s i d (ringWord 3 (ringCount head tail)) := by
  simp only [popRecord, h]
  exact if_pos (by omega)

variable (hl : land_ % 32 = 0 ∧ land_ + 32 ≤ s.c.shareSize)
include hl

theorem popRecord_empty (hn : ringCount head tail = 0) : popRecord s i d ring land_ = resWord s i d (ringWord 1 0) := by
  simp only [popRecord, h]
  rw [if_neg (by omega), if_pos hn]

variable (hn : ringCount head tail ≠ 0)
include hn

theorem popRecord_waits (hs : slotBytes s sp (base + 32 * (tail % 2 ^ lg)) = .error 0) : popRecord s i d ring land_ = stalled s := by
  simp only [popRecord, h, hs]
  rw [if_neg (by omega), if_neg hn]

theorem popRecord_unreadable {c : Nat} (hs : slotBytes s sp (base + 32 * (tail % 2 ^ lg)) = .error (c + 1)) :
    popRecord s i d ring land_ = resWord s i d (ringWord 2 0) := by
  simp only [popRecord, h, hs]
  rw [if_neg (by omega), if_neg hn]

theorem popRecord_takes {bs : List Byte} (hs : slotBytes s sp (base + 32 * (tail % 2 ^ lg)) = .ok bs)
    (hr : ∀ j < 32, shPinned s (ownShare s) (land_ + j) = false)
    (ht : ∀ j < 4, shPinned s (ownShare s) (32 * ring + 12 + j) = false) : popRecord s i d ring land_ =
      resWord (shCore (shCore s (ownShare s) (32 * ring + 12) (bytesOfNat 4 (tail + 1))) (ownShare s) land_ bs) i d
        (ringWord 0 (ringCount head tail)) := by
  have hp : ((List.range 32).any (fun j => shPinned s (ownShare s) (land_ + j)) ||
      (List.range 4).any fun j => shPinned s (ownShare s) (32 * ring + 12 + j)) = false := by
    simpa using ⟨hr, ht⟩
  simp only [popRecord, h, hs, hp]
  rw [if_neg (by omega), if_neg hn]
  rfl

end Pop

/-! ### The words -/

theorem old_syncCore (s : State) (c : Nat) : (syncCore s c).old = s.old := rfl
theorem ownShare_syncCore (s : State) (c : Nat) : ownShare (syncCore s c) = ownShare s := rfl
theorem ringOf_syncCore (s : State) (c : Nat) (a : ShareAt) (n : Nat) : ringOf (syncCore s c) a n = ringOf s a n := rfl

section Words
variable {s : State} {la d ua : Nat} (hp : PipeFree s) (hd : d < 64) (hu : ua < 64)
include hp hd hu

/-- A word of CRING takes effect once its pipe is free. -/
theorem exec_cring {i : Instr} {f : State → State} (hx : exec i s = issue i s f) (hm : majorOf i = 0x31)
    (hf : fields i = [(uw d).t, us ua]) : exec i s = .next (f s) :=
  exec_pipeFree hx hp (by simp [hm])
    (regrange_access hf ((bad_s ..).trans (decide_eq_false (Nat.not_le.2 hd))) ((bad_s ..).trans (decide_eq_false (Nat.not_le.2 hu))))

theorem exec_cpop_ready (ha : ua % 2 = 0) : exec (.cpop la d ua) s = .next
    (popRecord (syncCore s s.c.core) (.cpop la d ua) d (rdS s.old ua).toNat (rdS s.old (ua + 1)).toNat) :=
  exec_pipeFree (exec_cpop ..) hp (by simp)
    (regrange_access (fields_cpop ..) ((bad_s ..).trans (decide_eq_false (Nat.not_le.2 hd))) (bad_sn _ _ _ ha (by omega)))

theorem exec_xcopy_ready {ub : Nat} (hb : ub < 64) : exec (.xcopy la d ua ub) s = .next
    (supply s (.xcopy la d ua ub) ((rdS s.old ub).toNat % 16) (rdS s.old ua).toNat) :=
  exec_pipeFree (exec_xcopy ..) hp (by simp) (regrange_false fun f hf => by
    have hr {r : Nat} (h : r < 64) (rd wr t : Bool) : Field.bad s.w.window ⟨.s, r, 1, rd, wr, t⟩ = false :=
      (bad_s ..).trans (decide_eq_false (Nat.not_le.2 h))
    rw [fields_xcopy, List.mem_cons, List.mem_cons, List.mem_singleton] at hf
    rcases hf with rfl | rfl | rfl
    · exact hr hd ..
    · exact hr hu ..
    · exact hr hb ..)

section Poll
variable (h : ringOf s (ownShare s) (rdS s.old ua).toNat = none)
include h

theorem exec_cpoll_noRing : exec (.cpoll la d ua) s = .next (withUniform (syncCore s s.c.core) d la (ringWord 2 0)) := by
  rw [exec_cring hp hd hu (exec_cpoll ..) rfl rfl]
  simp only [old_syncCore, ownShare_syncCore, ringOf_syncCore, h]
  rw [resWord_eq (la := la) rfl rfl]

theorem exec_csleep_noRing : exec (.csleep la d ua) s = .next (withUniform (syncCore s s.c.core) d la (ringWord 2 0)) := by
  rw [exec_cring hp hd hu (exec_csleep ..) rfl rfl]
  simp only [old_syncCore, ownShare_syncCore, ringOf_syncCore, h]
  rw [resWord_eq (la := la) rfl rfl]

end Poll

section Ring
variable {base lg head tail : Nat} {sp : Bool} (h : ringOf s (ownShare s) (rdS s.old ua).toNat = some (base, sp, lg, head, tail))
include h

theorem exec_cpoll_ring : exec (.cpoll la d ua) s =
    .next (withUniform (syncCore s s.c.core) d la (ringWord 0 (ringCount head tail))) := by
  rw [exec_cring hp hd hu (exec_cpoll ..) rfl rfl]
  simp only [old_syncCore, ownShare_syncCore, ringOf_syncCore, h]
  rw [resWord_eq (la := la) rfl rfl]

theorem exec_csleep_waits (hn : ringCount head tail = 0) : exec (.csleep la d ua) s =
    .next (withWait (withWaitResult (syncCore s s.c.core) ⟨.s, d, 1⟩ la) (.ring (rdS s.old ua).toNat d head)) := by
  rw [exec_cring hp hd hu (exec_csleep ..) rfl rfl]
  simp only [old_syncCore, ownShare_syncCore, ringOf_syncCore, h, if_pos hn]
  rw [addWait_some rfl rfl]
  rfl

theorem exec_csleep_records (hn : ringCount head tail ≠ 0) : exec (.csleep la d ua) s =
    .next (withUniform (syncCore s s.c.core) d la (ringWord 0 (ringCount head tail))) := by
  rw [exec_cring hp hd hu (exec_csleep ..) rfl rfl]
  simp only [old_syncCore, ownShare_syncCore, ringOf_syncCore, h, if_neg hn]
  rw [resWord_eq (la := la) rfl rfl]

end Ring

end Words

/-- Settles O38: a slice opens an operation or joins one; each word of CRING by the ring its operand names, and `cpop` by the
landing place, the count and the slot. -/
theorem transferWordsSupplySlicesAndServeRings : Obligations.TransferWordsSupplySlicesAndServeRings := by
  intro s la d ua ub hp hd hu bay u avail word
  have hx (ha : ua % 2 = 0) := exec_cpop_ready (la := la) hp hd hu ha
  have hw (t : State) (x : Word) : resWord t (.cpop la d ua) d x = withUniform t d la x := resWord_eq rfl rfl t x
  refine ⟨fun hb hs => ?_, ⟨fun h => ⟨exec_cpoll_noRing hp hd hu h, exec_csleep_noRing hp hd hu h, fun ha => ?_⟩,
    fun base sp lg head tail h => ⟨exec_cpoll_ring hp hd hu h, exec_csleep_waits hp hd hu h, exec_csleep_records hp hd hu h,
      fun ha => ⟨fun hl => ?_, fun hl hn => ?_, fun hl hn => ?_⟩⟩⟩, ?_⟩
  · have hx := exec_xcopy_ready (la := la) hp hd hu hb
    exact ⟨fun hj => hx.trans (congrArg _ (supply_opens rfl rfl hs hj)),
      fun e hj => hx.trans (congrArg _ (supply_joins rfl rfl hs hj))⟩
  · exact (hx ha).trans (congrArg _ ((popRecord_noRing (s := u) h).trans (hw ..)))
  · exact (hx ha).trans (congrArg _ ((popRecord_noLanding (s := u) h hl).trans (hw ..)))
  · exact (hx ha).trans (congrArg _ ((popRecord_empty (s := u) h hl hn).trans (hw ..)))
  · rcases hb : slotBytes u sp (base + 32 * (tail % 2 ^ lg)) with (_ | c) | bs
    · exact (hx ha).trans (congrArg _ (popRecord_waits (s := u) h hl hn hb))
    · exact (hx ha).trans (congrArg _ ((popRecord_unreadable (s := u) h hl hn hb).trans (hw ..)))
    · intro hr ht
      have hf := shCore_shCore_own u (32 * (rdS s.old ua).toNat + 12) (rdS s.old (ua + 1)).toNat (bytesOfNat 4 (tail + 1)) bs
      refine ⟨_, (hx ha).trans (congrArg _ ((popRecord_takes (s := u) h hl hn hb hr ht).trans (hw ..))), ?_, hf.1⟩
      exact onlyCaches_trans (t := u) (onlyFetched_raiseTime s s.c.core (engTime s)).caches hf.caches
  · rw [exec_cring hp hd hu (exec_xwp ..) rfl rfl, resWord_eq rfl rfl]
    rfl

end Sys2Proof.Machine
end

section
/-! SUPPORT. The events of the engines, the walkers and the fault ring (R209, R212, R215, R220, R221, R223, R225, R262, R278,
R337). -/

namespace Sys2Proof.Machine

/-! ### Elements of S (R202) -/

theorem le_readTime (s : State) (ts : List Tag) (now : Nat) : now ≤ readTime s ts now := by
  induction ts generalizing now with
  | nil => exact le_rfl
  | cons t ts ih => exact (le_max_left ..).trans (ih _)

/-- `t` is `s` but for the times of lines and the engines' time, which has not gone back. -/
def OnlyEngineTimes (s t : State) : Prop := t = { s with lines := t.lines, etime := t.etime } ∧ s.etime ≤ t.etime

theorem onlyEngineTimes_engRead (s : State) (ts : List Tag) : OnlyEngineTimes s (engRead s ts) := by
  unfold engRead
  split
  · exact ⟨rfl, le_rfl⟩
  · obtain ⟨lines, h⟩ := readLines_frame s ts (readTime s ts (engTime s)) 0
    simp only [h]
    exact ⟨rfl, (le_max_left ..).trans (le_readTime ..)⟩

theorem onlyEngineTimes_engWrite (s : State) (ts : List Tag) : OnlyEngineTimes s (engWrite s ts) := by
  unfold engWrite
  split
  · exact ⟨rfl, le_rfl⟩
  · obtain ⟨lines, h⟩ := writeLines_frame s ts (writeTime s ts (engTime s))
    simp only [h]
    exact ⟨rfl, (le_max_left ..).trans (le_writeTime ..)⟩

/-! ### The BTE (R209, R212, R215) -/

theorem noChunk_iff (s : State) (bay : Nat) : ((List.range 16).all fun ch => (chunkSize s bay ch).isNone) = true ↔
    ∀ ch < 16, chunkSize s bay ch = none := by simp

theorem bteChunk_serves {s : State} {bay : Nat} (h : ∃ ch < 16, (chunkSize (beginHeads s bay) bay ch).isSome = true) :
    bteChunk s bay = idleRounds (beginHeads (serveChunk (beginHeads s bay) bay) bay) bay := by
  unfold bteChunk
  generalize beginHeads s bay = u at h ⊢
  obtain ⟨ch, hlt, hc⟩ := h
  exact if_neg fun hn => by rw [(noChunk_iff ..).1 hn ch hlt] at hc; cases hc

theorem bteChunk_idles {s : State} {bay : Nat} (h : ∀ ch < 16, chunkSize (beginHeads s bay) bay ch = none) : bteChunk s bay =
    updBay (beginHeads s bay) bay fun b => { b with deficit := [0, 0, 0, 0], fresh := true } := by
  unfold bteChunk
  generalize beginHeads s bay = u at h ⊢
  have hn := (noChunk_iff ..).2 h
  exact (if_pos hn).trans (if_pos hn)

section Head
variable {s : State} {bay ch : Nat} {e : ChanEntry} (he : (chanAt (beginHeads s bay) bay ch).entries.head? = some e)
  (hk : e.kind = .copy)
include he hk

theorem bteComplete_over (ho : copyOver (beginHeads s bay) e = true) : bteComplete s bay ch =
    sweepKept (settleFences (copyDone (beginHeads s bay) bay ch e) bay) := by
  unfold bteComplete
  generalize beginHeads s bay = u at he ho ⊢
  simp only [he, hk, ho, decide_true, Bool.and_true, if_true]

omit hk in
theorem bteComplete_moving (ho : copyOver (beginHeads s bay) e = false) : bteComplete s bay ch = beginHeads s bay := by
  unfold bteComplete
  generalize beginHeads s bay = u at he ho ⊢
  simp only [he, ho, Bool.and_false, Bool.false_eq_true, if_false]

end Head

/-! ### A byte copied within a share (R171, R209) -/

section Share
variable {s : State} {e : ChanEntry} {quad base size o : Nat} (b : Byte)

theorem shPut_pad (he : e.share s = .pad quad base size) (ho : o < size) (ha : armedAt s (.sp quad (base + o)) = false)
    (hp : pinned s (.sp quad (base + o)) = false) : shPut s e o b = .ok (shEng s (.pad quad base size) o [b]) := by
  have ha' : shArmed s (.pad quad base size) o = false := ha
  have hp' : shPinned s (.pad quad base size) o = false := hp
  have ho' : ¬ (ShareAt.pad quad base size).size ≤ o := Nat.not_le.2 ho
  simp [shPut, he, ha', hp', ho']

theorem shFree_pad_byte (ha : armedAt s (.sp quad (base + o)) = false) : shFree s (.pad quad base size) o [b] =
    updQuad s quad fun q => { q with sp := memSet q.sp (base + o) b } := 
  if_neg fun h => Bool.false_ne_true (ha.symm.trans h)

theorem linSrc_pad {d : SliceD} {j : Nat} (pos n : Nat) (he : e.share s = .pad quad base size) (hs : d.ssp = 1) (hj : d.src + j < size) :
    linSrc s e d j pos n = .ok (memGet (quadAt s quad).sp (base + (d.src + j))) := by
  simp only [linSrc, hs, shByte, he]
  exact if_pos hj

theorem linByte_share {d : SliceD} {j : Nat} (pos n : Nat) (hs : d.ssp = 1) (hd : d.dsp = 1) (he : e.share s = .pad quad base size)
    (hj : d.src + j < size) (hj' : d.dst + j < size) (ha : armedAt s (.sp quad (base + (d.dst + j))) = false)
    (hp : pinned s (.sp quad (base + (d.dst + j))) = false) :
    linByte s e d j pos n = .ok (shEng (engRead s (linTags s e d j)) (.pad quad base size) (d.dst + j)
      [memGet (quadAt s quad).sp (base + (d.src + j))]) := by
  obtain ⟨hr, -⟩ := onlyEngineTimes_engRead s (linTags s e d j)
  simp only [linByte, hd, linSrc_pad pos n he hs hj]
  refine shPut_pad _ ?_ hj' ?_ ?_
  all_goals rw [hr]; assumption

/-- The byte as the engine has read and written it: the elements of S are two, and nothing else has changed. -/
theorem shEng_pad_byte (ts : List Tag) (ha : armedAt s (.sp quad (base + o)) = false) :
    let t := shEng (engRead s ts) (.pad quad base size) o [b]
    t = { updQuad s quad (fun q => { q with sp := memSet q.sp (base + o) b }) with lines := t.lines, etime := t.etime } ∧
      s.etime ≤ t.etime := by
  obtain ⟨hr, hle⟩ := onlyEngineTimes_engRead s ts
  generalize engRead s ts = r at hr hle ⊢
  have ha' : armedAt r (.sp quad (base + o)) = false := by rwa [hr]
  rw [shEng, shFree_pad_byte b ha']
  obtain ⟨hw, hle'⟩ := onlyEngineTimes_engWrite (updQuad r quad fun q => { q with sp := memSet q.sp (base + o) b })
    (shTags (.pad quad base size) o [b].length)
  generalize engWrite _ _ = t at hw hle' ⊢
  refine ⟨?_, hle.trans hle'⟩
  rw [hw, hr]
  rfl

end Share

/-! ### The matrix engine (R220, R221) -/

section Grant
variable {s : State} {quad : Nat}

theorem grant_none (h : pickEntry (max s.cycle (quadAt s quad).arrayFree) (quadAt s quad) = none) : grant s quad = s := by
  unfold grant
  simp only [h]

theorem grant_some {e : QmeEntry} (h : pickEntry (max s.cycle (quadAt s quad).arrayFree) (quadAt s quad) = some e) :
    grant s quad =
      let q := quadAt s quad
      let now := max s.cycle q.arrayFree
      let p := if e.kind < 2 then multiply q e
        else if e.kind = 3 then { q with acc := q.acc.set e.slot (List.replicate 4096 0) } else q
      { s with
        cycle := now
        quads := s.quads.set quad { p with
          arrayFree := now + arrayCycles e
          qme := p.qme.map fun x => if x.op = e.op then { x with
            active := true, due := now + arrayCycles e + 24, pa := if e.kind = 2 then outPanel p e else x.pa } else x } } := by
  unfold grant
  simp only [h]

end Grant

/-! ### The queue engines (R223, R225, R337) -/

theorem serveAt_serves {s v t : State} {die n : Nat} {r : WqReq} (hr : (dieAt s die).wq[n]? = some r) (hw : r.waiting = false)
    (hd : (dieAt s die).st = .active)
    (hf : ∀ x ∈ (dieAt s die).wq.take n, x.waiting = true ∨ x.vf ≠ r.vf ∨ x.qid ≠ r.qid) (hb : refillDue s r.vf r.qid = false)
    (hc : queueClear s r.kind.isPush r.vf r.qid = (true, v)) (ht : serveReq v die r = some t) : serveAt s die n = t := by
  have hbefore : ((dieAt s die).wq.take n).any (fun x => !x.waiting && x.vf == r.vf && x.qid == r.qid) = false := by
    refine List.any_eq_false.2 fun x hx h => ?_
    simp only [Bool.and_eq_true, Bool.not_eq_true', beq_iff_eq] at h
    obtain ⟨⟨hxw, hxv⟩, hxq⟩ := h
    rcases hf x hx with h | h | h
    · rw [hxw] at h; cases h
    · exact h hxv
    · exact h hxq
  unfold serveAt
  simp only [hr, hd, hc, hw, hb, hbefore, ht, bne_self_eq_false, Bool.not_true, Bool.or_false, Bool.false_eq_true, if_false,
    Option.getD_some]

section Refill
variable {s v : State} {quad n : Nat} {b : Binding} (hn : (quadAt s quad).bindings[n]? = some b)
  (hc : queueClear s false b.vf b.qid = (true, v))
include hn hc

theorem refillAt_refills (hd : b.due = 0) (hp : b.pending = true) (hq : queueBusy v b.vf b.qid = false)
    (hr : refillDue v b.vf b.qid = false) : refillAt s quad n = refill v quad b := by
  unfold refillAt
  simp only [hn, hc, hd, hp, hq, hr, Bool.not_true, Bool.not_false, Bool.and_true, Bool.false_eq_true, lt_irrefl, if_true, if_false]

theorem refillAt_goesOn (hd : 0 < b.due) : refillAt s quad n =
    refillPops (updBinding v quad b.crew b.qid fun x => { x with due := 0 }) quad b.crew b.vf b.qid b.due := by
  unfold refillAt
  simp only [hn, hc, if_pos hd, Bool.not_true, Bool.false_eq_true, if_false]

end Refill

/-- A device that takes no part sends every entry back. -/
theorem foldl_pushSteal_back (src : Nat) (es : List (List Byte)) {s : State} (h : stealQueue s = none) :
    es.foldl (fun t e => pushSteal t src (e.set 0 3)) s =
      { s with pod := { s.pod with shipped := s.pod.shipped ++ es.map fun e => (src, e.set 0 3) } } := by
  induction es generalizing s with
  | nil => rw [List.map_nil, List.append_nil]; rfl
  | cons e es ih =>
    have hb : pushSteal s src (e.set 0 3) =
        { s with pod := { s.pod with shipped := s.pod.shipped ++ [(src, e.set 0 3)] } } := by
      unfold pushSteal
      simp only [h]
      rfl
    rw [List.foldl_cons, hb]
    refine (ih (s := { s with pod := { s.pod with shipped := s.pod.shipped ++ [(src, e.set 0 3)] } }) h).trans ?_
    simp only [List.append_assoc, List.map_cons, List.singleton_append]

theorem exec_stealEntriesArrive_live {s : State} (hh : s.halted = false) (src : Nat) (es : List (List Byte)) :
    exec (.stealEntriesArrive src es) s = .next (es.foldl (fun t e => pushSteal t src (e.set 0 3))
      ((stealQueue s).elim s fun x => serveFirst s x.1 x.2 ((s.dies.map fun k => k.wq.length).sum))) := by
  rw [exec_stealEntriesArrive, execStealEntriesArrive, live_on _ hh]
  cases stealQueue s <;> rfl

/-! ### The fault ring (R262) -/

/-! Messages to other devices change no function's registers (R328). -/

theorem notePath_vfs (s : State) (dst hop : Nat) (o : OutFlit) : (notePath s dst hop o).vfs = s.vfs := by
  unfold notePath
  split
  · rfl
  · split
    · rfl
    · exact mapCrews_vfs ..

theorem trySend_vfs {s t : State} {dst : Nat} {o : OutFlit} (h : trySend s dst o = some t) : t.vfs = s.vfs := by
  unfold trySend at h
  split at h
  · cases h
  · dsimp only at h
    split at h
    · cases h
    · cases h
      exact notePath_vfs ..

theorem flushQ_vfs (s : State) (qs kept : List (Nat × OutFlit)) : (flushQ s qs kept).vfs = s.vfs := by
  induction qs generalizing s kept with
  | nil => rfl
  | cons q qs ih =>
    unfold flushQ
    split
    · exact ih ..
    · split
      next h => exact (ih ..).trans (trySend_vfs h)
      next => exact ih ..

theorem sendInvals_vfs (s : State) (vf : Nat) (acks : List (Nat × Nat)) : (sendInvals s vf acks).vfs = s.vfs := by
  unfold sendInvals
  induction acks generalizing s with
  | nil => rfl
  | cons a acks ih => exact (ih _).trans (flushQ_vfs ..)

theorem spanClear_vfs (s : State) (vf va n : Nat) : (spanClear s vf va n).2.vfs = s.vfs := by
  unfold spanClear
  split
  · rfl
  · split
    · unfold homeClear
      split
      · rfl
      · exact sendInvals_vfs ..
    · rfl

section Record
variable {s c : State} {vf : Nat} {r : FrRecord} {rest : List FrRecord} (hb : (vfAt s vf).frBlocked = false)
  (hp : (vfAt s vf).frPend = r :: rest)
include hb hp

theorem recordWrite_blocked (hc : recordClear s vf = (true, c)) (ht : tryRecord c vf = .blocked) :
    recordWrite s vf = interrupt (updVf c vf fun v => { v with frBlocked := true }) vf 3 := by
  unfold recordWrite
  simp only [hb, hp, hc, ht]
  rfl

theorem recordWrite_done {t : State} (hc : recordClear s vf = (true, c)) (ht : tryRecord c vf = .done t) : recordWrite s vf = t := by
  unfold recordWrite
  simp only [hb, hp, hc, ht]
  rfl

/-- A ring that cannot take records (R262). -/
theorem recordWrite_blocks (hc : recordClear s vf = (true, c)) (hv : vfAt c vf = vfAt s vf)
    (hr : (vfAt s vf).frbase = 0 ∨ 12 < (vfAt s vf).frlog2n) :
    recordWrite s vf = interrupt (updVf c vf fun v => { v with frBlocked := true }) vf 3 := by
  have ht : tryRecord c vf = .blocked := by
    unfold tryRecord
    simp only [hv, hp, if_pos hr]
  exact recordWrite_blocked hb hp hc ht

/-- The slot of a function's next record (R262). -/
def recordSlot (v : Vf) : Nat := v.frbase + 128 * (v.frhead % 2 ^ v.frlog2n)

omit hb hp in
/-- Nothing but its slot is to be written where no object is signalled. -/
theorem recordClear_unsignalled (ho : (vfAt s vf).fobj = 0) (hc : spanClear s vf (recordSlot (vfAt s vf)) 128 = (true, c)) :
    recordClear s vf = (true, c) := by
  unfold recordSlot at hc
  unfold recordClear
  simp only [ho, if_true, hc, Bool.not_false, Bool.and_true]

theorem recordWrite_writes {u : State} (hbase : (vfAt s vf).frbase ≠ 0) (hlog : (vfAt s vf).frlog2n ≤ 12) (ho : (vfAt s vf).fobj = 0)
    (hn : ringCount (vfAt s vf).frhead (vfAt s vf).frtail ≠ 2 ^ (vfAt s vf).frlog2n)
    (hc : spanClear s vf (recordSlot (vfAt s vf)) 128 = (true, c))
    (hu : writeVa c vf (recordSlot (vfAt s vf)) (stampRecord r.bytes (spanTime c vf (recordSlot (vfAt s vf)) 128)) = .ok u) :
    recordWrite s vf = interrupt (releaseEntry
      (updVf u vf fun v => { v with frPend := rest, frhead := (v.frhead + 1) % 2 ^ 32 }) r) vf 0 := by
  have hv : vfAt c vf = vfAt s vf := by
    have h := spanClear_vfs s vf (recordSlot (vfAt s vf)) 128
    rw [hc] at h
    rw [vfAt, vfAt, h]
  have hr : ¬ ((vfAt s vf).frbase = 0 ∨ 12 < (vfAt s vf).frlog2n) := by omega
  have ht : tryRecord c vf = .done (interrupt (releaseEntry
      (updVf u vf fun v => { v with frPend := rest, frhead := (v.frhead + 1) % 2 ^ 32 }) r) vf 0) := by
    unfold recordSlot at hu
    unfold tryRecord
    simp only [hv, hp, if_neg hr, if_neg hn, hu, ho, if_true]
  exact recordWrite_done hb hp (recordClear_unsignalled ho hc) ht

end Record

/-! ### Page walks (R278) -/

section Walk
variable {s : State} {die n : Nat} {k : Walk} (hk : (dieAt s die).walks[n]? = some k)
include hk

theorem walkComplete_fails {c : Nat} (hw : walkNow s k.want = .error (.code c)) : walkComplete die n s =
    admitMisses (handOut (updDie s die fun d => { d with walks := d.walks.eraseIdx n }) k (.miss k.want.page c)) die
      (dieAt s die).misses.length := by
  unfold walkComplete
  simp only [hk, hw]

theorem walkComplete_waits (hw : walkNow s k.want = .error .wait) : walkComplete die n s = s := by
  unfold walkComplete
  simp only [hk, hw]

theorem walkComplete_finds {l : Leaf} (hw : walkNow s k.want = .ok l) : walkComplete die n s =
    let t := handOut (updDie s die fun d => { d with walks := d.walks.eraseIdx n }) k (.hit l)
    admitMisses (if k.want.st2 then tlbFill t none k.want.bay l else t) die (dieAt s die).misses.length := by
  unfold walkComplete
  simp only [hk, hw]

end Walk

/-! ### The TLBs (R276) -/

/-- A TLB after a leaf has come into it. -/
def tlbWith (ctr cap : Nat) (l : TlbEnt) (t : List TlbEnt) : List TlbEnt := if t.contains l then t else tlbPut t cap ctr l

theorem mem_tlbWith (ctr cap : Nat) (l : TlbEnt) (t : List TlbEnt) : l ∈ tlbWith ctr cap l t := by
  unfold tlbWith tlbPut
  split
  next h => exact List.contains_iff_mem.1 h
  next => split <;> exact List.mem_cons_self

section Fill
variable (t : State) (core bay : Nat) {l : TlbEnt} (hl : l.st2 = false)
include hl

theorem tlbFill_stage1 : tlbFill t (some core) bay l = { updBay (updCore t core fun k => { k with tlb := tlbWith t.freeCtr 64 l k.tlb }) bay
    (fun b => { b with tlb := tlbWith t.freeCtr 4096 l b.tlb }) with freeCtr := t.freeCtr + 1 } := by
  unfold tlbFill
  simp only [hl, Bool.false_eq_true, if_false]
  rfl

theorem coreAt_tlbFill (c : Nat) : coreAt (tlbFill t (some core) bay l) c = if c = core ∧ c < t.cores.length then
    { coreAt t c with tlb := tlbWith t.freeCtr 64 l (coreAt t c).tlb } else coreAt t c := by
  rw [tlbFill_stage1 t core bay hl]
  exact coreAt_updCore t core c _

theorem bayAt_tlbFill (b : Nat) : bayAt (tlbFill t (some core) bay l) b = if b = bay ∧ b < t.bays.length then
    { bayAt t b with tlb := tlbWith t.freeCtr 4096 l (bayAt t b).tlb } else bayAt t b := by
  rw [tlbFill_stage1 t core bay hl]
  exact getD_modify ..

end Fill

/-- Settles O51: each event by its rule, a clause at a time. -/
theorem engineEventsTakeEffect : Obligations.EngineEventsTakeEffect := by
  intro s hh
  have hx {i : Instr} {f : State → State} {t : State} (hi : exec i s = live s f) (ht : f s = t) : exec i s = .next t :=
    (hi.trans (live_on f hh)).trans (congrArg _ ht)
  refine ⟨fun bay => ⟨fun h => ?_, fun h => ?_⟩, ?_, ?_, ?_, ?_, ?_, ?_, ?_, ?_, ?_, ?_, ?_, ?_⟩
  · exact hx (exec_bteChunk ..) (bteChunk_serves h)
  · exact hx (exec_bteChunk ..) (bteChunk_idles h)
  · intro e d j pos n quad base size hs hd he hj hj' ha hp
    exact ⟨_, linByte_share pos n hs hd he hj hj' ha hp, shEng_pad_byte _ _ ha⟩
  · exact fun bay ch e he hk => ⟨fun ho => hx (exec_bteCompletion ..) (bteComplete_over he hk ho),
      fun ho => hx (exec_bteCompletion ..) (bteComplete_moving he ho)⟩
  · exact fun quad _ => ⟨fun h => hx (exec_qmeGrant ..) (grant_none h), fun e h => hx (exec_qmeGrant ..) (grant_some h)⟩
  · intro quad n e he
    refine hx (exec_qmeCompletion ..) ?_
    simp only [he]
  · intro quad n e he
    refine hx (exec_qmeEntryAging ..) ?_
    simp only [he]
  · exact fun die n r t hr hw hd hf hb v hc ht => hx (exec_workqRequestServed ..) (serveAt_serves hr hw hd hf hb hc ht)
  · exact fun quad n b v hn hc => ⟨fun hd hp hq hr => hx (exec_refillArrival ..) (refillAt_refills hn hc hd hp hq hr),
      fun hd => hx (exec_refillArrival ..) (refillAt_goesOn hn hc hd)⟩
  · intro src es h
    rw [exec_stealEntriesArrive_live hh, h]
    exact congrArg _ (foldl_pushSteal_back src es h)
  · intro src es vf q h
    rw [exec_stealEntriesArrive_live hh, h]
    rfl
  · exact fun vf r rest u c hb hp hbase hlog ho hn hc hu =>
      hx (exec_faultRecordWrite ..) (recordWrite_writes hb hp hbase hlog ho hn hc hu)
  · exact fun vf r rest c hb hp hr hc hv => hx (exec_faultRecordWrite ..) (recordWrite_blocks hb hp hc hv hr)
  · intro die n k hk
    refine ⟨fun c hw => ?_, fun l hw => ?_, fun hw => hx (exec_pageWalkComplete ..) (walkComplete_waits hk hw),
      fun t core bay l hc hb hl => ⟨?_, ?_, fun b hne => ?_, fun c hne => ?_⟩⟩
    · exact hx (exec_pageWalkComplete ..) (walkComplete_fails hk hw)
    · exact hx (exec_pageWalkComplete ..) (walkComplete_finds hk hw)
    · rw [coreAt_tlbFill t core bay hl, if_pos ⟨rfl, hc⟩]
      exact mem_tlbWith ..
    · rw [bayAt_tlbFill t core bay hl, if_pos ⟨rfl, hb⟩]
      exact mem_tlbWith ..
    · rw [bayAt_tlbFill t core bay hl, if_neg fun h => hne h.1]
    · rw [coreAt_tlbFill t core bay hl, if_neg fun h => hne h.1]

end Sys2Proof.Machine
end
